-- ==== Sys2Proof/Word.lean ====
section
/-! DEFINITION. The word types of the WF2260's formats (spec R109, R141, R172, R187). -/

namespace Sys2Proof

/-- One byte of a link record, of the rig table, of the status block. -/
abbrev Byte := BitVec 8

/-- One 32-bit word of the rig table (R172); also a 32-bit counter or number (R1, R182). -/
abbrev Word := BitVec 32

/-- A reading of the 48-bit timebase (R109). -/
abbrev Stamp := BitVec 48

/-- A 40-bit byte address (R141). -/
abbrev Addr := BitVec 40

/-- The difference `a − b` of two stamps, taken modulo 2^48 and read as signed (R109). -/
def stampDiff (a b : Stamp) : Int := (a - b).toInt

end Sys2Proof
end

