-- ==== Sys2Proof/Syntax.lean ====
section
/-! DEFINITION. The commands of the WF2260: one constructor per row of spec/opcode_table.json. The table gives no fields;
the operands here are the model's (notes/assumptions/1.md, 2.md). -/

namespace Sys2Proof

/-- The two eyes (00_scope.md, "Names"). -/
inductive Eye
  | left
  | right
deriving DecidableEq, Repr

/-- The other eye: "eye Y" where a rule speaks of eye X. -/
def Eye.other : Eye → Eye
  | .left => .right
  | .right => .left

/-- The four reader contexts (R67). -/
inductive ReaderId
  | a
  | b
  | c
  | d
deriving DecidableEq, Repr

/-- One command: an event at the part's lines or ports, or a step of one of its blocks. -/
inductive Instr
  /-- RESET_N_ASSERT (R156): RESET_N is asserted with the strap RIGSEL[2:0] standing at `rigsel` (R172). -/
  | resetNAssert (rigsel : BitVec 3)
  /-- RESET_N_RELEASE (R142). -/
  | resetNRelease
  /-- RESET_QUIET_TIME_END (R170). -/
  | resetQuietTimeEnd
  /-- FSYNC_PULSE (R110): the eye's line goes from low to high at timebase reading `time`. -/
  | fsyncPulse (x : Eye) (time : Stamp)
  /-- SYNC_LOSS_TIMER_EXPIRY (R117). -/
  | syncLossTimerExpiry (x : Eye)
  /-- FRAME_START (R7): the eye's capture stream takes a delivered frame start. -/
  | frameStart (x : Eye)
  /-- LOCK_GAINED (R5): the eye's capture stream takes the lock notice. -/
  | lockGained (x : Eye)
  /-- LOCK_LOST (R6): the eye's capture stream takes the departure notice. -/
  | lockLost (x : Eye)
  /-- SKEW_PULSE_HANDOVER (R127). -/
  | skewPulseHandover (x : Eye)
  /-- SKEW_LOCK_NOTICE (R126). -/
  | skewLockNotice (x : Eye)
  /-- SKEW_DEPARTURE_NOTICE (R126). -/
  | skewDepartureNotice (x : Eye)
  /-- TRIM_WORD_END (R136). -/
  | trimWordEnd
  /-- TRIM_GAP_END (R137). -/
  | trimGapEnd
  /-- REQUEST_ACCEPT (R142): the P-port offers a request record: 16 header bytes (byte 0 lowest) and its data (R187). -/
  | requestAccept (header : BitVec 128) (data : List Byte)
  /-- CAPTURE_WRITE (R13). -/
  | captureWrite
  /-- CAPTURE_READ (R18). -/
  | captureRead
  /-- PAIR_READ (R70). -/
  | pairRead
  /-- RIG_WRITE (R173). -/
  | rigWrite
  /-- CHECK_WORD_WRITE (R173). -/
  | checkWordWrite
  /-- EVENT_CLEAR_WORD (R180). -/
  | eventClearWord
  /-- PASS_THROUGH (R149). -/
  | passThrough
  /-- RESPONSE_ACCEPT (R155). -/
  | responseAccept
  /-- ARBITER_ISSUE (R161). -/
  | arbiterIssue
  /-- MPORT_ACCEPT (R162). -/
  | mportAccept
  /-- MPORT_RESPONSE (R163): a response record: 8 header bytes (byte 0 lowest) and its data (R187). -/
  | mportResponse (header : BitVec 64) (data : List Byte)
  /-- M_TIMEOUT (R166) of one M-tag. -/
  | mTimeout (tag : Nat)
  /-- FRAME_TIMER_EXPIRY (R32) of one slot. -/
  | frameTimerExpiry (x : Eye) (slot : Nat)
  /-- MATCH_TIMER_EXPIRY (R53) of one slot. -/
  | matchTimerExpiry (x : Eye) (slot : Nat)
  /-- LEASE_EXPIRY (R76). -/
  | leaseExpiry (r : ReaderId)
  /-- PARK_TIMER_EXPIRY (R81) of the parked read held by one request table entry. -/
  | parkTimerExpiry (entry : Nat)
  /-- PRDY_PULSE_END (R63). -/
  | prdyPulseEnd
  /-- STATUS_INTERVAL_EXPIRY (R183). -/
  | statusIntervalExpiry
  /-- STATUS_WRITE_OFFER (R183). -/
  | statusWriteOffer
  /-- RECORD_WRITE_OFFER (R185). -/
  | recordWriteOffer
  /-- REFUSED_REQUEST (R144). -/
  | refusedRequest
deriving DecidableEq, Repr

end Sys2Proof
end

