-- ==== Sys2Proof/Config.lean ====
section
/-! DEFINITION. The fixed sizes and durations of the part. The spec leaves no value free, so there is no opaque constant here. -/

namespace Sys2Proof.Config

/-- The intake queue holds up to 32 requests (R142). -/
abbrev intakeDepth : Nat := 32
/-- The request table holds 48 entries (R143). -/
abbrev requestEntries : Nat := 48
/-- There are 64 M-tags (R158). -/
abbrev mTags : Nat := 64
/-- The park list holds up to 8 parked reads (R80). -/
abbrev parkPlaces : Nat := 8
/-- The report queue holds up to 16 records (R184). -/
abbrev reportDepth : Nat := 16
/-- An injected request with this wait count goes first at a boundary (R161). -/
abbrev waitLimit : Nat := 8
/-- The largest pair number (R47). -/
abbrev lastPairNumber : Nat := 4294967295
/-- The source tag of the part's own requests (R141). -/
abbrev ownSource : Nat := 63

/-- One tick is 4 ns (R109). -/
abbrev ticksPerUs : Nat := 250
abbrev ticksPerMs : Nat := 250000
/-- The reset quiet time is 2,000 us (R170). -/
abbrev quietTicks : Nat := 2000 * ticksPerUs
/-- A PRDY pulse lasts 1 us (R63). -/
abbrev prdyPulseTicks : Nat := ticksPerUs
/-- A trim word takes 16 us, its gap 4 us (R136). -/
abbrev trimWordTicks : Nat := 16 * ticksPerUs
abbrev trimGapTicks : Nat := 4 * ticksPerUs
/-- The saturation count at which TRIM_SATURATED is raised (R134). -/
abbrev saturationLimit : Nat := 16

/-- Addresses are 40 bits wide (R141). -/
abbrev addressSpace : Nat := 1099511627776
/-- 4 KiB: the rig table's span (R172) and the page of the base fields (R188). -/
abbrev page : Nat := 4096
/-- 128 GiB: the rig table lies at RIGSEL times this (R172). -/
abbrev rigStep : Nat := 137438953472
/-- 256 MiB (R2). -/
abbrev captureWindowBytes : Nat := 268435456
/-- 512 MiB (R85). -/
abbrev pairWindowBytes : Nat := 536870912
/-- The status block's size (R183). -/
abbrev statusBytes : Nat := 256
/-- A report record's size (R185). -/
abbrev recordBytes : Nat := 32
/-- The start-up load is 64 reads of 64 bytes (R177). -/
abbrev loadReads : Nat := 64
abbrev loadReadBytes : Nat := 64
/-- The offset of the event clear word in the rig table (R188). -/
abbrev eventClearOffset : Nat := 4092

end Sys2Proof.Config
end

