-- ==== Sys2Proof/Machine/Types.lean ====
section
/-! DEFINITION. The data the blocks of the part hold: settings, geometries, records, contexts and entries, as the spec names them. -/

namespace Sys2Proof.Machine

/-! ### Things held once per eye, once per reader -/

/-- One of a thing for each eye. -/
structure PerEye (α : Type) where
  left : α
  right : α
deriving DecidableEq, Repr

def PerEye.get {α : Type} (p : PerEye α) : Eye → α
  | .left => p.left
  | .right => p.right

def PerEye.set {α : Type} (p : PerEye α) (x : Eye) (v : α) : PerEye α :=
  match x with
  | .left => { p with left := v }
  | .right => { p with right := v }

/-- One of a thing for each reader. -/
structure PerReader (α : Type) where
  a : α
  b : α
  c : α
  d : α
deriving DecidableEq, Repr

def PerReader.get {α : Type} (p : PerReader α) : ReaderId → α
  | .a => p.a
  | .b => p.b
  | .c => p.c
  | .d => p.d

def PerReader.set {α : Type} (p : PerReader α) (r : ReaderId) (v : α) : PerReader α :=
  match r with
  | .a => { p with a := v }
  | .b => { p with b := v }
  | .c => { p with c := v }
  | .d => { p with d := v }

/-- The readers in the order of their letters. -/
def allReaders : List ReaderId := [.a, .b, .c, .d]

/-- A timer: stopped, or running with its remaining ticks. -/
inductive Timer
  | stopped
  | running (remaining : Nat)
deriving DecidableEq, Repr

def Timer.isRunning : Timer → Bool
  | .stopped => false
  | .running _ => true

/-- Time passes: a running timer counts down and stays at 0 until its expiry is taken (notes/assumptions/3.md). -/
def Timer.passes (n : Nat) : Timer → Timer
  | .stopped => .stopped
  | .running r => .running (r - n)

/-! ### Geometry, damage -/

/-- A geometry (R95). -/
structure Geometry where
  width : Nat
  pixelBytes : Nat
  lines : Nat
  top : Nat
  bottom : Nat
  shift : Int
  hflip : Bool
  vflip : Bool
  pitch : Nat
deriving DecidableEq, Repr

/-- Line bytes LB (R95). -/
def Geometry.lineBytes (g : Geometry) : Nat := g.width * g.pixelBytes
/-- Frame bytes (R95). -/
def Geometry.frameBytes (g : Geometry) : Nat := g.lineBytes * g.lines

/-- The defaults of R95. -/
def Geometry.default : Geometry :=
  { width := 4096, pixelBytes := 2, lines := 2176, top := 0, bottom := 0, shift := 0, hflip := false, vflip := false,
    pitch := 8192 }

/-- "Geometry cleared" (R42, R45): every field 0 (notes/assumptions/29.md). -/
def Geometry.cleared : Geometry :=
  { width := 0, pixelBytes := 0, lines := 0, top := 0, bottom := 0, shift := 0, hflip := false, vflip := false, pitch := 0 }

/-- The picture fields that two linked slots share (R48, R50). -/
structure PairGeometry where
  width : Nat
  pixelBytes : Nat
  lines : Nat
  top : Nat
  bottom : Nat
  pitch : Nat
deriving DecidableEq, Repr

/-- The fields of a geometry that linking compares (R50). -/
def Geometry.shared (g : Geometry) : PairGeometry :=
  { width := g.width, pixelBytes := g.pixelBytes, lines := g.lines, top := g.top, bottom := g.bottom, pitch := g.pitch }

def PairGeometry.lineBytes (g : PairGeometry) : Nat := g.width * g.pixelBytes

/-- A pair's extent in the pair window: 2 × LB × H bytes (R85). -/
def PairGeometry.extent (g : PairGeometry) : Nat := 2 * g.lineBytes * g.lines

/-- A set of damage flags (R33). -/
structure Damage where
  gap : Bool
  rewrite : Bool
  misaligned : Bool
  writeFault : Bool
deriving DecidableEq, Repr

def Damage.none : Damage := { gap := false, rewrite := false, misaligned := false, writeFault := false }

def Damage.union (a b : Damage) : Damage :=
  { gap := a.gap || b.gap, rewrite := a.rewrite || b.rewrite, misaligned := a.misaligned || b.misaligned,
    writeFault := a.writeFault || b.writeFault }

/-- Some flag is set. -/
def Damage.any (d : Damage) : Bool := d.gap || d.rewrite || d.misaligned || d.writeFault

/-! ### Settings (R175) -/

/-- The pair window layout (R85). -/
inductive Layout
  | sequential
  | interleaved
deriving DecidableEq, Repr

/-- The PRDY mode (R63, R64). -/
inductive PrdyMode
  | off
  | pulse
  | level
deriving DecidableEq, Repr

/-- The gain in trim units per tick (R124): OFF, 1, 1/2, 1/4, 1/8. -/
inductive Gain
  | off
  | one
  | half
  | quarter
  | eighth
deriving DecidableEq, Repr

/-- A reader's policy (R67). -/
inductive Policy
  | every
  | latest
deriving DecidableEq, Repr

/-- A reader's wait mode (R67). -/
inductive WaitMode
  | park
  | nowait
deriving DecidableEq, Repr

/-- The GLOBAL settings (R175). -/
structure GlobalSettings where
  take : Word
  windowBase : Nat
  layout : Layout
  prdyMode : PrdyMode
  prdyReader : ReaderId
  matchTolerance : Nat
  fill : BitVec 16
  frameLimit : Nat
  mTimeout : Nat
  reportBase : Nat
  ringSize : Nat
  statusInterval : Nat
  alertEnables : BitVec 11
deriving DecidableEq, Repr

def GlobalSettings.default : GlobalSettings :=
  { take := 0, windowBase := 0x0040000000, layout := .sequential, prdyMode := .off, prdyReader := .a,
    matchTolerance := 2500, fill := 0, frameLimit := 20000, mTimeout := 2000, reportBase := 0x0100000000, ringSize := 256,
    statusInterval := 10, alertEnables := 0 }

/-- The SYNC settings (R121, R124). -/
structure SyncSettings where
  follower : Eye
  target : Int
  filterShift : Nat
  warnLimit : Nat
  faultLimit : Nat
  hysteresis : Nat
  gain : Gain
  divider : Nat
  upRate : Nat
  downRate : Nat
  deadBand : Nat
  trimMin : Int
  trimMax : Int
  trimStart : Int
  directOnFault : Bool
  periodTolerance : Nat
  syncLossMs : Nat
deriving DecidableEq, Repr

def SyncSettings.default : SyncSettings :=
  { follower := .right, target := 0, filterShift := 2, warnLimit := 500, faultLimit := 2000, hysteresis := 100,
    gain := .off, divider := 1, upRate := 16, downRate := 16, deadBand := 20, trimMin := -2048, trimMax := 2047,
    trimStart := 0, directOnFault := false, periodTolerance := 250, syncLossMs := 50 }

/-- The EYE settings: enable, geometry (R95), capture window (R2) and pool layout (R43). -/
structure EyeSettings where
  enable : Bool
  geom : Geometry
  captureBase : Nat
  poolBase : Nat
  slotCount : Nat
  slotStride : Nat
deriving DecidableEq, Repr

def EyeSettings.default : Eye → EyeSettings
  | .left =>
    { enable := false, geom := Geometry.default, captureBase := 0x0010000000, poolBase := 0x0080000000, slotCount := 4,
      slotStride := 17825792 }
  | .right =>
    { enable := false, geom := Geometry.default, captureBase := 0x0020000000, poolBase := 0x00C0000000, slotCount := 4,
      slotStride := 17825792 }

/-- The READER settings (R67). -/
structure ReaderSettings where
  enabled : Bool
  sourceTag : Nat
  policy : Policy
  waitMode : WaitMode
  parkLimit : Nat
  lease : Nat
  skipDamaged : Bool
  restartTakes : Bool
deriving DecidableEq, Repr

def ReaderSettings.default : ReaderSettings :=
  { enabled := false, sourceTag := 0, policy := .every, waitMode := .park, parkLimit := 10000, lease := 10000,
    skipDamaged := false, restartTakes := false }

/-! ### The rig table's sections (R172) -/

/-- The eight sections in their order. -/
inductive Section
  | global
  | sync
  | eye (x : Eye)
  | reader (r : ReaderId)
deriving DecidableEq, Repr

/-- The sections in the order in which one write or the end of the load treats them (R173, R179). -/
def Section.all : List Section :=
  [.global, .sync, .eye .left, .eye .right, .reader .a, .reader .b, .reader .c, .reader .d]

/-- The post state of a section (R172). -/
inductive PostState
  | unposted
  | posted
  | rejected
deriving DecidableEq, Repr

/-- One word of the staged shadow with its load marks (R177, R178). -/
structure ShadowWord where
  value : Word
  written : Bool
  faulted : Bool
deriving DecidableEq, Repr

/-- The staged words of one section, the check word last, and the section's post state. -/
structure SectionShadow where
  words : List ShadowWord
  post : PostState
deriving DecidableEq, Repr

/-- The staged shadow (R172). -/
structure Shadow where
  global : SectionShadow
  sync : SectionShadow
  eye : PerEye SectionShadow
  reader : PerReader SectionShadow
deriving DecidableEq, Repr

def Shadow.get (s : Shadow) : Section → SectionShadow
  | .global => s.global
  | .sync => s.sync
  | .eye x => s.eye.get x
  | .reader r => s.reader.get r

def Shadow.set (s : Shadow) (k : Section) (v : SectionShadow) : Shadow :=
  match k with
  | .global => { s with global := v }
  | .sync => { s with sync := v }
  | .eye x => { s with eye := s.eye.set x v }
  | .reader r => { s with reader := s.reader.set r v }

/-- Why a section is rejected (R175, R179). -/
inductive RejectReason
  | check
  | range
  | geometry
  | band
  | pool
  | overlap
  | reader
deriving DecidableEq, Repr

/-- A waiting change of the pair window (R174). -/
structure WindowChange where
  base : Nat
  layout : Layout
deriving DecidableEq, Repr

/-- The part state (R150). -/
inductive PartState
  | loading
  | running
deriving DecidableEq, Repr

/-! ### Sync unit -/

/-- The acquisition states (R111). -/
inductive SyncState
  | absent
  | acquiring
  | locked
deriving DecidableEq, Repr

/-- One eye's acquisition context (R111). -/
structure AcqCtx where
  state : SyncState
  lastPulse : Option Stamp
  candidate : Option Int
  lastAccepted : Option Stamp
  reference : Option Int
  faultRun : Nat
  lossTimer : Timer
deriving DecidableEq, Repr

/-- The context after RESET_N (R111). -/
def AcqCtx.reset : AcqCtx :=
  { state := .absent, lastPulse := none, candidate := none, lastAccepted := none, reference := none, faultRun := 0,
    lossTimer := .stopped }

/-- What the sync unit tells a capture stream (R114, R118, R119). -/
inductive StreamNotice
  | lockGained
  | lockLost
  | frameStart (stamp : Stamp)
deriving DecidableEq, Repr

/-- The outcome a pulse is handed over with (R120). -/
inductive PulseOutcome
  | accepted
  | periodFault
  | acquisition
deriving DecidableEq, Repr

/-- What the sync unit tells the skew unit (R114, R118, R120). -/
inductive SkewNotice
  | lock
  | departure
  | pulse (stamp : Stamp) (outcome : PulseOutcome) (reference : Option Int)
deriving DecidableEq, Repr

/-- The sync unit (R109, R111), with the notices on their way to the capture streams and the skew unit. -/
structure SyncUnit where
  timebase : Stamp
  acq : PerEye AcqCtx
  pulsed : PerEye Bool
  streamNotices : PerEye (List StreamNotice)
  skewNotices : PerEye (List SkewNotice)
deriving DecidableEq, Repr

/-! ### Capture streams and slots -/

/-- The states of a capture stream (R1). -/
inductive StreamState
  | off
  | waitingSync
  | between
  | open
  | spill
deriving DecidableEq, Repr

/-- One eye stream context (R1). -/
structure StreamCtx where
  state : StreamState
  frameNumber : Word
  currentSlot : Option Nat
  cursor : Nat
  geom : Geometry
  completed : Bool
deriving DecidableEq, Repr

/-- The context after RESET_N (R22). -/
def StreamCtx.reset : StreamCtx :=
  { state := .off, frameNumber := 0, currentSlot := none, cursor := 0, geom := Geometry.default, completed := false }

/-- The states of a slot (R25). -/
inductive SlotState
  | free
  | filling
  | landing
  | complete
  | paired
  | draining
deriving DecidableEq, Repr

/-- A slot in FILLING, LANDING or COMPLETE is live (R25). -/
def SlotState.live : SlotState → Bool
  | .filling => true
  | .landing => true
  | .complete => true
  | .free => false
  | .paired => false
  | .draining => false

/-- One slot record (R24). -/
structure SlotRecord where
  state : SlotState
  frameNumber : Word
  startStamp : Stamp
  partner : Option Nat
  pairNumber : Option Nat
  pairTake : Option Word
  geom : Geometry
  damage : Damage
  writes : Nat
  reads : Nat
  quarantined : Nat
  endReached : Bool
  frameTimer : Timer
deriving DecidableEq, Repr

/-- The record of a FREE slot, cleared (R42, R45). -/
def SlotRecord.free : SlotRecord :=
  { state := .free, frameNumber := 0, startStamp := 0, partner := none, pairNumber := none, pairTake := none,
    geom := Geometry.cleared, damage := Damage.none, writes := 0, reads := 0, quarantined := 0, endReached := false,
    frameTimer := .stopped }

/-- The reasons of a FRAME_LOST (R36). -/
inductive LostReason
  | truncated
  | syncLost
  | timedOut
  | orphaned
  | partnerLost
  | starved
deriving DecidableEq, Repr

/-! ### Pair manager -/

/-- The states of a pair record (R48). -/
inductive PairState
  | forming
  | ready
deriving DecidableEq, Repr

/-- One pair record (R48), with its stale mark (R61, R66; notes/assumptions/33.md). -/
structure PairRecord where
  number : Nat
  take : Word
  stale : Bool
  leftSlot : Nat
  rightSlot : Nat
  leftFrame : Word
  rightFrame : Word
  linkSkew : Int
  geom : PairGeometry
  state : PairState
  damage : Damage
  holders : Nat
  readyStamp : Option Stamp
deriving DecidableEq, Repr

/-- The slot of eye `x` that the record names. -/
def PairRecord.slotOf (r : PairRecord) : Eye → Nat
  | .left => r.leftSlot
  | .right => r.rightSlot

/-- The pair manager (R47). `nextNumber` is none when the numbers of the take are exhausted. -/
structure PairManager where
  queue : List PairRecord
  nextNumber : Option Nat
  matchTimers : PerEye (List Timer)
  prdy : Bool
  prdyPulse : Timer
deriving DecidableEq, Repr

/-! ### Reader unit -/

/-- The states of a reader (R68). -/
inductive ReaderState
  | unbound
  | idle
  | parked
  | holding
deriving DecidableEq, Repr

/-- A held pair: its number and its take (R67). The left slot of its record tells it from a record of the same number and take
that an earlier use of the take number has left in the queue (DESIGN CHOICE, notes/assumptions/33.md; R49: no slot is named by
two records). -/
structure HeldPair where
  number : Nat
  take : Word
  leftSlot : Nat
deriving DecidableEq, Repr

/-- The state fields of a reader context (R67). -/
structure ReaderCtx where
  state : ReaderState
  held : Option HeldPair
  lastTaken : Nat
  away : Bool
  lease : Timer
deriving DecidableEq, Repr

/-- The context after RESET_N (R92). -/
def ReaderCtx.reset : ReaderCtx := { state := .unbound, held := none, lastTaken := 0, away := false, lease := .stopped }

/-- One entry of the park list (R80). -/
structure ParkedRead where
  entry : Nat
  reader : ReaderId
  offset : Nat
  length : Nat
  timer : Timer
deriving DecidableEq, Repr

/-- The reader unit (R67, R80). -/
structure ReaderUnit where
  ctx : PerReader ReaderCtx
  parkList : List ParkedRead
deriving DecidableEq, Repr

/-! ### Request path -/

/-- READ or WRITE (R141). -/
inductive Kind
  | read
  | write
deriving DecidableEq, Repr

/-- A request as accepted (R141): its fields, and whether a bit outside the header's fields is set (R144 check 1). -/
structure Request where
  kindByte : Byte
  source : BitVec 6
  ttag : BitVec 8
  addr : Addr
  length : Nat
  data : List Byte
  stray : Bool
deriving DecidableEq, Repr

/-- The classes of a request (R143, R146). -/
inductive ReqClass
  | rig
  | capture (x : Eye)
  | pair
  | pool
  | other
  | refused
deriving DecidableEq, Repr

/-- The completion codes, lowest first (R153). -/
inductive Code
  | done
  | filled
  | damaged
  | discarded
  | noPair
  | rejected
  | memoryFault
deriving DecidableEq, Repr

/-- The code as it stands in the response record (R153). -/
def Code.value : Code → Nat
  | .done => 0x00
  | .filled => 0x01
  | .damaged => 0x02
  | .discarded => 0x10
  | .noPair => 0x20
  | .rejected => 0x30
  | .memoryFault => 0x40

/-- The higher of two codes (R153). -/
def Code.max (a b : Code) : Code := if a.value < b.value then b else a

/-- The states of a used request table entry (R143); an unused entry is `none` in the table. -/
inductive EntryState
  | inProgress
  | parked
  | returning
deriving DecidableEq, Repr

/-- One used request table entry (R143). -/
structure Entry where
  state : EntryState
  kind : Kind
  source : BitVec 6
  ttag : BitVec 8
  addr : Addr
  length : Nat
  cls : ReqClass
  offset : Nat
  outstanding : Nat
  code : Code
  data : List Byte
deriving DecidableEq, Repr

/-- The request path (R142, R143, R155). The head of `returning` is the response offered to the processor side. -/
structure RequestPath where
  intake : List Request
  table : List (Option Entry)
  returning : List Nat
deriving DecidableEq, Repr

/-! ### Transaction unit -/

/-- What a piece is to its owner, and where it belongs (R158, R159). -/
inductive Role
  | captureWrite (x : Eye) (slot : Nat)
  | readPiece (x : Eye) (slot : Nat) (place : Nat)
  | passThrough
deriving DecidableEq, Repr

/-- The injected requesters (R158). -/
inductive Injector
  | statusWrite
  | recordWrite
  | loadRead
deriving DecidableEq, Repr

/-- One piece waiting for issue (R159). -/
structure Piece where
  kind : Kind
  addr : Nat
  length : Nat
  data : List Byte
  source : BitVec 6
  entry : Nat
  role : Role
deriving DecidableEq, Repr

/-- One injected request waiting for issue, with its wait count (R160). -/
structure Injected where
  owner : Injector
  kind : Kind
  addr : Nat
  length : Nat
  data : List Byte
  wait : Nat
deriving DecidableEq, Repr

/-- The owner of a tag's request (R158): a request table entry with the piece's role, or an injected requester. -/
inductive Owner
  | entry (e : Nat) (role : Role)
  | injected (o : Injector)
deriving DecidableEq, Repr

/-- The states of a used M-tag (R158); a FREE tag is `none` in the table. -/
inductive TagState
  | offered
  | inFlight
  | quarantined
deriving DecidableEq, Repr

/-- One used M-tag (R158), with the address and source tag that R165 reports (notes/assumptions/15.md). -/
structure TagEntry where
  state : TagState
  kind : Kind
  owner : Owner
  addr : Nat
  length : Nat
  source : BitVec 6
  timer : Timer
deriving DecidableEq, Repr

/-- The request standing on the M-port output (R162). -/
structure MOut where
  tag : Nat
  kind : Kind
  source : BitVec 6
  addr : Addr
  length : Nat
  data : List Byte
deriving DecidableEq, Repr

/-- What the arbiter has chosen at the last boundary and not yet issued whole (R161; notes/assumptions/12.md). -/
inductive Choice
  | group
  | injected
deriving DecidableEq, Repr

/-- The transaction unit (R158 to R162, R170). `claim` is the tag that became FREE first while the next request waited for one
(R162; notes/assumptions/36.md). -/
structure TxnUnit where
  tags : List (Option TagEntry)
  issue : List (List Piece)
  injected : List Injected
  choice : Option Choice
  claim : Option Nat
  output : Option MOut
  quiet : Timer
deriving DecidableEq, Repr

/-- A piece result (R164). -/
inductive MResult
  | ok (data : List Byte)
  | fault
  | timedOut
deriving DecidableEq, Repr

/-! ### Skew unit -/

/-- An eye's latest accepted pulse (R123). -/
structure LatestPulse where
  stamp : Stamp
  used : Bool
deriving DecidableEq, Repr

/-- The states of the trim sender (R136). -/
inductive SenderState
  | idle
  | sending
  | gap
deriving DecidableEq, Repr

/-- The trim sender (R123, R136). `timer` is the remaining time of the word or of the gap. -/
structure TrimSender where
  state : SenderState
  word : Option Int
  lastSent : Option Int
  pending : Bool
  timer : Timer
deriving DecidableEq, Repr

/-- The skew unit (R123). `f` is the filtered skew in units of 1/256 tick. -/
structure SkewUnit where
  lockView : PerEye Bool
  latest : PerEye (Option LatestPulse)
  f : Int
  seed : Bool
  d : Option Int
  warn : Bool
  fault : Bool
  sampleCount : Nat
  trim : Int
  satCount : Nat
  sender : TrimSender
deriving DecidableEq, Repr

/-- The skew unit after RESET_N (R123). -/
def SkewUnit.reset : SkewUnit :=
  { lockView := ⟨false, false⟩, latest := ⟨none, none⟩, f := 0, seed := true, d := none, warn := false, fault := false,
    sampleCount := 0, trim := 0, satCount := 0,
    sender := { state := .idle, word := none, lastSent := none, pending := false, timer := .stopped } }

/-! ### Rig unit -/

/-- The rig unit (R172): the strap, the part state, the active settings, the staged shadow, a waiting window change, and
the index of the start-up load read offered or in flight (R177). -/
structure RigUnit where
  rigsel : BitVec 3
  partState : PartState
  global : GlobalSettings
  sync : SyncSettings
  eye : PerEye EyeSettings
  reader : PerReader ReaderSettings
  shadow : Shadow
  windowChange : Option WindowChange
  loadIndex : Nat
deriving DecidableEq, Repr

/-! ### Report unit -/

/-- The event flags, in the bit order of R189. -/
inductive EventFlag
  | skewWarn
  | skewFault
  | trimSaturated
  | syncLost (x : Eye)
  | frameLost
  | pairDamaged
  | readerLapsed
  | configRejected
  | memoryFault
  | reportOverflow
deriving DecidableEq, Repr

/-- Why a capture write is discarded (R17). -/
inductive DiscardReason
  | unframed
  | overrun
  | spill
deriving DecidableEq, Repr

/-- The counters, in the order of R189 (offsets 0x90 to 0xDC). -/
inductive Counter
  | lost (r : LostReason)
  | pairsFormed
  | discarded (r : DiscardReason)
  | clippedBytes
  | rejected
  | mFaults
  | mTimeouts
  | lateResponses
  | unknownTags
  | recordsWritten
  | recordsLost
  | periodFaults (x : Eye)
deriving DecidableEq, Repr

/-- The kinds of a READER_EVENT (R190). -/
inductive ReaderEventKind
  | skipped
  | leaseLapsed
  | parkExpired
deriving DecidableEq, Repr

/-- The kinds of a SKEW_EVENT (R190). -/
inductive SkewEventKind
  | warnEnter
  | warnLeave
  | faultEnter
  | faultLeave
  | trimSaturated
deriving DecidableEq, Repr

/-- The cause of a SYNC_LOST (R118). -/
inductive LossCause
  | periodFaults
  | silence
deriving DecidableEq, Repr

/-- The cause of a MEMORY_FAULT (R165). -/
inductive MemoryFaultCause
  | fault
  | timeout
deriving DecidableEq, Repr

/-- The kind fields of a report record (R190). -/
inductive RecordBody
  | pairReady (damage : Damage) (number : Nat) (leftFrame rightFrame : Word) (skew : Int) (leftSlot rightSlot : Nat)
  | frameLost (reason : LostReason) (frame : Word) (pair : Option Nat) (eye : Eye) (slot : Option Nat) (endReached : Bool)
  | readerEvent (kind : ReaderEventKind) (reader : ReaderId) (damage : Damage) (pair : Nat) (take : Word) (offset : Nat)
  | skewEvent (kind : SkewEventKind) (f trim : Int) (d : Option Int) (target : Int)
  | syncLost (eye : Eye) (cause : LossCause) (lastAccepted : Option Stamp) (reference : Option Int)
  | configRejected (reason : RejectReason) (sect : Section) (loadFault : Bool)
  | takeChange (old new : Word)
  | memoryFault (cause : MemoryFaultCause) (addr : Nat) (kind : Kind) (owner : Owner) (source : BitVec 6) (tag : Nat)
      (length : Nat)
deriving DecidableEq, Repr

/-- A report record (R184, R190). -/
structure ReportRecord where
  seq : Word
  stamp : Stamp
  take : Word
  body : RecordBody
deriving DecidableEq, Repr

/-- The kinds of write the report unit offers (R185). -/
inductive ReportWrite
  | status
  | record
deriving DecidableEq, Repr

/-- The report unit (R181 to R186). -/
structure ReportUnit where
  flags : BitVec 11
  counters : List Word
  queue : List ReportRecord
  seq : Word
  ringIndex : Nat
  changed : Bool
  due : Bool
  outstanding : Option ReportWrite
  lastOffered : ReportWrite
  interval : Timer
  alertN : Bool
deriving DecidableEq, Repr

/-- The report unit after RESET_N (R181, R182, R185, R186). -/
def ReportUnit.reset : ReportUnit :=
  { flags := 0, counters := List.replicate 20 0, queue := [], seq := 0, ringIndex := 0, changed := false, due := false,
    outstanding := none, lastOffered := .record, interval := .stopped, alertN := true }

end Sys2Proof.Machine
end

