-- ==== Sys2Proof/Machine/Formats.lean ====
section
/-! DEFINITION. The layouts software and bus partners see (R172, R187, R188, R190): byte order, the words of each rig table
section both ways, the check word, link records, report records, the trim word. -/

namespace Sys2Proof.Machine

/-! ### Bytes and fields -/

/-- The `n` low-order bytes of `v`, lowest first (R187). -/
def leBytes : Nat → Nat → List Byte
  | 0, _ => []
  | n + 1, v => BitVec.ofNat 8 v :: leBytes n (v / 256)

/-- The number whose bytes, lowest first, are the list (R187). -/
def leNat : List Byte → Nat
  | [] => 0
  | b :: bs => b.toNat + 256 * leNat bs

/-- A signed quantity as an unsigned one of `w` bits, two's complement (R187). -/
def signedBits (w : Nat) (v : Int) : Nat := (BitVec.ofInt w v).toNat

/-- `n` bits of `w` from bit `lo`. -/
def field (w : Word) (lo n : Nat) : Nat := w.toNat / 2 ^ lo % 2 ^ n

/-- `n` bits of `w` from bit `lo`, read as signed (R187). -/
def signedField (w : Word) (lo n : Nat) : Int := (BitVec.ofNat n (field w lo n)).toInt

/-- Data made to have `n` bytes: a record of `n` bytes is left as it is (notes/assumptions/9.md). -/
def fitBytes (n : Nat) (data : List Byte) : List Byte := (List.range n).map fun i => data.getD i 0

/-- The byte of the fill pattern at an address: the low-order byte at an even one, the high-order byte at an odd one (R69, R154). -/
def fillByte (fill : BitVec 16) (addr : Nat) : Byte :=
  if addr % 2 = 0 then BitVec.ofNat 8 fill.toNat else BitVec.ofNat 8 (fill.toNat / 256)

/-- The fill pattern over `n` bytes from an address (R154). -/
def fillBytes (fill : BitVec 16) (addr n : Nat) : List Byte := (List.range n).map fun i => fillByte fill (addr + i)

/-- Apply `f` to each element with its index, counted from `i`. -/
def mapFrom {α β : Type} (f : Nat → α → β) : Nat → List α → List β
  | _, [] => []
  | i, a :: as => f i a :: mapFrom f (i + 1) as

/-! ### Codes (R188) -/

def boolCode (b : Bool) : Nat := if b then 1 else 0

def parseBool : Nat → Option Bool
  | 0 => some false
  | 1 => some true
  | _ => none

def layoutCode : Layout → Nat
  | .sequential => 0
  | .interleaved => 1

def parseLayout : Nat → Option Layout
  | 0 => some .sequential
  | 1 => some .interleaved
  | _ => none

def prdyModeCode : PrdyMode → Nat
  | .off => 0
  | .pulse => 1
  | .level => 2

def parsePrdyMode : Nat → Option PrdyMode
  | 0 => some .off
  | 1 => some .pulse
  | 2 => some .level
  | _ => none

def readerCode : ReaderId → Nat
  | .a => 0
  | .b => 1
  | .c => 2
  | .d => 3

def parseReaderId : Nat → Option ReaderId
  | 0 => some .a
  | 1 => some .b
  | 2 => some .c
  | 3 => some .d
  | _ => none

def gainCode : Gain → Nat
  | .off => 0
  | .one => 1
  | .half => 2
  | .quarter => 3
  | .eighth => 4

def parseGain : Nat → Option Gain
  | 0 => some .off
  | 1 => some .one
  | 2 => some .half
  | 3 => some .quarter
  | 4 => some .eighth
  | _ => none

def eyeCode : Eye → Nat
  | .left => 0
  | .right => 1

def parseEyeCode : Nat → Option Eye
  | 0 => some .left
  | 1 => some .right
  | _ => none

def policyCode : Policy → Nat
  | .every => 0
  | .latest => 1

def parsePolicy : Nat → Option Policy
  | 0 => some .every
  | 1 => some .latest
  | _ => none

def waitModeCode : WaitMode → Nat
  | .park => 0
  | .nowait => 1

def parseWaitMode : Nat → Option WaitMode
  | 0 => some .park
  | 1 => some .nowait
  | _ => none

def sectionCode : Section → Nat
  | .global => 0
  | .sync => 1
  | .eye x => 2 + eyeCode x
  | .reader r => 4 + readerCode r

/-- The offset of a section's first word in the rig table (R188). -/
def sectionOffset : Section → Nat
  | .global => 0x000
  | .sync => 0x040
  | .eye .left => 0x080
  | .eye .right => 0x0C0
  | .reader .a => 0x100
  | .reader .b => 0x120
  | .reader .c => 0x140
  | .reader .d => 0x160

/-! ### The words of the sections (R188) -/

/-- A word from fields given as (lowest bit, value). -/
def packWord (fields : List (Nat × Nat)) : Word :=
  BitVec.ofNat 32 ((fields.map fun p => p.2 * 2 ^ p.1).sum)

/-- The check word of a section's other words: the complement of their sum modulo 2^32 (R172). -/
def checkWord (ws : List Word) : Word := ~~~(ws.foldl (· + ·) 0)

/-- The check word of the section matches (R172). -/
def checkMatches (ws : List Word) : Bool := ws.getLast? == some (checkWord ws.dropLast)

/-- No word has a bit set outside its fields; the masks are of the bits inside the fields (R175 RANGE, second point). -/
def noStray (masks : List Word) (ws : List Word) : Bool := (List.zip masks ws).all fun p => p.2 &&& ~~~p.1 == 0

def encodeGlobal (g : GlobalSettings) : List Word :=
  [ g.take,
    packWord [(0, g.windowBase / Config.page)],
    packWord [(0, layoutCode g.layout), (8, prdyModeCode g.prdyMode), (16, readerCode g.prdyReader)],
    packWord [(0, g.matchTolerance), (16, g.fill.toNat)],
    packWord [(0, g.frameLimit), (16, g.mTimeout)],
    packWord [(0, g.reportBase / Config.page)],
    packWord [(0, g.ringSize), (16, g.statusInterval)],
    packWord [(0, g.alertEnables.toNat)] ]

def globalMasks : List Word :=
  [0xFFFFFFFF, 0x0FFFFFFF, 0x00FFFFFF, 0xFFFFFFFF, 0xFFFFFFFF, 0x0FFFFFFF, 0x00FFFFFF, 0x000007FF]

/-- The ring sizes: the powers of two from 16 to 4,096 (R175). -/
def ringSizes : List Nat := [16, 32, 64, 128, 256, 512, 1024, 2048, 4096]

/-- The GLOBAL settings a section's words hold, or none where the RANGE check fails (R175). -/
def parseGlobal (ws : List Word) : Option GlobalSettings :=
  match ws with
  | w0 :: w1 :: w2 :: w3 :: w4 :: w5 :: w6 :: w7 :: _ =>
    match parseLayout (field w2 0 8), parsePrdyMode (field w2 8 8), parseReaderId (field w2 16 8) with
    | some layout, some mode, some reader =>
      let g : GlobalSettings :=
        { take := w0, windowBase := Config.page * field w1 0 28, layout := layout, prdyMode := mode, prdyReader := reader,
          matchTolerance := field w3 0 16, fill := BitVec.ofNat 16 (field w3 16 16), frameLimit := field w4 0 16,
          mTimeout := field w4 16 16, reportBase := Config.page * field w5 0 28, ringSize := field w6 0 16,
          statusInterval := field w6 16 8, alertEnables := BitVec.ofNat 11 (field w7 0 11) }
      if noStray globalMasks ws ∧ 100 ≤ g.frameLimit ∧ 16 ≤ g.mTimeout ∧ g.ringSize ∈ ringSizes ∧ 1 ≤ g.statusInterval ∧
          Config.pairWindowBytes + g.windowBase ≤ Config.addressSpace ∧
          g.reportBase + (Config.statusBytes + g.ringSize * Config.recordBytes) ≤ Config.addressSpace
      then some g else none
    | _, _, _ => none
  | _ => none

def encodeSync (y : SyncSettings) : List Word :=
  [ packWord [(0, eyeCode y.follower), (8, y.filterShift), (16, y.divider), (24, gainCode y.gain)],
    packWord [(0, signedBits 16 y.target), (16, y.deadBand)],
    packWord [(0, y.warnLimit), (16, y.faultLimit)],
    packWord [(0, y.hysteresis), (16, y.periodTolerance)],
    packWord [(0, y.upRate), (8, y.downRate), (16, boolCode y.directOnFault), (24, y.syncLossMs)],
    packWord [(0, signedBits 16 y.trimMin), (16, signedBits 16 y.trimMax)],
    packWord [(0, signedBits 16 y.trimStart)] ]

def syncMasks : List Word :=
  [0xFFFFFFFF, 0xFFFFFFFF, 0xFFFFFFFF, 0xFFFFFFFF, 0xFFFFFFFF, 0xFFFFFFFF, 0x0000FFFF]

/-- A trim value is from −2,048 to 2,047 (R124; notes/assumptions/26.md). -/
def trimInRange (t : Int) : Bool := -2048 ≤ t && t ≤ 2047

/-- The checks of R125, and the ranges of R124. -/
def syncInRange (y : SyncSettings) : Bool :=
  y.filterShift ≤ 7 && (1 ≤ y.divider && y.divider ≤ 4) && 1 ≤ y.upRate && 1 ≤ y.downRate && y.warnLimit ≤ y.faultLimit &&
    y.hysteresis ≤ y.warnLimit && y.trimMin ≤ y.trimMax && (y.trimMin ≤ y.trimStart && y.trimStart ≤ y.trimMax) &&
    1 ≤ y.syncLossMs && trimInRange y.trimMin && trimInRange y.trimMax && trimInRange y.trimStart

/-- The SYNC settings a section's words hold, or none where the RANGE check fails (R125, R175). -/
def parseSync (ws : List Word) : Option SyncSettings :=
  match ws with
  | w0 :: w1 :: w2 :: w3 :: w4 :: w5 :: w6 :: _ =>
    match parseEyeCode (field w0 0 8), parseGain (field w0 24 8), parseBool (field w4 16 8) with
    | some follower, some gain, some direct =>
      let y : SyncSettings :=
        { follower := follower, target := signedField w1 0 16, filterShift := field w0 8 8, warnLimit := field w2 0 16,
          faultLimit := field w2 16 16, hysteresis := field w3 0 16, gain := gain, divider := field w0 16 8,
          upRate := field w4 0 8, downRate := field w4 8 8, deadBand := field w1 16 16, trimMin := signedField w5 0 16,
          trimMax := signedField w5 16 16, trimStart := signedField w6 0 16, directOnFault := direct,
          periodTolerance := field w3 16 16, syncLossMs := field w4 24 8 }
      if noStray syncMasks ws ∧ syncInRange y then some y else none
    | _, _, _ => none
  | _ => none

def encodeEye (e : EyeSettings) : List Word :=
  [ packWord [(0, boolCode e.enable), (8, boolCode e.geom.hflip), (16, boolCode e.geom.vflip), (24, e.geom.pixelBytes)],
    packWord [(0, e.geom.width), (16, e.geom.lines)],
    packWord [(0, e.geom.top), (8, e.geom.bottom), (16, signedBits 16 e.geom.shift)],
    packWord [(0, e.geom.pitch)],
    packWord [(0, e.captureBase / Config.page)],
    packWord [(0, e.poolBase / Config.page)],
    packWord [(0, e.slotCount)],
    packWord [(0, e.slotStride)] ]

def eyeMasks : List Word :=
  [0xFFFFFFFF, 0xFFFFFFFF, 0xFFFFFFFF, 0xFFFFFFFF, 0x0FFFFFFF, 0x0FFFFFFF, 0x000000FF, 0xFFFFFFFF]

/-- The ranges of R96's first row. -/
def geometryInRange (g : Geometry) : Bool :=
  (64 ≤ g.width && g.width ≤ 8192) && (1 ≤ g.pixelBytes && g.pixelBytes ≤ 8) && (16 ≤ g.lines && g.lines ≤ 4352) &&
    g.top ≤ 64 && g.bottom ≤ 64 && (-256 ≤ g.shift && g.shift ≤ 255)

/-- The EYE settings a section's words hold, or none where the RANGE check fails (R96, R175). The pitch and the pool layout
are not judged here (R175). -/
def parseEye (ws : List Word) : Option EyeSettings :=
  match ws with
  | w0 :: w1 :: w2 :: w3 :: w4 :: w5 :: w6 :: w7 :: _ =>
    match parseBool (field w0 0 8), parseBool (field w0 8 8), parseBool (field w0 16 8) with
    | some enable, some hflip, some vflip =>
      let e : EyeSettings :=
        { enable := enable,
          geom :=
            { width := field w1 0 16, pixelBytes := field w0 24 8, lines := field w1 16 16, top := field w2 0 8,
              bottom := field w2 8 8, shift := signedField w2 16 16, hflip := hflip, vflip := vflip, pitch := field w3 0 32 },
          captureBase := Config.page * field w4 0 28, poolBase := Config.page * field w5 0 28, slotCount := field w6 0 8,
          slotStride := field w7 0 32 }
      if noStray eyeMasks ws ∧ geometryInRange e.geom ∧ Config.captureWindowBytes + e.captureBase ≤ Config.addressSpace
      then some e else none
    | _, _, _ => none
  | _ => none

def encodeReader (r : ReaderSettings) : List Word :=
  [ packWord [(0, boolCode r.enabled), (8, r.sourceTag), (16, policyCode r.policy), (24, waitModeCode r.waitMode)],
    packWord [(0, r.parkLimit), (16, r.lease)],
    packWord [(0, boolCode r.skipDamaged), (8, boolCode r.restartTakes)] ]

def readerMasks : List Word := [0xFFFFFFFF, 0xFFFFFFFF, 0x0000FFFF]

/-- The READER settings a section's words hold, or none where the RANGE check fails (R67, R175). -/
def parseReader (ws : List Word) : Option ReaderSettings :=
  match ws with
  | w0 :: w1 :: w2 :: _ =>
    match parseBool (field w0 0 8), parsePolicy (field w0 16 8), parseWaitMode (field w0 24 8), parseBool (field w2 0 8),
        parseBool (field w2 8 8) with
    | some enabled, some policy, some waitMode, some skip, some restart =>
      let r : ReaderSettings :=
        { enabled := enabled, sourceTag := field w0 8 8, policy := policy, waitMode := waitMode, parkLimit := field w1 0 16,
          lease := field w1 16 16, skipDamaged := skip, restartTakes := restart }
      if noStray readerMasks ws ∧ r.sourceTag ≤ 63 ∧ 100 ≤ r.parkLimit ∧ 100 ≤ r.lease then some r else none
    | _, _, _, _, _ => none
  | _ => none

/-- A section's words followed by the matching check word (R172). -/
def withCheck (ws : List Word) : List Word := ws ++ [checkWord ws]

/-- A section's shadow that holds the given words, with no marks, UNPOSTED (R172). -/
def stagedSection (ws : List Word) : SectionShadow :=
  { words := ws.map fun w => { value := w, written := false, faulted := false }, post := .unposted }

/-- The staged shadow after RESET_N: the encodings of the defaults with matching check words (R172). -/
def defaultShadow : Shadow :=
  let r := stagedSection (withCheck (encodeReader ReaderSettings.default))
  { global := stagedSection (withCheck (encodeGlobal GlobalSettings.default)),
    sync := stagedSection (withCheck (encodeSync SyncSettings.default)),
    eye := ⟨stagedSection (withCheck (encodeEye (EyeSettings.default .left))),
      stagedSection (withCheck (encodeEye (EyeSettings.default .right)))⟩,
    reader := ⟨r, r, r, r⟩ }

/-- The words a section's shadow holds. -/
def SectionShadow.values (s : SectionShadow) : List Word := s.words.map (·.value)

/-! ### Link records (R187) -/

def kindCode : Kind → Nat
  | .read => 0
  | .write => 1

/-- The bytes of a response record on the P-port: an 8-byte header, then the data of a READ-DATA (R141, R187). -/
def responseBytes (e : Entry) : List Byte :=
  leBytes 1 (kindCode e.kind) ++ leBytes 1 e.source.toNat ++ leBytes 1 e.ttag.toNat ++ leBytes 1 e.code.value ++
    leBytes 2 (e.length - 1) ++ leBytes 2 0 ++ (if e.kind = .read then e.data else [])

/-- The bytes of a request record on the M-port: a 16-byte header, then the data of a WRITE (R162, R187). -/
def mportRequestBytes (o : MOut) : List Byte :=
  leBytes 1 (kindCode o.kind) ++ leBytes 1 o.source.toNat ++ leBytes 1 o.tag ++ leBytes 1 0 ++ leBytes 2 (o.length - 1) ++
    leBytes 2 0 ++ leBytes 5 o.addr.toNat ++ leBytes 3 0 ++ (if o.kind = .write then o.data else [])

/-! ### Report records (R190) -/

def damageBits (d : Damage) : Nat :=
  boolCode d.gap + 2 * boolCode d.rewrite + 4 * boolCode d.misaligned + 8 * boolCode d.writeFault

def lostCode : LostReason → Nat
  | .truncated => 1
  | .syncLost => 2
  | .timedOut => 3
  | .orphaned => 4
  | .partnerLost => 5
  | .starved => 6

def rejectCode : RejectReason → Nat
  | .check => 1
  | .range => 2
  | .geometry => 3
  | .band => 4
  | .pool => 5
  | .overlap => 6
  | .reader => 7

def readerEventCode : ReaderEventKind → Nat
  | .skipped => 1
  | .leaseLapsed => 2
  | .parkExpired => 3

def skewEventCode : SkewEventKind → Nat
  | .warnEnter => 1
  | .warnLeave => 2
  | .faultEnter => 3
  | .faultLeave => 4
  | .trimSaturated => 5

def lossCauseCode : LossCause → Nat
  | .periodFaults => 1
  | .silence => 2

def memoryFaultCauseCode : MemoryFaultCause → Nat
  | .fault => 1
  | .timeout => 2

/-- The role code of a MEMORY_FAULT record (R190). -/
def ownerRoleCode : Owner → Nat
  | .entry _ (.captureWrite _ _) => 0
  | .entry _ (.readPiece _ _ _) => 1
  | .entry _ .passThrough => 2
  | .injected _ => 3

/-- The slot that a tag's request addresses, or none (R158). -/
def Owner.slot : Owner → Option (Eye × Nat)
  | .entry _ (.captureWrite x i) => some (x, i)
  | .entry _ (.readPiece x i _) => some (x, i)
  | .entry _ .passThrough => none
  | .injected _ => none

/-- A sample in the formats: 0x80000000 means none (R189). -/
def sampleBits : Option Int → Nat
  | none => 0x80000000
  | some d => signedBits 32 d

/-- Kind and subkind of a report record (R190). -/
def RecordBody.codes : RecordBody → Nat × Nat
  | .pairReady d _ _ _ _ _ _ => (1, damageBits d)
  | .frameLost r _ _ _ _ _ => (2, lostCode r)
  | .readerEvent k _ _ _ _ _ => (3, readerEventCode k)
  | .skewEvent k _ _ _ _ => (4, skewEventCode k)
  | .syncLost _ _ _ _ => (5, 1)
  | .configRejected r _ _ => (6, rejectCode r)
  | .takeChange _ _ => (7, 0)
  | .memoryFault c _ _ _ _ _ _ => (8, memoryFaultCauseCode c)

/-- The kind fields of a report record, offsets 0x10 to 0x1F (R190). The target skew of a SKEW_EVENT takes the four bytes from
0x1C, signed (DESIGN CHOICE, notes/assumptions/37.md). -/
def RecordBody.bytes : RecordBody → List Byte
  | .pairReady _ n lf rf skew ls rs =>
    leBytes 4 n ++ leBytes 4 lf.toNat ++ leBytes 4 rf.toNat ++ leBytes 3 (signedBits 24 skew) ++ leBytes 1 (ls % 16 + 16 * (rs % 16))
  | .frameLost _ f p x s e =>
    leBytes 4 f.toNat ++ leBytes 4 (p.getD 0) ++ leBytes 1 (eyeCode x) ++ leBytes 1 (s.getD 0xFF) ++ leBytes 1 (boolCode e) ++
      leBytes 5 0
  | .readerEvent _ r d p t o =>
    leBytes 1 (readerCode r) ++ leBytes 1 (damageBits d) ++ leBytes 2 0 ++ leBytes 4 p ++ leBytes 4 t.toNat ++ leBytes 4 o
  | .skewEvent _ f t d g =>
    leBytes 6 (signedBits 48 f) ++ leBytes 2 (signedBits 16 t) ++ leBytes 4 (sampleBits d) ++ leBytes 4 (signedBits 32 g)
  | .syncLost x c a r =>
    leBytes 1 (eyeCode x) ++ leBytes 1 (lossCauseCode c) ++ leBytes 6 ((a.map BitVec.toNat).getD 0) ++
      leBytes 4 (signedBits 32 (r.getD 0)) ++ leBytes 4 0
  | .configRejected _ k l => leBytes 1 (sectionCode k) ++ leBytes 1 (boolCode l) ++ leBytes 14 0
  | .takeChange o n => leBytes 4 o.toNat ++ leBytes 4 n.toNat ++ leBytes 8 0
  | .memoryFault _ a k o src t n =>
    leBytes 5 a ++ leBytes 1 (kindCode k) ++ leBytes 1 (ownerRoleCode o) ++ leBytes 1 src.toNat ++ leBytes 1 t ++
      leBytes 1 ((o.slot.map fun p => eyeCode p.1).getD 0xFF) ++ leBytes 1 ((o.slot.map Prod.snd).getD 0xFF) ++ leBytes 1 0 ++
      leBytes 4 n

/-- The 32 bytes of a report record (R190). -/
def ReportRecord.bytes (r : ReportRecord) : List Byte :=
  leBytes 4 r.seq.toNat ++ leBytes 1 r.body.codes.1 ++ leBytes 1 r.body.codes.2 ++ leBytes 6 r.stamp.toNat ++
    leBytes 4 r.take.toNat ++ r.body.bytes

/-! ### The trim word (R136, R187) -/

/-- The 16 bits of a trim word: type 0x5, then the value in twelve bits. -/
def trimWord (t : Int) : BitVec 16 := BitVec.ofNat 16 (0x5000 + signedBits 12 t)

end Sys2Proof.Machine
end

