-- ==== Sys2Proof/Machine/State.lean ====
section
/-! DEFINITION. The state of the part, one field per block (00_scope.md, "Block overview"), the queue of waiting commands,
and the values after reset. -/

namespace Sys2Proof.Machine

/-- No command ends in a fault: what the spec calls a fault is an effect on the part (R16, R34, R144, R165, R175). -/
inductive Fault
deriving DecidableEq, Repr

/-- The reasons a command is refused by the model. -/
inductive Refusal
  /-- A command whose meaning is not written yet, raised by exec's arm of that command; safe. No arm raises it. -/
  | notModelled (mnemonic : String)
deriving DecidableEq, Repr

/-- The part: every block's state. -/
structure Part where
  resetAsserted : Bool
  sync : SyncUnit
  streams : PerEye StreamCtx
  slots : PerEye (List SlotRecord)
  pairs : PairManager
  readers : ReaderUnit
  req : RequestPath
  txn : TxnUnit
  skew : SkewUnit
  rig : RigUnit
  report : ReportUnit
deriving DecidableEq, Repr

/-- The part and the commands that wait for it, first in first out. -/
structure State where
  hw : Part
  pending : List Instr
deriving DecidableEq, Repr

def SyncUnit.reset : SyncUnit :=
  { timebase := 0, acq := ⟨AcqCtx.reset, AcqCtx.reset⟩, pulsed := ⟨false, false⟩, streamNotices := ⟨[], []⟩,
    skewNotices := ⟨[], []⟩ }

/-- The slot table of an eye after RESET_N: slot count of the defaults, every record FREE (R45). -/
def freeSlots (n : Nat) : List SlotRecord := List.replicate n SlotRecord.free

def PairManager.reset : PairManager :=
  { queue := [], nextNumber := some 1, matchTimers := ⟨List.replicate 8 .stopped, List.replicate 8 .stopped⟩, prdy := false,
    prdyPulse := .stopped }

def ReaderUnit.reset : ReaderUnit :=
  { ctx := ⟨ReaderCtx.reset, ReaderCtx.reset, ReaderCtx.reset, ReaderCtx.reset⟩, parkList := [] }

def RequestPath.reset : RequestPath :=
  { intake := [], table := List.replicate Config.requestEntries none, returning := [] }

def TxnUnit.reset : TxnUnit :=
  { tags := List.replicate Config.mTags none, issue := [], injected := [], choice := none, claim := none, output := none,
    quiet := .stopped }

/-- The rig unit after RESET_N, with the strap as sampled (R172). -/
def RigUnit.reset (rigsel : BitVec 3) : RigUnit :=
  { rigsel := rigsel, partState := .loading, global := GlobalSettings.default, sync := SyncSettings.default,
    eye := ⟨EyeSettings.default .left, EyeSettings.default .right⟩,
    reader := ⟨ReaderSettings.default, ReaderSettings.default, ReaderSettings.default, ReaderSettings.default⟩,
    shadow := defaultShadow, windowChange := none, loadIndex := 0 }

/-- The part while RESET_N is asserted: every block in its reset values (R22, R45, R47, R92, R111, R122, R123, R139, R156,
R170, R172, R186). -/
def Part.reset (rigsel : BitVec 3) : Part :=
  { resetAsserted := true, sync := SyncUnit.reset, streams := ⟨StreamCtx.reset, StreamCtx.reset⟩,
    slots := ⟨freeSlots (EyeSettings.default .left).slotCount, freeSlots (EyeSettings.default .right).slotCount⟩,
    pairs := PairManager.reset, readers := ReaderUnit.reset, req := RequestPath.reset, txn := TxnUnit.reset,
    skew := SkewUnit.reset, rig := RigUnit.reset rigsel, report := ReportUnit.reset }

/-- The machine right after reset: RESET_N still asserted, no command waiting. The strap reads 0
(DESIGN CHOICE, unsafe, notes/assumptions/4.md). -/
def State.reset : State := { hw := Part.reset 0, pending := [] }

end Sys2Proof.Machine
end

