-- ==== Sys2Proof/WellFormed.lean ====
section
/-! DEFINITION. The form a command must have: a link record carries the data its header names (R141, R187), and an operand
that names a slot, an M-tag or an entry names one that the part has (R24, R143, R158). -/

namespace Sys2Proof

/-- The length field of a link header, bytes 4 and 5, plus one (R187). Bits 15:9 lie outside the field (0 to 511). -/
def headerLength (header : Nat) : Nat := header / 2 ^ 32 % 512 + 1

/-- A request record carries its data exactly when its kind byte says WRITE (R187). An undefined kind byte says nothing about data. -/
def requestDataFits (header : BitVec 128) (data : List Byte) : Bool :=
  let kind := header.toNat % 256
  if kind = 0 then data.length = 0
  else if kind = 1 then data.length = headerLength header.toNat
  else true

/-- A response record carries its data exactly when its kind byte says READ-DATA (R187). -/
def responseDataFits (header : BitVec 64) (data : List Byte) : Bool :=
  let kind := header.toNat % 256
  if kind = 0 then data.length = header.toNat / 2 ^ 32 % 65536 + 1
  else if kind = 1 then data.length = 0
  else true

/-- The well-formedness of a command. -/
def Instr.wellFormed : Instr → Bool
  | .requestAccept header data => requestDataFits header data
  | .mportResponse header data => responseDataFits header data
  | .mTimeout tag => tag < Config.mTags
  | .frameTimerExpiry _ slot => slot < 8
  | .matchTimerExpiry _ slot => slot < 8
  | .parkTimerExpiry entry => entry < Config.requestEntries
  | .resetNAssert _ => true
  | .resetNRelease => true
  | .resetQuietTimeEnd => true
  | .fsyncPulse _ _ => true
  | .syncLossTimerExpiry _ => true
  | .frameStart _ => true
  | .lockGained _ => true
  | .lockLost _ => true
  | .skewPulseHandover _ => true
  | .skewLockNotice _ => true
  | .skewDepartureNotice _ => true
  | .trimWordEnd => true
  | .trimGapEnd => true
  | .captureWrite => true
  | .captureRead => true
  | .pairRead => true
  | .rigWrite => true
  | .checkWordWrite => true
  | .eventClearWord => true
  | .passThrough => true
  | .responseAccept => true
  | .arbiterIssue => true
  | .mportAccept => true
  | .leaseExpiry _ => true
  | .prdyPulseEnd => true
  | .statusIntervalExpiry => true
  | .statusWriteOffer => true
  | .recordWriteOffer => true
  | .refusedRequest => true

end Sys2Proof
end

