-- ==== Sys2Proof/Machine/Operands.lean ====
section
/-! DEFINITION. The fields of the link records that come in as operands: requests on the P-port (R141), responses on the
M-port (R163), in the layout of R187. -/

namespace Sys2Proof.Machine

/-- `n` bytes of a header from byte `lo`. -/
def headerField (header lo n : Nat) : Nat := header / 256 ^ lo % 256 ^ n

/-- Some bit of the request header lies outside its fields: bytes 3, 6, 7 and 13 to 15, bits 7:6 of the source tag, bits 15:9
of the length (R144 check 1, R187; notes/assumptions/9.md). -/
def strayHeader (header : Nat) : Bool :=
  headerField header 1 1 / 64 != 0 || headerField header 3 1 != 0 || headerField header 4 2 / 512 != 0 ||
    headerField header 6 2 != 0 || headerField header 13 3 != 0

/-- The request a P-port record carries (R141, R187). -/
def parseRequest (header : BitVec 128) (data : List Byte) : Request :=
  let h := header.toNat
  { kindByte := BitVec.ofNat 8 (headerField h 0 1), source := BitVec.ofNat 6 (headerField h 1 1),
    ttag := BitVec.ofNat 8 (headerField h 2 1), addr := BitVec.ofNat 40 (headerField h 8 5), length := headerLength h,
    data := if headerField h 0 1 = 1 then fitBytes (headerLength h) data else [], stray := strayHeader h }

/-- The kind a request is kept with; an undefined kind byte is answered with a WRITE-DONE (R144 check 1). -/
def Request.kind (q : Request) : Kind := if q.kindByte = 0 then .read else .write

/-- The kind byte is 0 or 1 (R144 check 1, R187). -/
def Request.kindDefined (q : Request) : Bool := q.kindByte == 0 || q.kindByte == 1

/-- The fields of an M-port response that the transaction unit reads (R163). The source tag is not consulted. -/
structure MResponse where
  kindByte : Nat
  tag : Nat
  status : Nat
  length : Nat
  data : List Byte
deriving DecidableEq, Repr

/-- The response an M-port record carries (R163, R187). -/
def parseResponse (header : BitVec 64) (data : List Byte) : MResponse :=
  let h := header.toNat
  { kindByte := headerField h 0 1, tag := headerField h 2 1, status := headerField h 3 1, length := headerField h 4 2 + 1,
    data := data }

end Sys2Proof.Machine
end

