-- ==== Sys2Proof/Machine/Ops.lean ====
section
/-! DEFINITION. The named operations over the blocks: the one way each block is read and changed, the passing of time, and
bytes of an entry's response data. -/

namespace Sys2Proof.Machine

/-! ### Changing one block -/

def Part.onSync (p : Part) (f : SyncUnit → SyncUnit) : Part := { p with sync := f p.sync }
def Part.onStream (p : Part) (x : Eye) (f : StreamCtx → StreamCtx) : Part :=
  { p with streams := p.streams.set x (f (p.streams.get x)) }
def Part.onSlots (p : Part) (x : Eye) (f : List SlotRecord → List SlotRecord) : Part :=
  { p with slots := p.slots.set x (f (p.slots.get x)) }
def Part.onPairs (p : Part) (f : PairManager → PairManager) : Part := { p with pairs := f p.pairs }
def Part.onReaders (p : Part) (f : ReaderUnit → ReaderUnit) : Part := { p with readers := f p.readers }
def Part.onReq (p : Part) (f : RequestPath → RequestPath) : Part := { p with req := f p.req }
def Part.onTxn (p : Part) (f : TxnUnit → TxnUnit) : Part := { p with txn := f p.txn }
def Part.onSkew (p : Part) (f : SkewUnit → SkewUnit) : Part := { p with skew := f p.skew }
def Part.onRig (p : Part) (f : RigUnit → RigUnit) : Part := { p with rig := f p.rig }
def Part.onReport (p : Part) (f : ReportUnit → ReportUnit) : Part := { p with report := f p.report }

/-! ### Reading -/

/-- The timebase (R109). -/
def Part.now (p : Part) : Stamp := p.sync.timebase
/-- The take number in force (R47): the active GLOBAL take number. -/
def Part.take (p : Part) : Word := p.rig.global.take
def Part.stream (p : Part) (x : Eye) : StreamCtx := p.streams.get x
def Part.acq (p : Part) (x : Eye) : AcqCtx := p.sync.acq.get x
def Part.reader (p : Part) (r : ReaderId) : ReaderCtx := p.readers.ctx.get r
def Part.readerSettings (p : Part) (r : ReaderId) : ReaderSettings := p.rig.reader.get r
def Part.eyeSettings (p : Part) (x : Eye) : EyeSettings := p.rig.eye.get x
/-- The record of a slot; an index the eye's pool does not have reads as a FREE record, and changes to it are lost. -/
def Part.slot (p : Part) (x : Eye) (i : Nat) : SlotRecord := (p.slots.get x).getD i SlotRecord.free
/-- The match timer of a slot index (R47). -/
def Part.matchTimer (p : Part) (x : Eye) (i : Nat) : Timer := (p.pairs.matchTimers.get x).getD i .stopped
/-- A request table entry, or none when it is unused (R143). -/
def Part.entry (p : Part) (e : Nat) : Option Entry := (p.req.table.getD e none)
/-- A tag's entry, or none when it is FREE (R158). -/
def Part.tag (p : Part) (t : Nat) : Option TagEntry := (p.txn.tags.getD t none)

/-! ### Changing one record -/

def Part.onSlot (p : Part) (x : Eye) (i : Nat) (f : SlotRecord → SlotRecord) : Part := p.onSlots x fun l => l.modify i f
def Part.onReader (p : Part) (r : ReaderId) (f : ReaderCtx → ReaderCtx) : Part :=
  p.onReaders fun u => { u with ctx := u.ctx.set r (f (u.ctx.get r)) }
def Part.onAcq (p : Part) (x : Eye) (f : AcqCtx → AcqCtx) : Part :=
  p.onSync fun u => { u with acq := u.acq.set x (f (u.acq.get x)) }
def Part.setMatchTimer (p : Part) (x : Eye) (i : Nat) (t : Timer) : Part :=
  p.onPairs fun m => { m with matchTimers := m.matchTimers.set x ((m.matchTimers.get x).set i t) }
def Part.setEntry (p : Part) (e : Nat) (v : Option Entry) : Part := p.onReq fun u => { u with table := u.table.set e v }
def Part.onEntry (p : Part) (e : Nat) (f : Entry → Entry) : Part :=
  p.onReq fun u => { u with table := u.table.modify e (Option.map f) }
def Part.setTag (p : Part) (t : Nat) (v : Option TagEntry) : Part := p.onTxn fun u => { u with tags := u.tags.set t v }
def Part.onSection (p : Part) (k : Section) (f : SectionShadow → SectionShadow) : Part :=
  p.onRig fun u => { u with shadow := u.shadow.set k (f (u.shadow.get k)) }
def Part.setPost (p : Part) (k : Section) (v : PostState) : Part := p.onSection k fun s => { s with post := v }
def Part.post (p : Part) (k : Section) : PostState := (p.rig.shadow.get k).post

/-- Put a notice on its way to a capture stream, behind the earlier ones (R119). -/
def Part.tellStream (p : Part) (x : Eye) (n : StreamNotice) : Part :=
  p.onSync fun u => { u with streamNotices := u.streamNotices.set x (u.streamNotices.get x ++ [n]) }
/-- Put a notice on its way to the skew unit, behind the eye's earlier ones (R120). -/
def Part.tellSkew (p : Part) (x : Eye) (n : SkewNotice) : Part :=
  p.onSync fun u => { u with skewNotices := u.skewNotices.set x (u.skewNotices.get x ++ [n]) }

/-- The index of the first element that satisfies a test. -/
def firstIndex {α : Type} (test : α → Bool) : List α → Option Nat
  | [] => none
  | a :: as => if test a then some 0 else (firstIndex test as).map (· + 1)

/-! ### The passing of time (R109) -/

def PerEye.map {α β : Type} (f : α → β) (p : PerEye α) : PerEye β := ⟨f p.left, f p.right⟩
def PerReader.map {α β : Type} (f : α → β) (p : PerReader α) : PerReader β := ⟨f p.a, f p.b, f p.c, f p.d⟩

/-- `n` ticks pass: the timebase counts up, modulo 2^48, and every running timer counts down. While RESET_N is asserted the
timebase holds 0 (R109, R122). -/
def passTime (n : Nat) (p : Part) : Part :=
  if p.resetAsserted then p
  else
    { p with
      sync :=
        { p.sync with
          timebase := p.sync.timebase + BitVec.ofNat 48 n
          acq := p.sync.acq.map fun c => { c with lossTimer := c.lossTimer.passes n }
          pulsed := p.sync.pulsed.map fun b => b && n == 0 }
      slots := p.slots.map fun l => l.map fun r => { r with frameTimer := r.frameTimer.passes n }
      pairs :=
        { p.pairs with
          matchTimers := p.pairs.matchTimers.map fun l => l.map (Timer.passes n)
          prdyPulse := p.pairs.prdyPulse.passes n }
      readers :=
        { ctx := p.readers.ctx.map fun c => { c with lease := c.lease.passes n }
          parkList := p.readers.parkList.map fun k => { k with timer := k.timer.passes n } }
      txn :=
        { p.txn with
          tags := p.txn.tags.map fun t => t.map fun e => { e with timer := e.timer.passes n }
          quiet := p.txn.quiet.passes n }
      skew := { p.skew with sender := { p.skew.sender with timer := p.skew.sender.timer.passes n } }
      report := { p.report with interval := p.report.interval.passes n } }

/-- An expiry: time passes until the timer has run out, then `f` happens. A stopped timer does not expire
(notes/assumptions/1.md, 2.md). -/
def onExpiry (t : Timer) (f : Part → Part) (p : Part) : Part :=
  match t with
  | .stopped => p
  | .running r => f (passTime r p)

/-! ### Response data (R152, R154) -/

/-- Put bytes into a list at a place; bytes beyond the list's end are lost. -/
def placeBytes (place : Nat) (bytes data : List Byte) : List Byte :=
  mapFrom (fun i b => if place ≤ i ∧ i < place + bytes.length then bytes.getD (i - place) b else b) 0 data

/-- The entry becomes RETURNING with this code and data, behind the responses that finished before it (R143, R155). -/
def finishEntry (e : Nat) (code : Code) (data : List Byte) (p : Part) : Part :=
  (p.onEntry e fun v => { v with state := .returning, outstanding := 0, code := code, data := data }).onReq fun u =>
    { u with returning := u.returning ++ [e] }

/-- The owner answers at once with a code; a READ's data is laid down in the fill pattern (R148, R154). -/
def answerAtOnce (e : Nat) (code : Code) (p : Part) : Part :=
  match p.entry e with
  | none => p
  | some v =>
    finishEntry e code (if v.kind = .read then fillBytes p.rig.global.fill v.addr.toNat v.length else []) p

/-- Pieces are handed on: a group joins the issue list and its entry waits for the results (R148, R159). -/
def handOn (e : Nat) (code : Code) (data : List Byte) (pieces : List Piece) (p : Part) : Part :=
  (p.onEntry e fun v => { v with state := .inProgress, outstanding := pieces.length, code := code, data := data }).onTxn fun u =>
    { u with issue := u.issue ++ [pieces] }

/-- Offer an injected request (R160). -/
def offerInjected (owner : Injector) (kind : Kind) (addr length : Nat) (data : List Byte) (p : Part) : Part :=
  p.onTxn fun u =>
    { u with
      injected := u.injected ++ [{ owner := owner, kind := kind, addr := addr, length := length, data := data, wait := 0 }] }

end Sys2Proof.Machine
end

