-- ==== Sys2Proof/Machine/Flags.lean ====
section
/-! DEFINITION. The report unit's part of an event: event flags and ALERT_N (R181), counters (R182), report records (R184). -/

namespace Sys2Proof.Machine

/-! ### Event flags -/

/-- The bit of a flag in the flags, the alert enables and the event clear word (R189). -/
def EventFlag.bit : EventFlag → Nat
  | .skewWarn => 0
  | .skewFault => 1
  | .trimSaturated => 2
  | .syncLost .left => 3
  | .syncLost .right => 4
  | .frameLost => 5
  | .pairDamaged => 6
  | .readerLapsed => 7
  | .configRejected => 8
  | .memoryFault => 9
  | .reportOverflow => 10

def EventFlag.mask (f : EventFlag) : BitVec 11 := BitVec.ofNat 11 (2 ^ f.bit)

/-- ALERT_N is low while any set flag has its alert enable set (R181). -/
def alertLevel (flags enables : BitVec 11) : Bool := flags &&& enables == 0

/-- ALERT_N is evaluated (R181). -/
def evaluateAlert (p : Part) : Part :=
  p.onReport fun u => { u with alertN := alertLevel u.flags p.rig.global.alertEnables }

/-- The flags take a new value; a change makes a status write due and re-evaluates ALERT_N (R180, R181, R183). -/
def changeFlags (flags : BitVec 11) (p : Part) : Part :=
  if flags = p.report.flags then p
  else evaluateAlert (p.onReport fun u => { u with flags := flags, due := true })

/-- An event sets its sticky flag; setting a flag that is set changes nothing (R181). -/
def setFlag (f : EventFlag) (p : Part) : Part := changeFlags (p.report.flags ||| f.mask) p

/-- The event clear word clears each flag whose bit is 1 (R180). -/
def clearFlags (bits : BitVec 11) (p : Part) : Part := changeFlags (p.report.flags &&& ~~~bits) p

/-! ### Counters -/

/-- The place of a counter in the order of R189. -/
def Counter.index : Counter → Nat
  | .lost .truncated => 0
  | .lost .syncLost => 1
  | .lost .timedOut => 2
  | .lost .orphaned => 3
  | .lost .partnerLost => 4
  | .lost .starved => 5
  | .pairsFormed => 6
  | .discarded .unframed => 7
  | .discarded .overrun => 8
  | .discarded .spill => 9
  | .clippedBytes => 10
  | .rejected => 11
  | .mFaults => 12
  | .mTimeouts => 13
  | .lateResponses => 14
  | .unknownTags => 15
  | .recordsWritten => 16
  | .recordsLost => 17
  | .periodFaults .left => 18
  | .periodFaults .right => 19

/-- The value of a counter. -/
def Part.count (p : Part) (c : Counter) : Word := p.report.counters.getD c.index 0

/-- A counter is raised by `n`, wrapping at 2^32 (R182). -/
def raiseBy (c : Counter) (n : Nat) (p : Part) : Part :=
  p.onReport fun u => { u with counters := u.counters.modify c.index (· + BitVec.ofNat 32 n) }

def raise (c : Counter) (p : Part) : Part := raiseBy c 1 p

/-! ### Report records -/

/-- An event that carries a record is raised: the record joins the tail with the next sequence number, or is lost to a full
queue, which raises the counter of records lost and REPORT_OVERFLOW (R184). -/
def queueRecord (stamp : Stamp) (take : Word) (body : RecordBody) (p : Part) : Part :=
  if p.report.queue.length < Config.reportDepth then
    p.onReport fun u =>
      { u with queue := u.queue ++ [{ seq := u.seq, stamp := stamp, take := take, body := body }], seq := u.seq + 1 }
  else setFlag .reportOverflow (raise .recordsLost p)

/-- A record with the take in force and the timebase at the raise (R184). -/
def queueRecordNow (body : RecordBody) (p : Part) : Part := queueRecord p.now p.take body p

end Sys2Proof.Machine
end

