-- ==== Sys2Proof/Machine/Checks.lean ====
section
/-! DEFINITION. The validation of a rig table section (R44, R90, R96, R175, R176) and its rejection. -/

namespace Sys2Proof.Machine

/-! ### Regions (R176) -/

/-- A region: base and size. -/
structure Region where
  base : Nat
  size : Nat
deriving DecidableEq, Repr

def Region.overlaps (a b : Region) : Bool := decide (a.base < b.base + b.size ∧ b.base < a.base + a.size)

def rigRegion (p : Part) : Region := { base := Config.rigStep * p.rig.rigsel.toNat, size := Config.page }
def captureRegion (e : EyeSettings) : Region := { base := e.captureBase, size := Config.captureWindowBytes }
def poolRegion (e : EyeSettings) : Region := { base := e.poolBase, size := e.slotCount * e.slotStride }
def windowRegion (g : GlobalSettings) : Region := { base := g.windowBase, size := Config.pairWindowBytes }
def reportRegion (g : GlobalSettings) : Region :=
  { base := g.reportBase, size := Config.statusBytes + g.ringSize * Config.recordBytes }

/-- The pair window in force, together with a waiting window change (R176). -/
def windowRegions (p : Part) : List Region :=
  windowRegion p.rig.global ::
    (match p.rig.windowChange with
      | some w => [{ base := w.base, size := Config.pairWindowBytes }]
      | none => [])

/-- An EYE section overlaps a region in force, or its own two overlap each other (R176). -/
def eyeOverlaps (p : Part) (x : Eye) (e : EyeSettings) : Bool :=
  let o := p.eyeSettings x.other
  let others := [rigRegion p, captureRegion o, poolRegion o, reportRegion p.rig.global] ++ windowRegions p
  (captureRegion e).overlaps (poolRegion e) || others.any (captureRegion e).overlaps || others.any (poolRegion e).overlaps

/-- A GLOBAL section overlaps a region in force, or its own two overlap each other (R176; notes/assumptions/24.md). -/
def globalOverlaps (p : Part) (g : GlobalSettings) : Bool :=
  let l := p.eyeSettings .left
  let r := p.eyeSettings .right
  let others := [rigRegion p, captureRegion l, poolRegion l, captureRegion r, poolRegion r]
  (windowRegion g).overlaps (reportRegion g) || others.any (windowRegion g).overlaps || others.any (reportRegion g).overlaps

/-! ### The checks of each section, in the order of R175 -/

/-- GLOBAL: RANGE, then OVERLAP. -/
def validateGlobal (p : Part) (ws : List Word) : Except RejectReason GlobalSettings :=
  match parseGlobal ws with
  | none => .error .range
  | some g => if globalOverlaps p g then .error .overlap else .ok g

/-- SYNC: RANGE (R125). -/
def validateSync (ws : List Word) : Except RejectReason SyncSettings :=
  match parseSync ws with
  | none => .error .range
  | some y => .ok y

/-- The GEOMETRY checks of R96 pass. -/
def geometryFits (g : Geometry) : Bool :=
  g.lineBytes ≤ 49152 && g.pitch % 64 == 0 && g.lineBytes ≤ g.pitch && g.pitch ≤ 65536

/-- The BAND checks of R96 pass. -/
def bandFits (g : Geometry) : Bool := g.top + g.bottom < g.lines && g.shift.natAbs < g.lines - g.top - g.bottom

/-- The pool layout fields equal the active ones (R44). -/
def samePool (a b : EyeSettings) : Bool :=
  a.poolBase == b.poolBase && a.slotCount == b.slotCount && a.slotStride == b.slotStride

/-- The POOL check of R44 passes: an unchanged layout holds pitch × lines; a changed one is taken only with the stream OFF
before the latch and every slot FREE. -/
def poolFits (p : Part) (x : Eye) (e : EyeSettings) : Bool :=
  decide (e.geom.pitch * e.geom.lines ≤ e.slotStride) &&
    (samePool e (p.eyeSettings x) ||
      ((p.stream x).state == .off && (p.slots.get x).all (fun r => r.state == .free) && (3 ≤ e.slotCount && e.slotCount ≤ 8) &&
        e.poolBase % Config.page == 0 && e.slotStride % Config.page == 0 &&
        decide (e.poolBase + e.slotCount * e.slotStride ≤ Config.addressSpace)))

/-- EYE: RANGE, GEOMETRY, BAND, POOL, OVERLAP. -/
def validateEye (p : Part) (x : Eye) (ws : List Word) : Except RejectReason EyeSettings :=
  match parseEye ws with
  | none => .error .range
  | some e =>
    if !geometryFits e.geom then .error .geometry
    else if !bandFits e.geom then .error .band
    else if !poolFits p x e then .error .pool
    else if eyeOverlaps p x e then .error .overlap
    else .ok e

/-- Another enabled reader has this active source tag (R90). -/
def tagTaken (p : Part) (r : ReaderId) (tag : Nat) : Bool :=
  allReaders.any fun q => q != r && (p.readerSettings q).enabled && (p.readerSettings q).sourceTag == tag

/-- READER: RANGE, then READER (R90). -/
def validateReader (p : Part) (r : ReaderId) (ws : List Word) : Except RejectReason ReaderSettings :=
  match parseReader ws with
  | none => .error .range
  | some v =>
    if v.enabled && (v.sourceTag == Config.ownSource || tagTaken p r v.sourceTag) then .error .reader else .ok v

/-- The words a section's shadow holds now. -/
def Part.staged (p : Part) (k : Section) : List Word := (p.rig.shadow.get k).values

/-- The section becomes REJECTED and CONFIG_REJECTED is raised (R175, R179). -/
def rejectSection (k : Section) (reason : RejectReason) (loadFault : Bool) (p : Part) : Part :=
  queueRecordNow (.configRejected reason k loadFault) (setFlag .configRejected (p.setPost k .rejected))

end Sys2Proof.Machine
end

