-- ==== Sys2Proof/Machine/StatusBlock.lean ====
section
/-! DEFINITION. The status block (R189): what it shows of every block, its 256 bytes, and the changed mark (R182). -/

namespace Sys2Proof.Machine

def partStateCode : PartState → Nat
  | .loading => 0
  | .running => 1

def syncStateCode : SyncState → Nat
  | .absent => 0
  | .acquiring => 1
  | .locked => 2

def streamStateCode : StreamState → Nat
  | .off => 0
  | .waitingSync => 1
  | .between => 2
  | .open => 3
  | .spill => 4

def slotStateCode : SlotState → Nat
  | .free => 0
  | .filling => 1
  | .landing => 2
  | .complete => 3
  | .paired => 4
  | .draining => 5

def readerStateCode : ReaderState → Nat
  | .unbound => 0
  | .idle => 1
  | .parked => 2
  | .holding => 3

def postCode : PostState → Nat
  | .unposted => 0
  | .posted => 1
  | .rejected => 2

/-- A record that no take change has made stale: its take is the take in force (R48, R61; notes/assumptions/33.md). -/
def PairRecord.isCurrent (r : PairRecord) : Bool := !r.stale

/-- The newest current READY record (R66, R72). -/
def Part.newestReady (p : Part) : Option PairRecord :=
  (p.pairs.queue.filter fun r => r.isCurrent && r.state == .ready).getLast?

/-- A word of post states, GLOBAL in bits 1:0 (R189). -/
def postStatesWord (p : Part) : Nat :=
  (Section.all.map fun k => postCode (p.post k) * 4 ^ sectionCode k).sum

/-- The slot states shown for indices 0 to 7; an index at or above the slot count is absent (R46, R189). -/
def slotStateBytes (l : List SlotRecord) : List Byte :=
  (List.range 8).flatMap fun i => leBytes 1 (match l[i]? with | some r => slotStateCode r.state | none => 0xFF)

/-- The 16 bytes of one eye, from 0x20 or 0x30 (R189). -/
def eyeStatusBytes (p : Part) (x : Eye) : List Byte :=
  leBytes 1 (syncStateCode (p.acq x).state) ++ leBytes 1 (streamStateCode (p.stream x).state) ++
    leBytes 1 (p.eyeSettings x).slotCount ++ leBytes 1 0 ++ leBytes 4 (p.stream x).frameNumber.toNat ++
    slotStateBytes (p.slots.get x)

/-- The 12 bytes of one reader, from 0x40, 0x4C, 0x58 or 0x64 (R189). -/
def readerStatusBytes (p : Part) (r : ReaderId) : List Byte :=
  leBytes 1 (readerStateCode (p.reader r).state) ++ leBytes 3 0 ++ leBytes 4 (((p.reader r).held.map HeldPair.number).getD 0) ++
    leBytes 4 (p.reader r).lastTaken

/-- Offsets 0x06 to 0x1F: the part, its flags and settings (R189). -/
def partStatusBytes (p : Part) : List Byte :=
  leBytes 1 (partStateCode p.rig.partState) ++ leBytes 1 0 ++ leBytes 2 p.report.flags.toNat ++ leBytes 2 p.report.ringIndex ++
    leBytes 4 p.take.toNat ++ leBytes 4 p.report.seq.toNat ++ leBytes 2 (postStatesWord p) ++
    leBytes 1 (boolCode p.rig.windowChange.isSome) ++ leBytes 9 0

/-- Offsets 0x70 to 0x7F: the pair queue (R189). -/
def queueStatusBytes (p : Part) : List Byte :=
  leBytes 4 p.pairs.queue.length ++ leBytes 4 ((p.pairs.queue.head?.map (·.number)).getD 0) ++
    leBytes 4 ((p.newestReady.map (·.number)).getD 0) ++ leBytes 4 0

/-- Offsets 0x80 to 0x8F: the skew unit (R189). -/
def skewStatusBytes (p : Part) : List Byte :=
  leBytes 6 (signedBits 48 p.skew.f) ++ leBytes 2 (signedBits 16 p.skew.trim) ++ leBytes 4 (sampleBits p.skew.d) ++
    leBytes 4 (boolCode p.skew.warn + 2 * boolCode p.skew.fault)

/-- Offsets 0x90 to 0xFF: the counters, then reserved bytes (R189). -/
def counterStatusBytes (p : Part) : List Byte := p.report.counters.flatMap (fun c => leBytes 4 c.toNat) ++ leBytes 32 0

/-- The status block from 0x06 on: everything it shows but the timebase (R189). -/
def shownBytes (p : Part) : List Byte :=
  partStatusBytes p ++ eyeStatusBytes p .left ++ eyeStatusBytes p .right ++ allReaders.flatMap (readerStatusBytes p) ++
    queueStatusBytes p ++ skewStatusBytes p ++ counterStatusBytes p

/-- The 256 bytes of the status block, formed from the state of every block at this moment (R183, R189). -/
def statusBlock (p : Part) : List Byte := leBytes 6 p.now.toNat ++ shownBytes p

/-- A change of any item shown in the status block marks the status as changed; the passing of the timebase does not (R182;
notes/assumptions/16.md). -/
def markChanged (before after : Part) : Part :=
  after.onReport fun u => { u with changed := u.changed || decide (shownBytes before ≠ shownBytes after) }

/-- A command at the part: while RESET_N is asserted the part does nothing; otherwise `f` happens, and a change of what the
status block shows is marked (R182; notes/assumptions/5.md, 16.md). -/
def whenRunning (f : Part → Part) (s : State) : Host.Outcome State Fault Refusal :=
  .next { s with hw := if s.hw.resetAsserted then s.hw else markChanged s.hw (f s.hw) }

end Sys2Proof.Machine
end

