-- ==== Sys2Proof/Machine/Slots.lean ====
section
/-! DEFINITION. The slot table's own operations on one record (R25, R26, R28, R33, R37 to R43): counts, damage, draining,
the base of a slot. What needs the pair manager stands in Frames.lean. -/

namespace Sys2Proof.Machine

/-- A slot in DRAINING whose three counts are 0 becomes FREE, its record cleared (R42). -/
def SlotRecord.freeIfDrained (r : SlotRecord) : SlotRecord :=
  if r.state = .draining ∧ r.writes = 0 ∧ r.reads = 0 ∧ r.quarantined = 0 then SlotRecord.free else r

/-- The retirement notice: PAIRED to DRAINING, and R42 (R38). -/
def SlotRecord.retire (r : SlotRecord) : SlotRecord :=
  if r.state = .paired then SlotRecord.freeIfDrained { r with state := .draining } else r

/-- The readiness notice: COMPLETE to PAIRED (R38). -/
def SlotRecord.makePaired (r : SlotRecord) : SlotRecord := if r.state = .complete then { r with state := .paired } else r

/-- A link names the partner, the pair number and the take; it reaches a live slot with no partner (R37). -/
def SlotRecord.link (partner number : Nat) (take : Word) (r : SlotRecord) : SlotRecord :=
  if r.state.live && r.partner.isNone then
    { r with partner := some partner, pairNumber := some number, pairTake := some take }
  else r

/-- Damage is added to the set (R33). -/
def SlotRecord.addDamage (d : Damage) (r : SlotRecord) : SlotRecord := { r with damage := r.damage.union d }

def Damage.ofGap : Damage := { Damage.none with gap := true }
def Damage.ofRewrite : Damage := { Damage.none with rewrite := true }
def Damage.ofMisaligned : Damage := { Damage.none with misaligned := true }
def Damage.ofWriteFault : Damage := { Damage.none with writeFault := true }

/-- A result quarantines its piece exactly when it is timed out (R29, R39). -/
def MResult.quarantines : MResult → Nat
  | .ok _ => 0
  | .fault => 0
  | .timedOut => 1

/-- The result is FAULT or timed out (R29, R152). -/
def MResult.failed : MResult → Bool
  | .ok _ => false
  | .fault => true
  | .timedOut => true

/-- The effect of a write piece result on the record, short of completing its landing (R29). A record with no outstanding
write is left unchanged. -/
def SlotRecord.writeResult (res : MResult) (r : SlotRecord) : SlotRecord :=
  if r.writes = 0 then r
  else
    SlotRecord.freeIfDrained
      { r with
        writes := r.writes - 1
        quarantined := r.quarantined + res.quarantines
        damage :=
          if res.failed && (r.state == .filling || r.state == .landing) then r.damage.union .ofWriteFault else r.damage }

/-- The effect of a read piece result on the record (R39). -/
def SlotRecord.readResult (res : MResult) (r : SlotRecord) : SlotRecord :=
  SlotRecord.freeIfDrained { r with reads := r.reads - 1, quarantined := r.quarantined + res.quarantines }

/-- The effect of a late response on the record (R40). -/
def SlotRecord.lateResponse (r : SlotRecord) : SlotRecord :=
  SlotRecord.freeIfDrained { r with quarantined := r.quarantined - 1 }

/-- The lowest-index slot in FREE (R26). -/
def lowestFree (l : List SlotRecord) : Option Nat := firstIndex (fun r => r.state == .free) l

/-- The base of a slot: pool base + index × slot stride (R43). -/
def Part.slotBase (p : Part) (x : Eye) (i : Nat) : Nat :=
  (p.eyeSettings x).poolBase + i * (p.eyeSettings x).slotStride

end Sys2Proof.Machine
end

