-- ==== Sys2Proof/Machine/Pairs.lean ====
section
/-! DEFINITION. The pair manager's operations that touch no reader's hold: the PRDY line (R63 to R65), holders and
retirement (R58 to R60), linking at a slot's opening (R50 to R52). -/

namespace Sys2Proof.Machine

/-! ### PRDY -/

/-- Some current READY record is numbered above the last-taken of the PRDY reader (R64). -/
def prdyLevel (p : Part) : Bool :=
  p.pairs.queue.any fun r =>
    r.isCurrent && r.state == .ready && decide ((p.reader p.rig.global.prdyReader).lastTaken < r.number)

/-- In LEVEL mode PRDY is evaluated afresh (R64). -/
def evaluatePrdy (p : Part) : Part :=
  if p.rig.global.prdyMode = .level then p.onPairs fun m => { m with prdy := prdyLevel p } else p

/-- A current record has become READY: a pulse in PULSE mode, an evaluation in LEVEL mode (R63, R64). -/
def prdyOnReady (p : Part) : Part :=
  match p.rig.global.prdyMode with
  | .off => p
  | .pulse => p.onPairs fun m => { m with prdy := true, prdyPulse := .running Config.prdyPulseTicks }
  | .level => evaluatePrdy p

/-- A GLOBAL latch has put `new` in force where `old` stood (R65). A GLOBAL latch evaluates the level in any case (R64). -/
def prdyOnLatch (old new : GlobalSettings) (p : Part) : Part :=
  if old.prdyMode = new.prdyMode then evaluatePrdy p
  else evaluatePrdy (p.onPairs fun m => { m with prdy := false, prdyPulse := .stopped })

/-! ### Retirement -/

/-- Every enabled EVERY reader has last-taken at or above the number (R59). -/
def everyPassed (p : Part) (n : Nat) : Bool :=
  allReaders.all fun r =>
    !((p.readerSettings r).enabled && (p.reader r).state != .unbound && (p.readerSettings r).policy == .every) ||
      decide (n ≤ (p.reader r).lastTaken)

/-- The record retires, `newer` being the records behind it in the queue (R59). -/
def retires (p : Part) (r : PairRecord) (newer : List PairRecord) : Bool :=
  r.state == .ready && r.holders == 0 &&
    (!r.isCurrent || (everyPassed p r.number && newer.any fun q => q.state == .ready))

/-- The records that an evaluation retires, oldest first (R59). Retiring an older record does not bear on a newer one. -/
def retiring (p : Part) : List PairRecord → List PairRecord
  | [] => []
  | r :: rs => if retires p r rs then r :: retiring p rs else retiring p rs

/-- The records that stay. -/
def staying (p : Part) : List PairRecord → List PairRecord
  | [] => []
  | r :: rs => if retires p r rs then staying p rs else r :: staying p rs

/-- The retirement notices of one record to both slot tables (R38, R59). -/
def retireSlots (p : Part) (r : PairRecord) : Part :=
  (p.onSlot .left r.leftSlot SlotRecord.retire).onSlot .right r.rightSlot SlotRecord.retire

/-- The pair manager evaluates retirement (R59, R60); PRDY is evaluated when a record retires (R64). -/
def evaluateRetirement (p : Part) : Part :=
  let gone := retiring p p.pairs.queue
  let p1 := p.onPairs fun m => { m with queue := staying p m.queue }
  let p2 := gone.foldl retireSlots p1
  if gone.isEmpty then p2 else evaluatePrdy p2

/-- Apply `f` to the first element that satisfies the test. -/
def updateFirst {α : Type} (test : α → Bool) (f : α → α) : List α → List α
  | [] => []
  | a :: as => if test a then f a :: as else a :: updateFirst test f as

/-- What a reader that takes this record holds (R67, R73). -/
def PairRecord.asHeld (r : PairRecord) : HeldPair := { number := r.number, take := r.take, leftSlot := r.leftSlot }

/-- The record is the one held (R58, R67; notes/assumptions/33.md). -/
def PairRecord.isHeld (h : HeldPair) (r : PairRecord) : Bool := r.asHeld == h

/-- The record that a take notice naming this pair reaches: current, READY and still in the queue; none, and the notice is
refused (R58). -/
def takeNotice (number : Nat) (take : Word) (p : Part) : Option PairRecord :=
  p.pairs.queue.find? fun r => r.number == number && r.take == take && r.isCurrent && r.state == .ready

/-- Change the holder count of a held pair's record (R58). -/
def onHolders (h : HeldPair) (f : Nat → Nat) (p : Part) : Part :=
  p.onPairs fun m => { m with queue := updateFirst (PairRecord.isHeld h) (fun r => { r with holders := f r.holders }) m.queue }

/-! ### Linking -/

/-- Slot `i` of eye `y` is a candidate for a slot opened at stamp `t` with geometry `g` (R50). -/
def isCandidate (p : Part) (y : Eye) (i : Nat) (t : Stamp) (g : Geometry) : Bool :=
  let c := p.slot y i
  c.state.live && c.partner.isNone && (p.matchTimer y i).isRunning && c.geom.shared == g.shared &&
    decide ((stampDiff t c.startStamp).natAbs ≤ p.rig.global.matchTolerance)

/-- The first of two candidates is the better one: smaller distance, then the earlier start stamp (R51). -/
def betterCandidate (p : Part) (y : Eye) (t : Stamp) (i j : Nat) : Bool :=
  let di := (stampDiff t (p.slot y i).startStamp).natAbs
  let dj := (stampDiff t (p.slot y j).startStamp).natAbs
  decide (di < dj) || (di == dj && decide (stampDiff (p.slot y i).startStamp (p.slot y j).startStamp < 0))

/-- The best of the candidates (R51). -/
def bestCandidate (p : Part) (y : Eye) (t : Stamp) : List Nat → Option Nat
  | [] => none
  | i :: is =>
    match bestCandidate p y t is with
    | none => some i
    | some j => if betterCandidate p y t j i then some j else some i

/-- The candidate the pair manager picks for a slot opened at stamp `t` with geometry `g`, if there is one (R50, R51). -/
def pickCandidate (p : Part) (y : Eye) (t : Stamp) (g : Geometry) : Option Nat :=
  bestCandidate p y t ((List.range (p.slots.get y).length).filter fun i => isCandidate p y i t g)

/-- The number after `n`, or exhausted (R47, R51). -/
def numberAfter (n : Nat) : Option Nat := if n < Config.lastPairNumber then some (n + 1) else none

/-- The FORMING record of a link (R48, R51). -/
def linkRecord (p : Part) (number left right : Nat) : PairRecord :=
  let l := p.slot .left left
  let r := p.slot .right right
  { number := number, take := p.take, stale := false, leftSlot := left, rightSlot := right, leftFrame := l.frameNumber,
    rightFrame := r.frameNumber, linkSkew := stampDiff r.startStamp l.startStamp, geom := l.geom.shared, state := .forming,
    damage := Damage.none, holders := 0, readyStamp := none }

/-- The left slot of a link of slot `i` of eye `x` with slot `c` of the other eye, and the right one. -/
def linkSides (x : Eye) (i c : Nat) : Nat × Nat :=
  match x with
  | .left => (i, c)
  | .right => (c, i)

/-- Slot `i` of eye `x` is linked to slot `c` of the other eye (R51, R37). -/
def linkSlots (x : Eye) (i c number : Nat) (p : Part) : Part :=
  let sides := linkSides x i c
  let rec0 := linkRecord p number sides.1 sides.2
  let p1 := p.setMatchTimer x.other c .stopped
  let p2 := p1.onPairs fun m => { m with queue := m.queue ++ [rec0], nextNumber := numberAfter number }
  (p2.onSlot x i (SlotRecord.link c number p.take)).onSlot x.other c (SlotRecord.link i number p.take)

/-- The match timer of a slot starts with the match tolerance in force (R52). -/
def startMatchTimer (x : Eye) (i : Nat) (p : Part) : Part :=
  p.setMatchTimer x i (.running p.rig.global.matchTolerance)

/-- The slot table has told the pair manager that slot `i` of eye `x` has opened (R50 to R52). -/
def slotOpened (x : Eye) (i : Nat) (p : Part) : Part :=
  match p.pairs.nextNumber, pickCandidate p x.other (p.slot x i).startStamp (p.slot x i).geom with
  | some number, some c => linkSlots x i c number p
  | _, _ => startMatchTimer x i p

end Sys2Proof.Machine
end

