-- ==== Sys2Proof/Machine/Skew.lean ====
section
/-! DEFINITION. The skew and trim unit (07): limits, filter, trim update, trim sender, and the meanings of its commands. -/

namespace Sys2Proof.Machine

/-! ### The trim sender (R136, R137) -/

/-- A word carrying T as it stands starts (R136). -/
def startTrimWord (p : Part) : Part :=
  p.onSkew fun u =>
    { u with sender := { u.sender with state := .sending, word := some u.trim, timer := .running Config.trimWordTicks } }

/-- The sender is told that T has changed (R137). -/
def tellSender (p : Part) : Part :=
  match p.skew.sender.state with
  | .idle => startTrimWord p
  | .sending => p.onSkew fun u => { u with sender := { u.sender with pending := true } }
  | .gap => p.onSkew fun u => { u with sender := { u.sender with pending := true } }

/-- T takes a value, and the sender is told if T has changed (R133, R135). -/
def moveTrim (t : Int) (p : Part) : Part :=
  if t = p.skew.trim then p else tellSender (p.onSkew fun u => { u with trim := t })

/-- Clamp x to [a, b] (00_scope.md, "Arithmetic"). -/
def clampTrim (x a b : Int) : Int := if x < a then a else if b < x then b else x

/-- The bit period a word in SENDING stands in, 0 to 15, and whether its second half has begun (R136). -/
def trimBitPosition (remaining : Nat) : Nat × Bool :=
  let e := min (Config.trimWordTicks - remaining) (Config.trimWordTicks - 1)
  (e / Config.ticksPerUs, decide (Config.ticksPerUs / 2 ≤ e % Config.ticksPerUs))

/-- The level of TRIM_D: the bit of the word, most significant first, while SENDING; low otherwise (R136, R139). -/
def Part.trimD (p : Part) : Bool :=
  match p.skew.sender.state, p.skew.sender.word, p.skew.sender.timer with
  | .sending, some t, .running r => (trimWord t).getLsbD (15 - (trimBitPosition r).1)
  | _, _, _ => false

/-- The level of TRIM_CK: high in the second half of each bit period while SENDING; low otherwise (R136, R139). -/
def Part.trimCk (p : Part) : Bool :=
  match p.skew.sender.state, p.skew.sender.timer with
  | .sending, .running r => (trimBitPosition r).2
  | _, _ => false

/-! ### Limits (R129) -/

/-- The error e0 = F − target skew, in 1/256 tick (R129). -/
def Part.skewError (p : Part) : Int := p.skew.f - 256 * p.rig.sync.target

/-- A SKEW_EVENT goes to the report unit (R129, R134). -/
def skewEvent (kind : SkewEventKind) (p : Part) : Part :=
  queueRecordNow (.skewEvent kind p.skew.f p.skew.trim p.skew.d p.rig.sync.target) p

/-- A limit state after a judgement: entered above the limit, left at or below limit − hysteresis (R129). `e` is |e0| in
1/256 tick. -/
def limitAfter (state : Bool) (e : Nat) (limit hysteresis : Nat) : Bool :=
  if state then !decide ((e : Int) ≤ 256 * ((limit : Int) - hysteresis)) else decide (256 * limit < e)

/-- The events of one judgement, in their order (R129): the states before, and the states after. -/
def limitEvents (warn0 fault0 warn1 fault1 : Bool) (p : Part) : Part :=
  let p1 := if !warn0 && warn1 then setFlag .skewWarn (skewEvent .warnEnter p) else p
  let p2 := if !fault0 && fault1 then setFlag .skewFault (skewEvent .faultEnter p1) else p1
  let p3 := if fault0 && !fault1 then skewEvent .faultLeave p2 else p2
  if warn0 && !warn1 then skewEvent .warnLeave p3 else p3

/-- R129 is applied to the F in hand with the SYNC settings in force. -/
def judgeLimits (p : Part) : Part :=
  let e := p.skewError.natAbs
  let warn1 := limitAfter p.skew.warn e p.rig.sync.warnLimit p.rig.sync.hysteresis
  let fault1 := limitAfter p.skew.fault e p.rig.sync.faultLimit p.rig.sync.hysteresis
  limitEvents p.skew.warn p.skew.fault warn1 fault1 (p.onSkew fun u => { u with warn := warn1, fault := fault1 })

/-- The limits are judged only while both lock views are LOCKED and the seed mark is clear (R130). -/
def judgeIfMeasured (p : Part) : Part :=
  if p.skew.lockView.left && p.skew.lockView.right && !p.skew.seed then judgeLimits p else p

/-! ### The trim update (R131 to R134) -/

/-- e × gain, rounded toward zero to whole trim units; `e` in 1/256 tick (R132). -/
def gainStep (g : Gain) (e : Int) : Int :=
  match g with
  | .off => 0
  | .one => Int.tdiv e 256
  | .half => Int.tdiv e 512
  | .quarter => Int.tdiv e 1024
  | .eighth => Int.tdiv e 2048

/-- The trim step of an error, before its limit (R132). -/
def rawStep (y : SyncSettings) (e0 : Int) : Int :=
  let e := match y.follower with | .right => e0 | .left => -e0
  if e.natAbs ≤ 256 * y.deadBand then 0 else -(gainStep y.gain e)

/-- The step after the rate limit, which is left out in FAULT with direct-on-fault (R133). -/
def limitedStep (y : SyncSettings) (fault : Bool) (step : Int) : Int :=
  if fault && y.directOnFault then step
  else if (y.upRate : Int) < step then y.upRate
  else if step < -(y.downRate : Int) then -(y.downRate : Int)
  else step

/-- The trim value after an update (R132, R133). -/
def trimAfter (p : Part) : Int :=
  let y := p.rig.sync
  clampTrim (p.skew.trim + limitedStep y p.skew.fault (rawStep y p.skewError)) y.trimMin y.trimMax

/-- Saturation is judged after a trim update; reaching 16 raises TRIM_SATURATED once (R134). -/
def judgeSaturation (p : Part) : Part :=
  let y := p.rig.sync
  if (p.skew.trim = y.trimMin ∨ p.skew.trim = y.trimMax) ∧ 256 * y.warnLimit < p.skewError.natAbs then
    let p1 := p.onSkew fun u => { u with satCount := min (u.satCount + 1) Config.saturationLimit }
    if p.skew.satCount + 1 = Config.saturationLimit then setFlag .trimSaturated (skewEvent .trimSaturated p1) else p1
  else p.onSkew fun u => { u with satCount := 0 }

/-- One trim update (R131 to R134). -/
def trimUpdate (p : Part) : Part := judgeSaturation (moveTrim (trimAfter p) p)

/-! ### Samples (R127, R128) -/

/-- F after a sample: seeded, or moved by (d − F) ÷ 2^k in 1/256 tick, rounded toward zero (R128). -/
def filtered (seed : Bool) (f d : Int) (k : Nat) : Int :=
  if seed then 256 * d else f + Int.tdiv (256 * d - f) (2 ^ k)

/-- A sample of value `d`: the filter, then the limits, then the trim update and the saturation count (R128 to R134). -/
def takeSample (d : Int) (p : Part) : Part :=
  let p1 := p.onSkew fun u =>
    { u with d := some d, f := filtered u.seed u.f d p.rig.sync.filterShift, seed := false, sampleCount := u.sampleCount + 1 }
  let p2 := judgeLimits p1
  if p.rig.sync.divider ≤ p2.skew.sampleCount then (trimUpdate p2).onSkew fun u => { u with sampleCount := 0 } else p2

/-- The other eye's latest pulse forms a sample with an accepted pulse of stamp `s` and reference period `r` (R127). -/
def samplePartner (p : Part) (x : Eye) (s : Stamp) (r : Option Int) : Option Stamp :=
  match p.skew.latest.get x.other, r with
  | some q, some period =>
    if p.skew.lockView.left && p.skew.lockView.right && p.rig.partState == .running && !q.used &&
        decide (((stampDiff s q.stamp).natAbs : Int) ≤ period / 2)
    then some q.stamp else none
  | _, _ => none

/-- The value of a sample: stamp of the RIGHT pulse − stamp of the LEFT pulse (R128). -/
def sampleValue (x : Eye) (own other : Stamp) : Int :=
  match x with
  | .right => stampDiff own other
  | .left => stampDiff other own

/-- An accepted pulse is used (R127). -/
def acceptedPulse (x : Eye) (s : Stamp) (r : Option Int) (p : Part) : Part :=
  match samplePartner p x s r with
  | some q =>
    takeSample (sampleValue x s q)
      (p.onSkew fun u =>
        { u with latest := (u.latest.set x.other (some { stamp := q, used := true })).set x (some { stamp := s, used := true }) })
  | none => p.onSkew fun u => { u with latest := u.latest.set x (some { stamp := s, used := false }) }

/-- The skew unit takes a pulse: only an accepted one is used (R127). -/
def takePulse (x : Eye) (s : Stamp) (o : PulseOutcome) (r : Option Int) (p : Part) : Part :=
  match o with
  | .accepted => acceptedPulse x s r p
  | .periodFault => p
  | .acquisition => p

/-- The departure of an eye from LOCKED (R126). -/
def skewDeparture (x : Eye) (p : Part) : Part :=
  p.onSkew fun u =>
    { u with
      lockView := u.lockView.set x false, latest := u.latest.set x none, seed := true, warn := false, fault := false,
      sampleCount := 0, satCount := 0 }

/-! ### SYNC latches (R135, R138) -/

/-- The divider and the limits of a SYNC latch act; `old` stood before (R135). -/
def rejudge (old : SyncSettings) (p : Part) : Part :=
  judgeIfMeasured (if old.divider = p.rig.sync.divider then p else p.onSkew fun u => { u with sampleCount := 0 })

/-- The saturation count becomes 0 (R135). -/
def clearSaturation (p : Part) : Part := p.onSkew fun u => { u with satCount := 0 }

/-- The trim value after a SYNC latch: clamped to the new bounds, or the trim start where the follower has changed (R135). -/
def latchedTrim (old y : SyncSettings) (trim : Int) : Int :=
  if old.follower = y.follower then clampTrim trim y.trimMin y.trimMax else y.trimStart

/-- The clamp leaves T and the follower as they are (R135). -/
def trimStays (old y : SyncSettings) (trim : Int) : Bool :=
  decide (old.follower = y.follower ∧ clampTrim trim y.trimMin y.trimMax = trim)

/-- A SYNC latch acts on the skew unit; `old` stood before (R135; notes/assumptions/22.md). -/
def skewOnLatch (old : SyncSettings) (p : Part) : Part :=
  let q := rejudge old p
  if trimStays old p.rig.sync q.skew.trim then q
  else moveTrim (latchedTrim old p.rig.sync q.skew.trim) (clearSaturation q)

/-- The same at the end of the load, where the sender is told nothing (R138). -/
def skewOnLoadLatch (old : SyncSettings) (p : Part) : Part :=
  let q := rejudge old p
  if trimStays old p.rig.sync q.skew.trim then q
  else (clearSaturation q).onSkew fun u => { u with trim := latchedTrim old p.rig.sync q.skew.trim }

/-- At the end of the load T is set to the trim start and one word carries it (R138). -/
def sendTrimStart (p : Part) : Part := startTrimWord (p.onSkew fun u => { u with trim := p.rig.sync.trimStart })

/-! ### The meanings -/

/-- The next notice on its way to the skew unit is dropped from the way. -/
def dropSkewNotice (x : Eye) (p : Part) : Part :=
  p.onSync fun u => { u with skewNotices := u.skewNotices.set x (u.skewNotices.get x).tail }

/-- SKEW_PULSE_HANDOVER (R127). -/
def skewPulseHandover (x : Eye) (p : Part) : Part :=
  match p.sync.skewNotices.get x with
  | .pulse s o r :: _ => takePulse x s o r (dropSkewNotice x p)
  | _ => p

def execSkewPulseHandover (x : Eye) (s : State) : Host.Outcome State Fault Refusal := whenRunning (skewPulseHandover x) s

/-- SKEW_LOCK_NOTICE (R126). -/
def skewLockNotice (x : Eye) (p : Part) : Part :=
  match p.sync.skewNotices.get x with
  | .lock :: _ => (dropSkewNotice x p).onSkew fun u => { u with lockView := u.lockView.set x true }
  | _ => p

def execSkewLockNotice (x : Eye) (s : State) : Host.Outcome State Fault Refusal := whenRunning (skewLockNotice x) s

/-- SKEW_DEPARTURE_NOTICE (R126). -/
def skewDepartureNotice (x : Eye) (p : Part) : Part :=
  match p.sync.skewNotices.get x with
  | .departure :: _ => skewDeparture x (dropSkewNotice x p)
  | _ => p

def execSkewDepartureNotice (x : Eye) (s : State) : Host.Outcome State Fault Refusal := whenRunning (skewDepartureNotice x) s

/-- The 16th bit of a word has ended (R136). In GAP, and in IDLE after it, the sender holds no value in the word (DESIGN CHOICE,
notes/assumptions/41.md). -/
def endTrimWord (p : Part) : Part :=
  p.onSkew fun u =>
    { u with
      sender :=
        { u.sender with state := .gap, word := none, lastSent := u.sender.word, timer := .running Config.trimGapTicks } }

/-- TRIM_WORD_END (R136). -/
def trimWordEnd (p : Part) : Part :=
  match p.skew.sender.state with
  | .sending => onExpiry p.skew.sender.timer endTrimWord p
  | .idle => p
  | .gap => p

def execTrimWordEnd (s : State) : Host.Outcome State Fault Refusal := whenRunning trimWordEnd s

/-- The gap has ended (R137). -/
def endTrimGap (p : Part) : Part :=
  let idle := p.onSkew fun u => { u with sender := { u.sender with state := .idle, pending := false, timer := .stopped } }
  if p.skew.sender.pending ∧ p.skew.sender.lastSent ≠ some p.skew.trim then startTrimWord idle else idle

/-- TRIM_GAP_END (R137). -/
def trimGapEnd (p : Part) : Part :=
  match p.skew.sender.state with
  | .gap => onExpiry p.skew.sender.timer endTrimGap p
  | .idle => p
  | .sending => p

def execTrimGapEnd (s : State) : Host.Outcome State Fault Refusal := whenRunning trimGapEnd s

end Sys2Proof.Machine
end

