-- ==== Sys2Proof/Machine/Latches.lean ====
section
/-! DEFINITION. The latch of each section at its latch point (R174): GLOBAL with the take change (R61), the PRDY line (R65) and
the report region (R186); SYNC (R135); EYE with the pool layout (R44) and the stream's enable (R4); READER (R90); the waiting
window change (R91, R174). -/

namespace Sys2Proof.Machine

/-! ### The pair window -/

/-- Some reader is HOLDING or PARKED (R91). -/
def anyBusy (p : Part) : Bool :=
  allReaders.any fun r => (p.reader r).state == .holding || (p.reader r).state == .parked

/-- A waiting window change takes effect once no reader is HOLDING or PARKED (R91, R174). -/
def checkWindow (p : Part) : Part :=
  match p.rig.windowChange with
  | none => p
  | some w =>
    if anyBusy p then p
    else p.onRig fun u => { u with global := { u.global with windowBase := w.base, layout := w.layout }, windowChange := none }

/-! ### GLOBAL -/

/-- The settings a GLOBAL latch puts in force: while a reader is HOLDING or PARKED a differing window stays as it is (R174). -/
def latchedGlobal (p : Part) (g : GlobalSettings) : GlobalSettings :=
  if anyBusy p then { g with windowBase := p.rig.global.windowBase, layout := p.rig.global.layout } else g

/-- The window change that waits after a GLOBAL latch (R174). -/
def latchedWindow (p : Part) (g : GlobalSettings) : Option WindowChange :=
  if anyBusy p ∧ (g.windowBase ≠ p.rig.global.windowBase ∨ g.layout ≠ p.rig.global.layout) then
    some { base := g.windowBase, layout := g.layout }
  else none

/-- The take change, the new take number being in force (R61, steps 1 to 8; R21, R84). -/
def takeChange (old : Word) (p : Part) : Part :=
  let p1 := evaluateRetirement (p.onPairs fun m => { m with queue := m.queue.map fun r => { r with stale := true } })
  let p2 := p1.onPairs fun m => { m with nextNumber := some 1 }
  let p3 := (p2.onStream .left fun c => { c with frameNumber := 0 }).onStream .right fun c => { c with frameNumber := 0 }
  let p4 := p3.onReaders fun u => { u with ctx := u.ctx.map fun c => { c with lastTaken := 0 } }
  queueRecordNow (.takeChange old p4.take) (evaluatePrdy p4)

/-- A change of the report region base or of the ring size (R186). -/
def reportOnLatch (old new : GlobalSettings) (p : Part) : Part :=
  if old.reportBase = new.reportBase ∧ old.ringSize = new.ringSize then p
  else p.onReport fun u => { u with ringIndex := 0, due := true }

/-- What the owning blocks do when `p.rig.global` has replaced `old` (R174; notes/assumptions/28.md). -/
def globalOnLatch (old : GlobalSettings) (withTakeChange : Bool) (p : Part) : Part :=
  let p1 := if withTakeChange ∧ old.take ≠ p.take then takeChange old.take p else p
  evaluateAlert (reportOnLatch old p.rig.global (prdyOnLatch old p.rig.global p1))

/-- The GLOBAL section reaches its latch point; at the end of the load there is no take change (R47, R174, R179). -/
def latchGlobal (withTakeChange : Bool) (p : Part) : Part :=
  match validateGlobal p (p.staged .global) with
  | .error e => rejectSection .global e false p
  | .ok g =>
    globalOnLatch p.rig.global withTakeChange
      ((p.onRig fun u => { u with global := latchedGlobal p g, windowChange := latchedWindow p g }).setPost .global .unposted)

/-! ### SYNC -/

/-- The SYNC section reaches its latch point (R135, R138, R174). -/
def latchSync (atLoad : Bool) (p : Part) : Part :=
  match validateSync (p.staged .sync) with
  | .error e => rejectSection .sync e false p
  | .ok y =>
    let p1 := (p.onRig fun u => { u with sync := y }).setPost .sync .unposted
    if atLoad then skewOnLoadLatch p.rig.sync p1 else skewOnLatch p.rig.sync p1

/-! ### EYE -/

/-- Put validated EYE settings in force; a changed pool layout forms new slot records, all FREE (R44, R174). -/
def putEye (x : Eye) (e : EyeSettings) (p : Part) : Part :=
  let p1 := (p.onRig fun u => { u with eye := u.eye.set x e }).setPost (.eye x) .unposted
  if samePool e (p.eyeSettings x) then p1 else p1.onSlots x fun _ => freeSlots e.slotCount

/-- The EYE section reaches its latch point; the second component says whether it passed (R44, R96, R174). -/
def latchEye (x : Eye) (p : Part) : Part × Bool :=
  match validateEye p x (p.staged (.eye x)) with
  | .error e => (rejectSection (.eye x) e false p, false)
  | .ok e => (putEye x e p, true)

/-- The state of an OFF or WAITING_SYNC stream after a latch that passed (R4). -/
def streamAfterLatch (state : StreamState) (enable locked : Bool) : StreamState :=
  if !enable then .off
  else match state with
    | .off => if locked then .between else .waitingSync
    | .waitingSync => .waitingSync
    | .between => .between
    | .open => .open
    | .spill => .spill

/-- An EYE latch of a stream in OFF or WAITING_SYNC (R4). -/
def latchEyeIdle (x : Eye) (p : Part) : Part :=
  match latchEye x p with
  | (p1, false) => p1
  | (p1, true) =>
    p1.onStream x fun c =>
      { c with
        state := streamAfterLatch c.state (p1.eyeSettings x).enable ((p1.acq x).state == .locked), completed := false }

/-! ### READER -/

/-- The last-taken of a reader that is being enabled (R90). -/
def joinedLastTaken (p : Part) (lastTaken : Nat) : Nat :=
  match p.newestReady with
  | none => lastTaken
  | some q => if lastTaken < q.number - 1 then q.number - 1 else lastTaken

/-- The context of an IDLE or UNBOUND reader after a latch that passed (R90). -/
def readerAfterLatch (p : Part) (enabled : Bool) (c : ReaderCtx) : ReaderCtx :=
  if !enabled then { c with state := .unbound }
  else if c.state = .unbound then { c with state := .idle, lastTaken := joinedLastTaken p c.lastTaken }
  else c

/-- Put validated READER settings in force, report the last-taken, evaluate retirement (R90). -/
def putReader (r : ReaderId) (v : ReaderSettings) (p : Part) : Part :=
  let p1 := (p.onRig fun u => { u with reader := u.reader.set r v }).setPost (.reader r) .unposted
  evaluateRetirement (evaluatePrdy (p1.onReader r (readerAfterLatch p v.enabled)))

/-- The READER section reaches its latch point (R90, R174). -/
def latchReader (r : ReaderId) (p : Part) : Part :=
  match validateReader p r (p.staged (.reader r)) with
  | .error e => rejectSection (.reader r) e false p
  | .ok v => putReader r v p

/-- The reader has gone to IDLE: a posted section of it latches (R90). -/
def latchReaderIfPosted (r : ReaderId) (p : Part) : Part :=
  if p.post (.reader r) = .posted then latchReader r p else p

/-! ### Posting (R173, R174) -/

/-- A POSTED section latches at once if its latch point has come (R173, R174). -/
def latchIfDue (k : Section) (p : Part) : Part :=
  match k with
  | .global => latchGlobal true p
  | .sync => latchSync false p
  | .eye x => if (p.stream x).state = .off ∨ (p.stream x).state = .waitingSync then latchEyeIdle x p else p
  | .reader r => if (p.reader r).state = .idle ∨ (p.reader r).state = .unbound then latchReader r p else p

end Sys2Proof.Machine
end

