-- ==== Sys2Proof/Machine/Rig.lean ====
section
/-! DEFINITION. The rig unit (10): RIG writes and the staged shadow (R173, R178), the event clear word (R180), the start-up load
(R177, R179). -/

namespace Sys2Proof.Machine

/-- The base of the rig table (R172). -/
def Part.rigBase (p : Part) : Nat := Config.rigStep * p.rig.rigsel.toNat

/-! ### Writes to the shadow -/

/-- The run of `n` bytes from offset `o` covers some byte of the word at offset `w`. -/
def coversWord (o n w : Nat) : Bool := decide (o < w + 4 ∧ w < o + n)

/-- The bytes of the word at offset `w` after a write of `data` at offset `o` (R173). -/
def writtenWord (o : Nat) (data : List Byte) (w : Nat) (old : Word) : Word :=
  BitVec.ofNat 32 (leNat (mapFrom
    (fun i b => if o ≤ w + i ∧ w + i < o + data.length then data.getD (w + i - o) b else b) 0 (leBytes 4 old.toNat)))

/-- A shadow word after a write that touches it; during LOADING it takes the write mark and loses a fault mark (R173, R178). -/
def ShadowWord.write (loading : Bool) (o : Nat) (data : List Byte) (w : Nat) (s : ShadowWord) : ShadowWord :=
  if coversWord o data.length w then
    { value := writtenWord o data w s.value, written := s.written || loading, faulted := s.faulted && !loading }
  else s

/-- A write is applied to the words of one section. -/
def SectionShadow.write (loading : Bool) (o : Nat) (data : List Byte) (k : Section) (s : SectionShadow) : SectionShadow :=
  { s with words := mapFrom (fun j w => w.write loading o data (sectionOffset k + 4 * j)) 0 s.words }

/-- Apply `f` to every section of the shadow. -/
def Part.onEverySection (p : Part) (f : Section → SectionShadow → SectionShadow) : Part :=
  Section.all.foldl (fun q k => q.onSection k (f k)) p

/-- A write is applied to the shadow whole (R173, R178). -/
def writeShadow (o : Nat) (data : List Byte) (p : Part) : Part :=
  p.onEverySection (SectionShadow.write (p.rig.partState == .loading) o data)

/-- The number of words of a section, its check word included (R188). -/
def sectionWords : Section → Nat
  | .global => 9
  | .sync => 8
  | .eye _ => 9
  | .reader _ => 4

/-- The offset of a section's check word (R188). -/
def checkOffset (k : Section) : Nat := sectionOffset k + 4 * (sectionWords k - 1)

/-- The write touches a word of the section. -/
def touchesSection (o n : Nat) (k : Section) : Bool :=
  (List.range (sectionWords k)).any fun j => coversWord o n (sectionOffset k + 4 * j)

/-- The write covers a byte of the section's check word. -/
def touchesCheck (o n : Nat) (k : Section) : Bool := coversWord o n (checkOffset k)

/-- The check word of a section has been written: the section is posted, or rejected with reason CHECK (R173). -/
def postSection (k : Section) (p : Part) : Part :=
  if checkMatches (p.staged k) then latchIfDue k (p.setPost k .posted) else rejectSection k .check false p

/-- One section after a write in RUNNING (R173). -/
def treatSection (o n : Nat) (p : Part) (k : Section) : Part :=
  if touchesCheck o n k then postSection k p
  else if touchesSection o n k then p.setPost k .unposted
  else p

/-- The sections that a write in RUNNING touches, in their order; during LOADING nothing is posted (R173, R178). -/
def treatSections (o n : Nat) (p : Part) : Part :=
  match p.rig.partState with
  | .loading => p
  | .running => Section.all.foldl (treatSection o n) p

/-! ### The event clear word (R180) -/

/-- The bits of the event clear word in the bytes written; bytes not written count as 0. -/
def eventClearBits (o : Nat) (data : List Byte) : BitVec 11 :=
  BitVec.ofNat 11 (writtenWord o data Config.eventClearOffset 0).toNat

/-- A write at offset `o` of `n` bytes covers the event clear word. -/
def touchesEventClear (o n : Nat) : Bool := coversWord o n Config.eventClearOffset

/-- The event clear word acts (R180). -/
def clearEvents (o : Nat) (data : List Byte) (p : Part) : Part :=
  if touchesEventClear o data.length then clearFlags (eventClearBits o data) p else p

/-- A RIG write handed to the rig unit (R148, R173, R178, R180). -/
def rigUnitWrite (o : Nat) (data : List Byte) (p : Part) : Part :=
  clearEvents o data (treatSections o data.length (writeShadow o data p))

/-! ### The start-up load -/

/-- The rig unit offers load read `k` (R177). -/
def offerLoadRead (k : Nat) (p : Part) : Part :=
  offerInjected .loadRead .read (p.rigBase + k * Config.loadReadBytes) Config.loadReadBytes []
    (p.onRig fun u => { u with loadIndex := k })

/-- A shadow word at offset `w` after the result of the load read at offset `o` (R177). -/
def ShadowWord.load (o : Nat) (res : MResult) (w : Nat) (s : ShadowWord) : ShadowWord :=
  if o ≤ w ∧ w < o + Config.loadReadBytes ∧ !s.written then
    match res with
    | .ok data => { s with value := BitVec.ofNat 32 (leNat ((data.drop (w - o)).take 4)) }
    | .fault => { s with faulted := true }
    | .timedOut => { s with faulted := true }
  else s

def SectionShadow.load (o : Nat) (res : MResult) (k : Section) (s : SectionShadow) : SectionShadow :=
  { s with words := mapFrom (fun j w => w.load o res (sectionOffset k + 4 * j)) 0 s.words }

/-- The load marks are cleared (R179). -/
def SectionShadow.clearMarks (s : SectionShadow) : SectionShadow :=
  { s with words := s.words.map fun w => { w with written := false, faulted := false } }

/-- A word of the section carries the fault mark (R179). -/
def SectionShadow.faulted (s : SectionShadow) : Bool := s.words.any (·.faulted)

/-- A section whose check word matches latches under its own rules at the end of the load (R179). -/
def latchAtLoadEnd (k : Section) (p : Part) : Part :=
  match k with
  | .global => latchGlobal false p
  | .sync => latchSync true p
  | .eye x => latchEyeIdle x p
  | .reader r => latchReader r p

/-- One section at the end of the load (R179). -/
def loadSection (p : Part) (k : Section) : Part :=
  if (p.rig.shadow.get k).faulted then rejectSection k .check true p
  else if checkMatches (p.staged k) then latchAtLoadEnd k p
  else rejectSection k .check false p

/-- The part becomes RUNNING: the status interval timer starts and a status write is due (R179, R183). -/
def becomeRunning (p : Part) : Part :=
  (p.onRig fun u => { u with partState := .running }).onReport fun u =>
    { u with interval := .running (p.rig.global.statusInterval * Config.ticksPerMs), due := true }

/-- The rig unit ends the load (R179). -/
def endLoad (p : Part) : Part :=
  becomeRunning (sendTrimStart ((Section.all.foldl loadSection p).onEverySection fun _ => SectionShadow.clearMarks))

/-- The rig unit takes the result of the load read in hand (R177, R179). -/
def loadReadResult (res : MResult) (p : Part) : Part :=
  let k := p.rig.loadIndex
  let p1 := p.onEverySection (SectionShadow.load (k * Config.loadReadBytes) res)
  if k + 1 < Config.loadReads then offerLoadRead (k + 1) p1 else endLoad p1

end Sys2Proof.Machine
end

