-- ==== Sys2Proof/Machine/Readers.lean ====
section
/-! DEFINITION. The reader unit (04): the pair window and the translation of reads (R85 to R89), choosing and taking a pair
(R71 to R74), holds and releases (R75 to R79), the park list (R80 to R83), and the meanings of its timers' expiries. -/

namespace Sys2Proof.Machine

/-! ### The pair window (R85 to R87) -/

/-- A run of `n` bytes from offset `o` cut at every multiple of the line length: (offset, length) of each part (R87, R106).
The first argument bounds the number of parts; the length of the run always suffices. -/
def cutRun (lb : Nat) : Nat → Nat → Nat → List (Nat × Nat)
  | 0, _, _ => []
  | fuel + 1, o, n =>
    let m := min n (lb - o % lb)
    if m = 0 then [] else (o, m) :: cutRun lb fuel (o + m) (n - m)

/-- A place in the pair window: eye, line and byte (R85). -/
structure WindowPlace where
  eye : Eye
  line : Nat
  byte : Nat
deriving DecidableEq, Repr

/-- The place an offset inside the extent resolves to (R85). -/
def windowPlace (layout : Layout) (lb h o : Nat) : WindowPlace :=
  match layout with
  | .sequential =>
    if o < lb * h then { eye := .left, line := o / lb, byte := o % lb }
    else { eye := .right, line := (o - lb * h) / lb, byte := o % lb }
  | .interleaved =>
    { eye := if o / lb % 2 = 0 then .left else .right, line := o / lb / 2, byte := o % lb }

/-- Physical line `j` is a band-gap line of a slot with this geometry (R86, R105). -/
def bandGap (g : Geometry) (j : Nat) : Bool :=
  let bandEnd : Int := (g.lines : Int) - g.bottom
  if 0 < g.shift then decide ((g.top : Int) ≤ j ∧ (j : Int) < g.top + g.shift)
  else if g.shift < 0 then decide (bandEnd + g.shift ≤ j ∧ (j : Int) < bandEnd)
  else false

/-- The place of an offset in a pair, by the layout in force (R85). -/
def pairPlace (p : Part) (q : PairRecord) (o : Nat) : WindowPlace :=
  windowPlace p.rig.global.layout q.geom.lineBytes q.geom.lines o

/-- The byte at an offset of the pair lies in a band-gap line of its slot (R86). -/
def inBandGap (p : Part) (q : PairRecord) (o : Nat) : Bool :=
  let w := pairPlace p q o
  bandGap (p.slot w.eye (q.slotOf w.eye)).geom w.line

/-- The piece of one part of a read: slot base + j × pitch + b (R87). -/
def readPieceOf (p : Part) (q : PairRecord) (e : Nat) (source : BitVec 6) (start : Nat) (part : Nat × Nat) : Piece :=
  let w := pairPlace p q part.1
  let i := q.slotOf w.eye
  { kind := .read, addr := p.slotBase w.eye i + w.line * (p.slot w.eye i).geom.pitch + w.byte, length := part.2, data := [],
    source := source, entry := e, role := .readPiece w.eye i (part.1 - start) }

/-- The pieces of a read, in offset order (R87). -/
def readPieces (p : Part) (q : PairRecord) (e : Nat) (source : BitVec 6) (o n : Nat) : List Piece :=
  ((cutRun q.geom.lineBytes n o n).filter fun part => !inBandGap p q part.1).map (readPieceOf p q e source o)

/-- The bytes laid down at translation: fill in band-gap lines (R86); the other bytes come with the piece results. -/
def readFill (p : Part) (q : PairRecord) (addr o n : Nat) : List Byte :=
  (List.range n).map fun i => if inBandGap p q (o + i) then fillByte p.rig.global.fill (addr + i) else 0

/-- Some byte of the read is band-gap fill (R86). -/
def readHasFill (p : Part) (q : PairRecord) (o n : Nat) : Bool :=
  (cutRun q.geom.lineBytes n o n).any fun part => inBandGap p q part.1

/-- The code the translation itself gives (R88): DAMAGED before FILLED before DONE. -/
def readCode (p : Part) (q : PairRecord) (o n : Nat) : Code :=
  if q.damage.any then .damaged else if readHasFill p q o n then .filled else .done

/-- The number of pieces that address eye `x` (R87). -/
def piecesTo (x : Eye) (l : List Piece) : Nat :=
  l.countP fun k => match k.role with | .readPiece y _ _ => y == x | .captureWrite _ _ => false | .passThrough => false

/-- Each slot's table is told how many of the read's pieces address that slot (R39, R87). -/
def countReads (q : PairRecord) (l : List Piece) (p : Part) : Part :=
  (p.onSlot .left q.leftSlot fun r => { r with reads := r.reads + piecesTo .left l }).onSlot .right q.rightSlot fun r =>
    { r with reads := r.reads + piecesTo .right l }

/-- A read inside the extent is translated against the pair (R87, R88). -/
def translateRead (q : PairRecord) (e o n : Nat) (p : Part) : Part :=
  match p.entry e with
  | none => p
  | some v =>
    let pieces := readPieces p q e v.source o n
    let data := readFill p q v.addr.toNat o n
    let code := readCode p q o n
    if pieces.isEmpty then finishEntry e code data p else handOn e code data pieces (countReads q pieces p)

/-- A read is answered REJECTED and counted (R69, R89). -/
def refuseRead (e : Nat) (p : Part) : Part := raise .rejected (answerAtOnce e .rejected p)

/-! ### Choosing a pair (R71, R72) -/

/-- An EVERY reader passes a damaged pair: last-taken moves, SKIPPED is raised, the pair manager is told (R71, R64). -/
def skipPair (r : ReaderId) (q : PairRecord) (p : Part) : Part :=
  evaluatePrdy
    (queueRecordNow (.readerEvent .skipped r q.damage q.number q.take 0)
      (p.onReader r fun c => { c with lastTaken := q.number }))

/-- The choice of an EVERY reader among the current records, oldest first (R71). -/
def chooseEvery (r : ReaderId) : List PairRecord → Part → Part × Option PairRecord
  | [], p => (p, none)
  | q :: qs, p =>
    if q.number ≤ (p.reader r).lastTaken then chooseEvery r qs p
    else if q.state = .forming then (p, none)
    else if q.damage.any && (p.readerSettings r).skipDamaged then chooseEvery r qs (skipPair r q p)
    else (p, some q)

/-- The choice of a LATEST reader (R72). -/
def chooseLatest (r : ReaderId) (p : Part) : Option PairRecord :=
  (p.pairs.queue.filter fun q =>
    q.isCurrent && q.state == .ready && !((p.readerSettings r).skipDamaged && q.damage.any)).getLast?

/-- The reader's choice by its policy (R71, R72). -/
def choosePair (r : ReaderId) (p : Part) : Part × Option PairRecord :=
  match (p.readerSettings r).policy with
  | .every => chooseEvery r (p.pairs.queue.filter PairRecord.isCurrent) p
  | .latest => (p, chooseLatest r p)

/-- The ticks of a reader's lease (R67). -/
def leaseTicks (p : Part) (r : ReaderId) : Nat := (p.readerSettings r).lease * Config.ticksPerUs

/-- The take notice is accepted and the reader holds the pair (R58, R73 steps 1 to 4). -/
def acceptTake (r : ReaderId) (q : PairRecord) (p : Part) : Part :=
  let p1 := onHolders q.asHeld (· + 1) p
  let p2 := p1.onReader r fun _ =>
    { state := .holding, held := some q.asHeld, lastTaken := q.number, away := false, lease := .running (leaseTicks p r) }
  evaluateRetirement (evaluatePrdy p2)

/-- A take attempt; the second component says whether it succeeded. A refused take notice is a failed take (R58, R71 to R73;
notes/assumptions/18.md). -/
def attemptTake (r : ReaderId) (p : Part) : Part × Bool :=
  match choosePair r p with
  | (p1, some q) =>
    match takeNotice q.number q.take p1 with
    | some k => (acceptTake r k p1, true)
    | none => (p1, false)
  | (p1, none) => (p1, false)

/-! ### Holds (R75 to R79, R89) -/

/-- A hold is released (R79). `latch` says whether a waiting READER section latches on the way through IDLE: not for a restart
read (R79; notes/assumptions/20.md). -/
def release (r : ReaderId) (latch : Bool) (p : Part) : Part :=
  match (p.reader r).held with
  | none => p
  | some h =>
    let p1 := p.onReader r fun c => { c with state := .idle, held := none, away := false, lease := .stopped }
    let p2 := checkWindow (if latch then latchReaderIfPosted r p1 else p1)
    evaluateRetirement (onHolders h (· - 1) p2)

/-- The record of the pair a reader holds. -/
def heldRecord (p : Part) (r : ReaderId) : Option PairRecord :=
  match (p.reader r).held with
  | none => none
  | some h => p.pairs.queue.find? (PairRecord.isHeld h)

/-- A read bound to the pair a reader holds, the context already set: refused beyond the extent (R89), translated otherwise,
and the end-of-pair read releases the hold (R77). A held pair is always in the queue. -/
def boundRead (r : ReaderId) (e o n : Nat) (p : Part) : Part :=
  match heldRecord p r with
  | none => refuseRead e p
  | some q =>
    if q.geom.extent < o + n then refuseRead e p
    else
      let p1 := translateRead q e o n p
      if o + n = q.geom.extent then release r true p1 else p1

/-- A hold read: the lease restarts, and an offset other than 0 sets the away mark (R75, R89). -/
def holdRead (r : ReaderId) (e o n : Nat) (p : Part) : Part :=
  boundRead r e o n
    (p.onReader r fun c => { c with lease := .running (leaseTicks p r), away := c.away || o != 0 })

/-- The read of a take that has succeeded: its translation sets the away mark when the offset is not 0 (R73 step 5). A read
beyond the extent is not translated (R89; notes/assumptions/21.md). -/
def takenRead (r : ReaderId) (e o n : Nat) (p : Part) : Part :=
  let inside := match heldRecord p r with | some q => decide (o + n ≤ q.geom.extent) | none => false
  boundRead r e o n (if inside then p.onReader r fun c => { c with away := o != 0 } else p)

/-! ### The park list (R74, R80) -/

/-- A read joins the park list at its tail (R80, R143). -/
def parkRead (r : ReaderId) (e o n : Nat) (p : Part) : Part :=
  let t := Timer.running ((p.readerSettings r).parkLimit * Config.ticksPerUs)
  ((p.onReaders fun u =>
      { u with parkList := u.parkList ++ [{ entry := e, reader := r, offset := o, length := n, timer := t }] }).onReader r
    fun c => { c with state := .parked }).onEntry e fun v => { v with state := .parked }

/-- A read is answered NO_PAIR with fill data (R74). -/
def answerNoPair (e : Nat) (p : Part) : Part := answerAtOnce e .noPair p

/-- The park list has room (R80). -/
def parkRoom (p : Part) : Bool := decide (p.readers.parkList.length < Config.parkPlaces)

/-- The outcome of a take read whose take has failed, the reader being IDLE (R74, R90). -/
def failedTake (r : ReaderId) (e o n : Nat) (p : Part) : Part :=
  if (p.readerSettings r).waitMode = .park && parkRoom p then parkRead r e o n p
  else latchReaderIfPosted r (answerNoPair e p)

/-- A take read of an IDLE reader (R70, R73, R74). -/
def takeRead (r : ReaderId) (e o n : Nat) (p : Part) : Part :=
  match attemptTake r p with
  | (p1, true) => takenRead r e o n p1
  | (p1, false) => failedTake r e o n p1

/-- A read at this offset is a restart read (R78). -/
def isRestart (p : Part) (r : ReaderId) (o : Nat) : Bool :=
  (p.readerSettings r).restartTakes && o == 0 && (p.reader r).away

/-- A newly arrived read bound to reader `r` (R70). -/
def readerRead (r : ReaderId) (e o n : Nat) (p : Part) : Part :=
  match (p.reader r).state with
  | .idle => takeRead r e o n p
  | .holding => if isRestart p r o then takeRead r e o n (release r false p) else holdRead r e o n p
  | .parked => if parkRoom p then parkRead r e o n p else answerNoPair e p
  | .unbound => refuseRead e p

/-- The reader a source tag is bound to (R69). -/
def boundReader (p : Part) (source : BitVec 6) : Option ReaderId :=
  allReaders.find? fun r => (p.reader r).state != .unbound && (p.readerSettings r).sourceTag == source.toNat

/-- A pair-window read reaches the reader unit (R69, R70). -/
def readerUnitRead (e : Nat) (p : Part) : Part :=
  match p.entry e with
  | none => p
  | some v =>
    match boundReader p v.source with
    | none => refuseRead e p
    | some r => readerRead r e v.offset v.length p

/-! ### Announcements (R82, R83) -/

/-- A parked read leaves the park list; its timer stops (R80, R82). -/
def removeParked (e : Nat) (p : Part) : Part :=
  p.onReaders fun u => { u with parkList := u.parkList.filter fun k => k.entry != e }

/-- The parked reads of a reader, in their order. -/
def parkedOf (p : Part) (r : ReaderId) : List ParkedRead := p.readers.parkList.filter fun k => k.reader == r

/-- A failed take leaves the remaining parked reads in their places and the reader PARKED (R82). -/
def backToParked (r : ReaderId) (p : Part) : Part := p.onReader r fun c => { c with state := .parked }

/-- The parked reads of a reader are processed in their order (R82). Each leaves the park list and is processed as if it had newly
arrived: a hold read, an end-of-pair read, or a restart read, which is parked anew or answered NO_PAIR where its take fails (R74,
R78, R80); so are those behind a restart read that has been parked anew (notes/assumptions/19.md). The take read of a reader that a
release has left IDLE leaves the list only if its take succeeds. -/
def processParkedReads (r : ReaderId) : List ParkedRead → Part → Part
  | [], p => p
  | k :: ks, p =>
    if (p.reader r).state = .idle then
      match attemptTake r p with
      | (p1, true) => processParkedReads r ks (takenRead r k.entry k.offset k.length (removeParked k.entry p1))
      | (p1, false) => backToParked r p1
    else processParkedReads r ks (readerRead r k.entry k.offset k.length (removeParked k.entry p))

/-- A PARKED reader attempts a take and, if it succeeds, its parked reads are processed (R82). -/
def attemptParked (r : ReaderId) (p : Part) : Part :=
  if (p.reader r).state = .parked then
    match attemptTake r p with
    | (p1, true) => processParkedReads r (parkedOf p1 r) p1
    | (p1, false) => p1
  else p

/-- Each element at its first occurrence only. -/
def firstOccurrences : List ReaderId → List ReaderId
  | [] => []
  | r :: rs => r :: (firstOccurrences rs).filter (· != r)

/-- The readers with parked reads, in the order of each one's oldest (R82). -/
def parkedReaders (p : Part) : List ReaderId := firstOccurrences (p.readers.parkList.map (·.reader))

/-- The READY announcement (R82). -/
def announceReady (p : Part) : Part := (parkedReaders p).foldl (fun q r => attemptParked r q) p

/-- The announcement that a current FORMING record was removed: EVERY readers attempt (R83). -/
def announceRemoval (p : Part) : Part :=
  (parkedReaders p).foldl (fun q r => if (q.readerSettings r).policy = .every then attemptParked r q else q) p

/-! ### The meanings -/

/-- The lease of a HOLDING reader has run out (R76). -/
def leaseLapses (r : ReaderId) (p : Part) : Part :=
  match (p.reader r).held with
  | none => p
  | some h =>
    queueRecordNow (.readerEvent .leaseLapsed r Damage.none h.number h.take 0) (setFlag .readerLapsed (release r true p))

/-- LEASE_EXPIRY (R76). -/
def leaseExpiry (r : ReaderId) (p : Part) : Part := onExpiry (p.reader r).lease (leaseLapses r) p

def execLeaseExpiry (r : ReaderId) (s : State) : Host.Outcome State Fault Refusal := whenRunning (leaseExpiry r) s

/-- The parked read `k` has waited out its park limit (R81). The event names no pair: the record's pair number and take are 0
(DESIGN CHOICE, notes/assumptions/38.md). -/
def parkLapses (k : ParkedRead) (p : Part) : Part :=
  let p1 := answerNoPair k.entry (removeParked k.entry p)
  let p2 := queueRecordNow (.readerEvent .parkExpired k.reader Damage.none 0 0 k.offset) p1
  if (parkedOf p2 k.reader).isEmpty ∧ (p2.reader k.reader).state = .parked then
    checkWindow (latchReaderIfPosted k.reader (p2.onReader k.reader fun c => { c with state := .idle }))
  else p2

/-- PARK_TIMER_EXPIRY (R81). -/
def parkTimerExpiry (e : Nat) (p : Part) : Part :=
  match p.readers.parkList.find? (fun k => k.entry == e) with
  | none => p
  | some k => onExpiry k.timer (parkLapses k) p

def execParkTimerExpiry (entry : Nat) (s : State) : Host.Outcome State Fault Refusal := whenRunning (parkTimerExpiry entry) s

end Sys2Proof.Machine
end

