-- ==== Sys2Proof/Machine/Frames.lean ====
section
/-! DEFINITION. The life of a frame in its slot where slot table, pair manager, reader unit and capture stream meet: readiness
(R30, R55, R56, R62), abandonment (R34 to R36, R57), the slot request (R26, R27), and the two timers of a slot (R32, R53). -/

namespace Sys2Proof.Machine

/-! ### Readiness -/

/-- The record that names slot `i` of eye `x` (R49). -/
def recordOf (p : Part) (x : Eye) (i : Nat) : Option PairRecord := p.pairs.queue.find? fun q => q.slotOf x == i

/-- The record as it stands once READY: damage flags, ready stamp (R55 steps 1 and 2). -/
def readyRecord (p : Part) (q : PairRecord) : PairRecord :=
  { q with
    state := .ready, damage := (p.slot .left q.leftSlot).damage.union (p.slot .right q.rightSlot).damage,
    readyStamp := some p.now }

/-- PAIR_READY and, with damage, PAIR_DAMAGED (R56). -/
def pairReadyEvents (q : PairRecord) (p : Part) : Part :=
  let p1 := raise .pairsFormed
    (queueRecord (q.readyStamp.getD 0) q.take
      (.pairReady q.damage q.number q.leftFrame q.rightFrame q.linkSkew q.leftSlot q.rightSlot) p)
  if q.damage.any then setFlag .pairDamaged p1 else p1

/-- The pair manager makes a record READY (R55; a stale one by R62). -/
def makeReady (q : PairRecord) (p : Part) : Part :=
  let q1 := readyRecord p q
  let p1 := p.onPairs fun m => { m with queue := updateFirst (fun r => r == q) (fun _ => q1) m.queue }
  let p2 := (p1.onSlot .left q.leftSlot SlotRecord.makePaired).onSlot .right q.rightSlot SlotRecord.makePaired
  let p3 := pairReadyEvents q1 p2
  evaluateRetirement (if q1.isCurrent then prdyOnReady (announceReady p3) else p3)

/-- The slot table has told the pair manager that a slot has become COMPLETE (R55). -/
def slotCompleted (x : Eye) (i : Nat) (p : Part) : Part :=
  match recordOf p x i with
  | none => p
  | some q =>
    if q.state = .forming ∧ (p.slot .left q.leftSlot).state = .complete ∧ (p.slot .right q.rightSlot).state = .complete then
      makeReady q p
    else p

/-- A slot completes its landing (R30). -/
def completeLanding (x : Eye) (i : Nat) (p : Part) : Part :=
  slotCompleted x i (p.onSlot x i fun r => { r with state := .complete, frameTimer := .stopped })

/-- The capture stream's "end reached" notice (R30). -/
def endReached (x : Eye) (i : Nat) (p : Part) : Part :=
  if (p.slot x i).state = .filling then
    let p1 := p.onSlot x i fun r => { r with endReached := true }
    if (p.slot x i).writes = 0 then completeLanding x i p1 else p1.onSlot x i fun r => { r with state := .landing }
  else p

/-- A write piece result reaches the slot table (R29, R30). -/
def slotWriteResult (x : Eye) (i : Nat) (res : MResult) (p : Part) : Part :=
  let before := p.slot x i
  let p1 := p.onSlot x i (SlotRecord.writeResult res)
  if before.state = .landing ∧ before.writes = 1 then completeLanding x i p1 else p1

/-- A read piece result reaches the slot table (R39). -/
def slotReadResult (x : Eye) (i : Nat) (res : MResult) (p : Part) : Part := p.onSlot x i (SlotRecord.readResult res)

/-- A late response reaches the slot table (R40). -/
def slotLateResponse (x : Eye) (i : Nat) (p : Part) : Part := p.onSlot x i SlotRecord.lateResponse

/-! ### Abandonment -/

/-- The reasons the slot table accepts in a state of the slot (R34). -/
def acceptsAbandon (reason : LostReason) (r : SlotRecord) : Bool :=
  match reason with
  | .truncated => r.state == .filling
  | .syncLost => r.state == .filling
  | .timedOut => r.state == .filling || r.state == .landing
  | .orphaned => r.state.live && r.partner.isNone
  | .partnerLost => r.state.live && r.partner.isSome
  | .starved => false

/-- The reasons of which the slot table tells the capture stream (R34 step 2). -/
def tellsStream : LostReason → Bool
  | .timedOut => true
  | .orphaned => true
  | .partnerLost => true
  | .truncated => false
  | .syncLost => false
  | .starved => false

/-- The capture stream is told that slot `i` is abandoned (R20). -/
def StreamCtx.abandoned (i : Nat) (c : StreamCtx) : StreamCtx :=
  if c.state = .open ∧ c.currentSlot = some i then { c with state := .spill, currentSlot := none } else c

/-- FRAME_LOST goes to the report unit: flag, counter, record (R36, R184). -/
def frameLost (x : Eye) (reason : LostReason) (frame : Word) (stamp : Stamp) (pair : Option Nat) (take : Option Word)
    (slot : Option Nat) (ended : Bool) (p : Part) : Part :=
  queueRecord stamp (take.getD p.take) (.frameLost reason frame pair x slot ended)
    (raise (.lost reason) (setFlag .frameLost p))

/-- An accepted abandonment, in the order of R34; `notice` is what the pair manager does when it is told (step 3). -/
def abandonBy (notice : Part → Part) (x : Eye) (i : Nat) (reason : LostReason) (p : Part) : Part :=
  let r := p.slot x i
  if acceptsAbandon reason r then
    let p1 := p.onSlot x i fun r => { r with state := .draining, frameTimer := .stopped }
    let p2 := if tellsStream reason && r.state == .filling then p1.onStream x (StreamCtx.abandoned i) else p1
    let p3 := notice p2
    let p4 := frameLost x reason r.frameNumber r.startStamp r.pairNumber r.pairTake (some i) r.endReached p3
    p4.onSlot x i SlotRecord.freeIfDrained
  else p

/-- The pair manager is told of an abandonment whose record is already gone (R35, R57). -/
def noticeWithoutRecord (x : Eye) (i : Nat) (p : Part) : Part := evaluateRetirement (p.setMatchTimer x i .stopped)

/-- The pair manager asks the slot table of the other eye to abandon the partner (R35). -/
def abandonPartner (x : Eye) (i : Nat) (p : Part) : Part := abandonBy (noticeWithoutRecord x i) x i .partnerLost p

/-- The pair manager removes a FORMING record from the queue, abandons the partner and tells the reader unit (R57). -/
def removeRecord (q : PairRecord) (x : Eye) (p : Part) : Part :=
  let p1 := p.onPairs fun m => { m with queue := m.queue.filter fun r => r != q }
  let p2 := abandonPartner x.other (q.slotOf x.other) p1
  if q.isCurrent then announceRemoval p2 else p2

/-- The pair manager is told that a slot has been abandoned (R57). -/
def abandonNotice (x : Eye) (i : Nat) (p : Part) : Part :=
  let p1 := p.setMatchTimer x i .stopped
  match recordOf p1 x i with
  | none => evaluateRetirement p1
  | some q => if q.state = .forming then evaluateRetirement (removeRecord q x p1) else evaluateRetirement p1

/-- An abandonment request; one that names a slot in a state not listed for its reason is ignored (R34, R35, R57). -/
def abandon (x : Eye) (i : Nat) (reason : LostReason) (p : Part) : Part := abandonBy (abandonNotice x i) x i reason p

/-! ### The slot request -/

/-- A slot is granted (R26): the record is set, the frame timer starts (R31), the pair manager links or waits (R50 to R52). -/
def grantSlot (x : Eye) (i : Nat) (frame : Word) (stamp : Stamp) (g : Geometry) (p : Part) : Part :=
  slotOpened x i
    (p.onSlot x i fun r =>
      { r with
        state := .filling, frameNumber := frame, startStamp := stamp, geom := g, partner := none, pairNumber := none,
        pairTake := none, damage := Damage.none, endReached := false,
        frameTimer := .running (p.rig.global.frameLimit * Config.ticksPerUs) })

/-- A slot request: granted with the lowest FREE slot, after a retirement run if need be, or refused STARVED (R26, R27). -/
def requestSlot (x : Eye) (frame : Word) (stamp : Stamp) (g : Geometry) (p : Part) : Part × Option Nat :=
  match lowestFree (p.slots.get x) with
  | some i => (grantSlot x i frame stamp g p, some i)
  | none =>
    let p1 := evaluateRetirement p
    match lowestFree (p1.slots.get x) with
    | some i => (grantSlot x i frame stamp g p1, some i)
    | none => (frameLost x .starved frame stamp none none none false p1, none)

/-! ### The meanings -/

/-- FRAME_TIMER_EXPIRY (R32). -/
def frameTimerExpiry (x : Eye) (i : Nat) (p : Part) : Part := onExpiry (p.slot x i).frameTimer (abandon x i .timedOut) p

def execFrameTimerExpiry (x : Eye) (slot : Nat) (s : State) : Host.Outcome State Fault Refusal :=
  whenRunning (frameTimerExpiry x slot) s

/-- The match timer of a slot has run out: it stops, and the slot is abandoned ORPHANED (R53). -/
def matchLapses (x : Eye) (i : Nat) (p : Part) : Part := abandon x i .orphaned (p.setMatchTimer x i .stopped)

/-- MATCH_TIMER_EXPIRY (R53). -/
def matchTimerExpiry (x : Eye) (i : Nat) (p : Part) : Part := onExpiry (p.matchTimer x i) (matchLapses x i) p

def execMatchTimerExpiry (x : Eye) (slot : Nat) (s : State) : Host.Outcome State Fault Refusal :=
  whenRunning (matchTimerExpiry x slot) s

/-- The 1 us pulse time has run out (R63). -/
def endPrdyPulse (p : Part) : Part := p.onPairs fun m => { m with prdy := false, prdyPulse := .stopped }

/-- PRDY_PULSE_END (R63). -/
def prdyPulseEnd (p : Part) : Part := onExpiry p.pairs.prdyPulse endPrdyPulse p

def execPrdyPulseEnd (s : State) : Host.Outcome State Fault Refusal := whenRunning prdyPulseEnd s

end Sys2Proof.Machine
end

