-- ==== Sys2Proof/Machine/Mapper.lean ====
section
/-! DEFINITION. The mapper (05): the place of one logical byte (R97 to R103) and the cutting of a write into pieces (R106). -/

namespace Sys2Proof.Machine

/-! ### One logical byte -/

/-- The corrected line of a logical line (R98). -/
def correctedLine (g : Geometry) (l : Nat) : Nat := if g.vflip then g.lines - 1 - l else l

/-- Corrected line `c` is a margin line (R99). -/
def isMargin (g : Geometry) (c : Nat) : Bool := decide (c < g.top ∨ g.lines - g.bottom ≤ c)

/-- The target line of a band line (R100). -/
def targetLine (g : Geometry) (c : Nat) : Int := c + g.shift

/-- The target line lies in the band (R100). -/
def inBand (g : Geometry) (t : Int) : Bool := decide ((g.top : Int) ≤ t ∧ t < (g.lines : Int) - g.bottom)

/-- The physical line of a logical line, or none where its bytes are clipped (R99 to R101). -/
def physicalLine (g : Geometry) (l : Nat) : Option Nat :=
  let c := correctedLine g l
  if isMargin g c then some c
  else if inBand g (targetLine g c) then some (targetLine g c).toNat
  else none

/-- The physical byte of byte `b` of a line (R102). -/
def physicalByte (g : Geometry) (b : Nat) : Nat :=
  if g.hflip then (g.width - 1 - b / g.pixelBytes) * g.pixelBytes + b % g.pixelBytes else b

/-- The physical address of the byte at a logical offset, or none where it is clipped (R97, R103). -/
def physicalAddress (g : Geometry) (base o : Nat) : Option Nat :=
  (physicalLine g (o / g.lineBytes)).map fun line => base + line * g.pitch + physicalByte g (o % g.lineBytes)

/-! ### Cutting a write (R106) -/

/-- The portion's pixels in reverse order, each pixel's bytes in their own order (R106). -/
def reversePixels (pb : Nat) (data : List Byte) : List Byte :=
  (List.range data.length).map fun i => data.getD ((data.length / pb - 1 - i / pb) * pb + i % pb) 0

/-- A cut request (R94), without its data. -/
structure CutRequest where
  eye : Eye
  slot : Nat
  base : Nat
  geom : Geometry
  entry : Nat
  source : BitVec 6
  offset : Nat
  length : Nat
deriving DecidableEq, Repr

/-- The line portions of a cut request: (logical offset, length) of each (R106). -/
def CutRequest.portions (c : CutRequest) : List (Nat × Nat) := cutRun c.geom.lineBytes c.length c.offset c.length

/-- The first byte, within its physical line, of the piece of a portion (R106). -/
def pieceStart (g : Geometry) (part : Nat × Nat) : Nat :=
  let b0 := part.1 % g.lineBytes
  if g.hflip then g.lineBytes - (b0 + part.2) else b0

/-- The data of the piece of a portion, in physical address order (R106). -/
def pieceData (c : CutRequest) (data : List Byte) (part : Nat × Nat) : List Byte :=
  let bytes := (data.drop (part.1 - c.offset)).take part.2
  if c.geom.hflip then reversePixels c.geom.pixelBytes bytes else bytes

/-- The piece of a portion, or none where the portion is clipped (R106). -/
def cutPortion (c : CutRequest) (data : List Byte) (part : Nat × Nat) : Option Piece :=
  (physicalLine c.geom (part.1 / c.geom.lineBytes)).map fun line =>
    { kind := .write, addr := c.base + line * c.geom.pitch + pieceStart c.geom part, length := part.2,
      data := pieceData c data part, source := c.source, entry := c.entry, role := .captureWrite c.eye c.slot }

/-- The pieces of a cut request, in logical offset order (R94, R106). -/
def cutPieces (c : CutRequest) (data : List Byte) : List Piece := c.portions.filterMap (cutPortion c data)

/-- The clipped bytes of a cut request (R101). -/
def clippedBytes (c : CutRequest) : Nat :=
  ((c.portions.filter fun part => (physicalLine c.geom (part.1 / c.geom.lineBytes)).isNone).map Prod.snd).sum

end Sys2Proof.Machine
end

