-- ==== Sys2Proof/Machine/Streams.lean ====
section
/-! DEFINITION. The capture streams (01): the judgement of capture writes (R12 to R19), reads of a capture window (R18), frame
starts (R7 to R11) and lock notices (R5, R6). -/

namespace Sys2Proof.Machine

/-! ### Capture writes -/

/-- A capture write as the request path hands it over (R148): entry, source tag, logical offset, length, data. -/
structure CaptureWrite where
  entry : Nat
  source : BitVec 6
  offset : Nat
  length : Nat
  data : List Byte
deriving DecidableEq, Repr

/-- A write is answered at once with DISCARDED and counted for the reason (R15, R17). -/
def discardWrite (reason : DiscardReason) (e : Nat) (p : Part) : Part :=
  raise (.discarded reason) (answerAtOnce e .discarded p)

/-- The end e of a write, and its in-frame end e′ (R13). -/
def CaptureWrite.stop (w : CaptureWrite) : Nat := w.offset + w.length
def CaptureWrite.frameStop (w : CaptureWrite) (g : Geometry) : Nat := min w.stop g.frameBytes

/-- The write fails the pixel alignment check (R16). -/
def CaptureWrite.misaligned (w : CaptureWrite) (g : Geometry) : Bool :=
  g.hflip && (w.offset % g.pixelBytes != 0 || w.stop % g.pixelBytes != 0)

/-- The damage of a write that starts at `o`, with the write cursor at `c` (R13). -/
def writeDamage (c o : Nat) : Damage :=
  if c < o then .ofGap else if o < c then .ofRewrite else Damage.none

/-- The cursor after an aligned write (R13, R15). -/
def CaptureWrite.cursorAfter (w : CaptureWrite) (g : Geometry) (c : Nat) : Nat :=
  if w.offset < c then max c (w.frameStop g) else w.frameStop g

/-- The slot table counts the pieces handed on for a slot (R14, R28). -/
def countWrites (x : Eye) (i n : Nat) (p : Part) : Part := p.onSlot x i fun r => { r with writes := r.writes + n }

/-- The cut request of the in-frame part (R14, R94). -/
def cutOf (p : Part) (x : Eye) (i : Nat) (w : CaptureWrite) : CutRequest :=
  let g := (p.stream x).geom
  { eye := x, slot := i, base := p.slotBase x i, geom := g, entry := w.entry, source := w.source, offset := w.offset,
    length := w.frameStop g - w.offset }

/-- The code the stream adds: DISCARDED for overrun bytes (R15, R148). -/
def CaptureWrite.ownCode (w : CaptureWrite) (g : Geometry) : Code := if g.frameBytes < w.stop then .discarded else .done

/-- The write has overrun bytes: it is counted once (R15). -/
def countOverrun (g : Geometry) (w : CaptureWrite) (p : Part) : Part :=
  if g.frameBytes < w.stop then raise (.discarded .overrun) p else p

/-- The in-frame part of an accepted write is forwarded (R14, R15, R101). -/
def forwardWrite (x : Eye) (i : Nat) (w : CaptureWrite) (p : Part) : Part :=
  let g := (p.stream x).geom
  let c := cutOf p x i w
  let pieces := cutPieces c w.data
  let p1 := countOverrun g w (raiseBy .clippedBytes (clippedBytes c) p)
  if pieces.isEmpty then answerAtOnce w.entry (w.ownCode g) p1
  else handOn w.entry (w.ownCode g) [] pieces (countWrites x i pieces.length p1)

/-- The write cursor has been set; at frame bytes the frame has reached its end (R19). -/
def settleCursor (x : Eye) (i cursor : Nat) (p : Part) : Part :=
  let p1 := p.onStream x fun c => { c with cursor := cursor }
  if cursor = (p.stream x).geom.frameBytes then
    (endReached x i p1).onStream x fun c => { c with state := .between, currentSlot := none, completed := true }
  else p1

/-- A misaligned write (R16). -/
def misalignedWrite (x : Eye) (i : Nat) (w : CaptureWrite) (p : Part) : Part :=
  let c := p.stream x
  let p1 := p.onSlot x i (SlotRecord.addDamage .ofMisaligned)
  settleCursor x i (max c.cursor (w.frameStop c.geom)) (raise .rejected (answerAtOnce w.entry .rejected p1))

/-- A write whose first byte lies at or beyond frame bytes (R15). -/
def beyondWrite (x : Eye) (i : Nat) (w : CaptureWrite) (p : Part) : Part :=
  let p1 := p.onSlot x i (SlotRecord.addDamage .ofGap)
  settleCursor x i (p.stream x).geom.frameBytes (discardWrite .overrun w.entry p1)

/-- A write that starts inside the frame (R13). -/
def insideWrite (x : Eye) (i : Nat) (w : CaptureWrite) (p : Part) : Part :=
  let c := p.stream x
  let p1 := p.onSlot x i (SlotRecord.addDamage (writeDamage c.cursor w.offset))
  settleCursor x i (w.cursorAfter c.geom c.cursor) (forwardWrite x i w p1)

/-- The judgement of a write in OPEN, the current slot being `i` (R13, R15, R16). -/
def judgeOpen (x : Eye) (i : Nat) (w : CaptureWrite) (p : Part) : Part :=
  let g := (p.stream x).geom
  if w.misaligned g then misalignedWrite x i w p
  else if g.frameBytes ≤ w.offset then beyondWrite x i w p
  else insideWrite x i w p

/-- The stream judges a capture write (R12, R13, R17). In OPEN there is always a current slot (R1). -/
def streamWrite (x : Eye) (w : CaptureWrite) (p : Part) : Part :=
  match (p.stream x).state, (p.stream x).currentSlot with
  | .open, some i => judgeOpen x i w p
  | .open, none => discardWrite .unframed w.entry p
  | .between, _ => discardWrite (if (p.stream x).completed then .overrun else .unframed) w.entry p
  | .spill, _ => discardWrite .spill w.entry p
  | .waitingSync, _ => discardWrite .unframed w.entry p
  | .off, _ => discardWrite .unframed w.entry p

/-- A READ that falls into a capture window (R18). -/
def streamRead (e : Nat) (p : Part) : Part := raise .rejected (answerAtOnce e .rejected p)

/-! ### Frame starts -/

/-- The open frame of a stream, if there is one. -/
def openSlot (p : Part) (x : Eye) : Option Nat :=
  match (p.stream x).state with
  | .open => (p.stream x).currentSlot
  | .off => none
  | .waitingSync => none
  | .between => none
  | .spill => none

/-- An open frame is abandoned and the current slot becomes none (R6, R8). -/
def dropOpenFrame (x : Eye) (reason : LostReason) (p : Part) : Part :=
  match openSlot p x with
  | some i => (abandon x i reason p).onStream x fun c => { c with currentSlot := none }
  | none => p

/-- The numbering of the frame and the copy of the active geometry (R9). -/
def numberFrame (x : Eye) (p : Part) : Part :=
  p.onStream x fun c =>
    { c with frameNumber := c.frameNumber + 1, completed := false, geom := (p.eyeSettings x).geom }

/-- The outcome of the slot request (R9, R10). -/
def placeFrame (x : Eye) (slot : Option Nat) (p : Part) : Part :=
  match slot with
  | some i => p.onStream x fun c => { c with state := .open, currentSlot := some i, cursor := 0 }
  | none => p.onStream x fun c => { c with state := .spill, currentSlot := none }

/-- The frame is numbered and asks for a slot (R9, R10). -/
def openFrame (x : Eye) (stamp : Stamp) (p : Part) : Part :=
  let p1 := numberFrame x p
  let (p2, slot) := requestSlot x (p1.stream x).frameNumber stamp (p1.stream x).geom p1
  placeFrame x slot p2

/-- The frame start ends in OFF (R7). -/
def endInOff (x : Eye) (p : Part) : Part :=
  p.onStream x fun c => { c with state := .off, currentSlot := none, completed := false }

/-- The EYE latch of a frame start; the second component says that the eye is now disabled (R7). -/
def frameStartLatch (x : Eye) (p : Part) : Part × Bool :=
  if p.post (.eye x) = .posted then
    let (p1, passed) := latchEye x p
    (p1, passed && !(p1.eyeSettings x).enable)
  else (p, false)

/-- A frame start in BETWEEN, OPEN or SPILL (R7 to R10). -/
def takeFrameStart (x : Eye) (stamp : Stamp) (p : Part) : Part :=
  let (p1, disabled) := frameStartLatch x p
  let p2 := dropOpenFrame x .truncated p1
  if disabled then endInOff x p2 else openFrame x stamp p2

/-! ### The meanings -/

/-- The next notice on its way to a capture stream is dropped from the way. -/
def dropStreamNotice (x : Eye) (p : Part) : Part :=
  p.onSync fun u => { u with streamNotices := u.streamNotices.set x (u.streamNotices.get x).tail }

/-- The stream takes no frames in this state (R3, R11). -/
def ignoresFrames : StreamState → Bool
  | .off => true
  | .waitingSync => true
  | .between => false
  | .open => false
  | .spill => false

/-- FRAME_START (R7, R11). -/
def frameStart (x : Eye) (p : Part) : Part :=
  match p.sync.streamNotices.get x with
  | .frameStart stamp :: _ =>
    if ignoresFrames (p.stream x).state then dropStreamNotice x p else takeFrameStart x stamp (dropStreamNotice x p)
  | _ => p

def execFrameStart (x : Eye) (s : State) : Host.Outcome State Fault Refusal := whenRunning (frameStart x) s

/-- The stream is told of lock (R5). -/
def StreamCtx.lockGained (c : StreamCtx) : StreamCtx :=
  if c.state = .waitingSync then { c with state := .between, completed := false } else c

/-- LOCK_GAINED (R5). -/
def lockGained (x : Eye) (p : Part) : Part :=
  match p.sync.streamNotices.get x with
  | .lockGained :: _ => (dropStreamNotice x p).onStream x StreamCtx.lockGained
  | _ => p

def execLockGained (x : Eye) (s : State) : Host.Outcome State Fault Refusal := whenRunning (lockGained x) s

/-- The stream enters WAITING_SYNC, and a posted EYE section latches (R6). -/
def enterWaitingSync (x : Eye) (p : Part) : Part :=
  let p1 := p.onStream x fun c => { c with state := .waitingSync, completed := false }
  if p1.post (.eye x) = .posted then latchEyeIdle x p1 else p1

/-- The departure of the eye from LOCKED reaches its stream (R6). -/
def streamDeparture (x : Eye) (p : Part) : Part :=
  if ignoresFrames (p.stream x).state then p else enterWaitingSync x (dropOpenFrame x .syncLost p)

/-- LOCK_LOST (R6). -/
def lockLost (x : Eye) (p : Part) : Part :=
  match p.sync.streamNotices.get x with
  | .lockLost :: _ => streamDeparture x (dropStreamNotice x p)
  | _ => p

def execLockLost (x : Eye) (s : State) : Host.Outcome State Fault Refusal := whenRunning (lockLost x) s

end Sys2Proof.Machine
end

