-- ==== Sys2Proof/Machine/RequestPath.lean ====
section
/-! DEFINITION. The request path (08): intake (R142), classes (R146), the checks of handling (R144, R145, R150), owners (R148),
pass-through (R149), the return of responses (R155), and the meanings of its commands. -/

namespace Sys2Proof.Machine

/-! ### Classes (R146) -/

/-- A range of the table of R146 with its class. -/
structure ClassRange where
  cls : ReqClass
  region : Region
deriving DecidableEq, Repr

/-- The ranges in force. -/
def classRanges (p : Part) : List ClassRange :=
  [ ⟨.rig, rigRegion p⟩, ⟨.capture .left, captureRegion (p.eyeSettings .left)⟩,
    ⟨.capture .right, captureRegion (p.eyeSettings .right)⟩, ⟨.pair, windowRegion p.rig.global⟩,
    ⟨.pool, poolRegion (p.eyeSettings .left)⟩, ⟨.pool, poolRegion (p.eyeSettings .right)⟩ ]

/-- All bytes of `b` lie in `a`. -/
def Region.holds (a b : Region) : Bool := decide (a.base ≤ b.base ∧ b.base + b.size ≤ a.base + a.size)

/-- The bytes of a request. -/
def Request.region (q : Request) : Region := { base := q.addr.toNat, size := q.length }

/-- The class of a request with the base of its range (0 for OTHER), or none where it straddles (R146). -/
def classify (p : Part) (q : Request) : Option (ReqClass × Nat) :=
  match (classRanges p).find? fun c => c.region.holds q.region with
  | some c => some (c.cls, c.region.base)
  | none => if (classRanges p).any fun c => c.region.overlaps q.region then none else some (.other, 0)

/-! ### The checks of handling (R144) -/

/-- Check 1: a reserved source tag, an undefined kind byte, or a set bit outside the header's fields. -/
def Request.badHeader (q : Request) : Bool := q.source.toNat == Config.ownSource || !q.kindDefined || q.stray

/-- Check 2: a used entry holds the same source tag and transaction tag (R145). -/
def isDuplicate (p : Part) (q : Request) : Bool :=
  p.req.table.any fun v => match v with | some t => t.source == q.source && t.ttag == q.ttag | none => false

/-- Check 3: the last byte lies beyond the address space. -/
def Request.beyondSpace (q : Request) : Bool := decide (Config.addressSpace < q.addr.toNat + q.length)

/-- Checks 4 and 5, on the class: LOADING, a straddle, POOL, a WRITE of class PAIR (R147, R150). -/
def classRefused (state : PartState) (kind : Kind) : Option (ReqClass × Nat) → Bool
  | some (.rig, _) => false
  | some (.capture _, _) => state == .loading
  | some (.pair, _) => state == .loading || kind == .write
  | some (.other, _) => state == .loading
  | some (.pool, _) => true
  | some (.refused, _) => true
  | none => true

/-- The request fails a check of handling (R144). -/
def isRefused (p : Part) (q : Request) : Bool :=
  q.badHeader || isDuplicate p q || q.beyondSpace || classRefused p.rig.partState q.kind (classify p q)

/-! ### Handling -/

/-- The lowest unused entry (R143; notes/assumptions/10.md). -/
def unusedEntry (p : Part) : Option Nat := firstIndex Option.isNone p.req.table

/-- The entry as filled from a request (R144). It holds no data yet, the empty list, and holds none while a read is parked (R143;
DESIGN CHOICE, notes/assumptions/10.md). -/
def entryOf (q : Request) (cls : ReqClass) (offset : Nat) : Entry :=
  { state := .inProgress, kind := q.kind, source := q.source, ttag := q.ttag, addr := q.addr, length := q.length, cls := cls,
    offset := offset, outstanding := 0, code := .done, data := [] }

/-- The request passes through as one piece (R149). -/
def passOn (e : Nat) (q : Request) (p : Part) : Part :=
  handOn e .done (if q.kind = .read then List.replicate q.length 0 else [])
    [{ kind := q.kind, addr := q.addr.toNat, length := q.length, data := q.data, source := q.source, entry := e,
       role := .passThrough }] p

/-- The request goes to the owner of its class (R148). POOL and refused do not come here. -/
def toOwner (e : Nat) (q : Request) (cls : ReqClass) (offset : Nat) (p : Part) : Part :=
  match cls, q.kind with
  | .capture x, .write =>
    streamWrite x { entry := e, source := q.source, offset := offset, length := q.length, data := q.data } p
  | .capture _, .read => streamRead e p
  | .pair, _ => readerUnitRead e p
  | .rig, .write => passOn e q (rigUnitWrite offset q.data p)
  | .rig, .read => passOn e q p
  | .other, _ => passOn e q p
  | .pool, _ => p
  | .refused, _ => p

/-- The logical offset an entry holds: for the classes CAPTURE and PAIR the offset into the window (R143, R146), for every other
class 0 (DESIGN CHOICE, notes/assumptions/40.md; 39.md for a refused request). -/
def entryOffset (cls : ReqClass) (offset : Nat) : Nat :=
  match cls with
  | .capture _ => offset
  | .pair => offset
  | .rig => 0
  | .pool => 0
  | .other => 0
  | .refused => 0

/-- The class that the entry of a refused request holds: POOL for a POOL request, refused for every other, whatever its class
(R143; DESIGN CHOICE, notes/assumptions/39.md). -/
def refusedClass (p : Part) (q : Request) : ReqClass :=
  match classify p q with
  | some (.pool, _) => .pool
  | _ => .refused

/-- A refused request is answered at once with REJECTED and counted (R144). -/
def refuseRequest (e : Nat) (q : Request) (p : Part) : Part :=
  raise .rejected (answerAtOnce e .rejected (p.setEntry e (some (entryOf q (refusedClass p q) 0))))

/-- A request takes entry `e` and is refused or handed to its owner (R144). -/
def handleRequest (e : Nat) (q : Request) (p : Part) : Part :=
  match isRefused p q, classify p q with
  | false, some (cls, base) =>
    let o := q.addr.toNat - base
    toOwner e q cls o (p.setEntry e (some (entryOf q cls (entryOffset cls o))))
  | false, none => refuseRequest e q p
  | true, _ => refuseRequest e q p

/-- The head of the intake queue leaves it. -/
def popIntake (p : Part) : Part := p.onReq fun u => { u with intake := u.intake.tail }

/-- The request path takes the head of the intake queue, if the row describes it and an unused entry exists (R143, R144;
notes/assumptions/8.md). -/
def handleHead (row : Part → Request → Bool) (p : Part) : Part :=
  match p.req.intake, unusedEntry p with
  | q :: _, some e => if row p q then handleRequest e q (popIntake p) else p
  | _, _ => p

/-! ### The rows of handling (notes/assumptions/8.md) -/

/-- The head is a request of this kind in a capture window. -/
def isCapture (kind : Kind) (p : Part) (q : Request) : Bool :=
  q.kind == kind && match classify p q with | some (.capture _, _) => true | _ => false

/-- The head is a pair-window read. -/
def isPairRead (p : Part) (q : Request) : Bool :=
  q.kind == .read && match classify p q with | some (.pair, _) => true | _ => false

/-- The head is a RIG write that satisfies a test of its offset and length. -/
def isRigWrite (test : Nat → Nat → Bool) (p : Part) (q : Request) : Bool :=
  q.kind == .write &&
    match classify p q with | some (.rig, base) => test (q.addr.toNat - base) q.length | _ => false

/-- The write covers a byte of some section's check word. -/
def touchesSomeCheck (o n : Nat) : Bool := Section.all.any (touchesCheck o n)

/-- The head is of class OTHER, or a RIG read. -/
def isPassThrough (p : Part) (q : Request) : Bool :=
  match classify p q with
  | some (.other, _) => true
  | some (.rig, _) => q.kind == .read
  | _ => false

/-- CAPTURE_WRITE (R13). -/
def execCaptureWrite (s : State) : Host.Outcome State Fault Refusal := whenRunning (handleHead (isCapture .write)) s

/-- CAPTURE_READ (R18). -/
def execCaptureRead (s : State) : Host.Outcome State Fault Refusal := whenRunning (handleHead (isCapture .read)) s

/-- PAIR_READ (R70). -/
def execPairRead (s : State) : Host.Outcome State Fault Refusal := whenRunning (handleHead isPairRead) s

/-- RIG_WRITE (R173). -/
def execRigWrite (s : State) : Host.Outcome State Fault Refusal := whenRunning (handleHead (isRigWrite fun _ _ => true)) s

/-- CHECK_WORD_WRITE (R173). -/
def execCheckWordWrite (s : State) : Host.Outcome State Fault Refusal := whenRunning (handleHead (isRigWrite touchesSomeCheck)) s

/-- EVENT_CLEAR_WORD (R180). -/
def execEventClearWord (s : State) : Host.Outcome State Fault Refusal :=
  whenRunning (handleHead (isRigWrite touchesEventClear)) s

/-- PASS_THROUGH (R149). -/
def execPassThrough (s : State) : Host.Outcome State Fault Refusal := whenRunning (handleHead isPassThrough) s

/-- REFUSED_REQUEST (R144). -/
def execRefusedRequest (s : State) : Host.Outcome State Fault Refusal := whenRunning (handleHead isRefused) s

/-! ### Acceptance of requests and responses -/

/-- The intake queue takes a request while it has room (R142). -/
def acceptRequest (q : Request) (p : Part) : Part :=
  if p.req.intake.length < Config.intakeDepth then p.onReq fun u => { u with intake := u.intake ++ [q] } else p

/-- REQUEST_ACCEPT (R142). -/
def execRequestAccept (header : BitVec 128) (data : List Byte) (s : State) : Host.Outcome State Fault Refusal :=
  whenRunning (acceptRequest (parseRequest header data)) s

/-- The offered response is accepted; its entry becomes unused (R155). -/
def acceptResponse (p : Part) : Part :=
  match p.req.returning with
  | e :: rest => (p.setEntry e none).onReq fun u => { u with returning := rest }
  | [] => p

/-- RESPONSE_ACCEPT (R155). -/
def execResponseAccept (s : State) : Host.Outcome State Fault Refusal := whenRunning acceptResponse s

/-- The response offered to the processor side: that of the entry that became RETURNING first (R155). -/
def Part.offeredResponse (p : Part) : Option Entry := p.req.returning.head?.bind p.entry

end Sys2Proof.Machine
end

