-- ==== Sys2Proof/Machine/ResetLines.lean ====
section
/-! DEFINITION. RESET_N and the reset quiet time (R142, R156, R170, R172), and the passing of one tick without a command. -/

namespace Sys2Proof.Machine

/-- RESET_N_ASSERT: every block takes its reset values; the strap is sampled (R22, R45, R47, R92, R122, R123, R139, R156, R170,
R172, R186). -/
def execResetNAssert (rigsel : BitVec 3) (s : State) : Host.Outcome State Fault Refusal :=
  .next { s with hw := Part.reset rigsel }

/-- RESET_N is released: the quiet time starts and the first load read is offered (R109, R142, R170, R177). -/
def releaseReset (p : Part) : Part :=
  offerLoadRead 0 ({ p with resetAsserted := false }.onTxn fun u => { u with quiet := .running Config.quietTicks })

/-- RESET_N_RELEASE (R142). With RESET_N not asserted nothing happens (notes/assumptions/1.md). -/
def execResetNRelease (s : State) : Host.Outcome State Fault Refusal :=
  .next { s with hw := if s.hw.resetAsserted then releaseReset s.hw else s.hw }

/-- The reset quiet time is over (R170). -/
def endQuietTime (p : Part) : Part := p.onTxn fun u => { u with quiet := .stopped }

/-- RESET_QUIET_TIME_END (R170). -/
def resetQuietTimeEnd (p : Part) : Part := onExpiry p.txn.quiet endQuietTime p

def execResetQuietTimeEnd (s : State) : Host.Outcome State Fault Refusal := whenRunning resetQuietTimeEnd s

/-- No command waits: one tick passes (R109; DESIGN CHOICE, notes/assumptions/2.md). -/
def idleTick (s : State) : State := { s with hw := passTime 1 s.hw }

end Sys2Proof.Machine
end

