-- ==== Sys2Proof/Machine/Sync.lean ====
section
/-! DEFINITION. The sync unit (06): the judgement of a pulse (R112 to R116), the sync loss timer (R117), the departure from LOCKED
(R118), and the notices to the capture streams and the skew unit (R119, R120). -/

namespace Sys2Proof.Machine

/-- The sync loss time in force, in ticks (R117, R121). -/
def syncLossTicks (p : Part) : Nat := p.rig.sync.syncLossMs * Config.ticksPerMs

/-- Two periods differ by at most the period tolerance in force (R113, R115). -/
def periodMatches (p : Part) (a b : Int) : Bool := decide ((a - b).natAbs ≤ p.rig.sync.periodTolerance)

/-- The sync loss timer of an eye starts or restarts (R117). -/
def restartLossTimer (x : Eye) (p : Part) : Part :=
  p.onAcq x fun c => { c with lossTimer := .running (syncLossTicks p) }

/-- A judged pulse is handed to the skew unit with the reference period after the judgement (R120). -/
def handOver (x : Eye) (stamp : Stamp) (outcome : PulseOutcome) (p : Part) : Part :=
  p.tellSkew x (.pulse stamp outcome (p.acq x).reference)

/-- An eye has left LOCKED (R118). -/
def departLocked (x : Eye) (cause : LossCause) (lastAccepted : Option Stamp) (reference : Option Int) (lossStamp : Stamp)
    (p : Part) : Part :=
  queueRecord lossStamp p.take (.syncLost x cause lastAccepted reference)
    (setFlag (.syncLost x) ((p.tellStream x .lockLost).tellSkew x .departure))

/-- A pulse begins acquisition (R112, R116). -/
def beginAcquiring (x : Eye) (stamp : Stamp) (p : Part) : Part :=
  p.onAcq x fun c => { c with state := .acquiring, lastPulse := some stamp, candidate := none }

/-- A pulse judged in ABSENT (R112). -/
def pulseInAbsent (x : Eye) (stamp : Stamp) (p : Part) : Part :=
  handOver x stamp .acquisition (restartLossTimer x (beginAcquiring x stamp p))

/-- The eye locks at a pulse of period `period` (R114). -/
def lockEye (x : Eye) (stamp : Stamp) (period : Int) (p : Part) : Part :=
  let p1 := p.onAcq x fun c =>
    { c with
      state := .locked, reference := some period, lastAccepted := some stamp, faultRun := 0, lastPulse := none,
      candidate := none }
  (p1.tellStream x .lockGained).tellSkew x .lock

/-- A pulse judged in ACQUIRING, the last pulse having stamp `last` (R113). -/
def pulseInAcquiring (x : Eye) (last stamp : Stamp) (p : Part) : Part :=
  let period := stampDiff stamp last
  let p1 := restartLossTimer x p
  let locks := match (p.acq x).candidate with | some q => periodMatches p period q | none => false
  handOver x stamp .acquisition
    (if locks then lockEye x stamp period p1
     else p1.onAcq x fun c => { c with lastPulse := some stamp, candidate := some period })

/-- A pulse keeps the reference period (R115). -/
def acceptPulse (x : Eye) (stamp : Stamp) (period : Int) (p : Part) : Part :=
  let p1 := p.onAcq x fun c => { c with reference := some period, lastAccepted := some stamp, faultRun := 0 }
  handOver x stamp .accepted ((restartLossTimer x p1).tellStream x (.frameStart stamp))

/-- The fourth period fault in a row (R116). -/
def loseRhythm (x : Eye) (stamp : Stamp) (p : Part) : Part :=
  let c := p.acq x
  departLocked x .periodFaults c.lastAccepted c.reference stamp
    ((beginAcquiring x stamp p).onAcq x fun c => { c with reference := none, lastAccepted := none, faultRun := 0 })

/-- A period fault (R116). -/
def periodFault (x : Eye) (stamp : Stamp) (p : Part) : Part :=
  let p1 := raise (.periodFaults x) (restartLossTimer x p)
  handOver x stamp .periodFault
    (if (p.acq x).faultRun < 3 then p1.onAcq x fun c => { c with faultRun := c.faultRun + 1 } else loseRhythm x stamp p1)

/-- A pulse judged in LOCKED, measured from the last accepted pulse (R115, R116). -/
def pulseInLocked (x : Eye) (accepted : Stamp) (reference : Int) (stamp : Stamp) (p : Part) : Part :=
  let period := stampDiff stamp accepted
  if periodMatches p period reference then acceptPulse x stamp period p else periodFault x stamp p

/-- The judgement of a pulse. In ACQUIRING there is a last pulse, in LOCKED a last accepted pulse and a reference period (R111). -/
def judgePulse (x : Eye) (stamp : Stamp) (p : Part) : Part :=
  let c := p.acq x
  match c.state with
  | .absent => pulseInAbsent x stamp p
  | .acquiring =>
    match c.lastPulse with
    | some last => pulseInAcquiring x last stamp p
    | none => pulseInAbsent x stamp p
  | .locked =>
    match c.lastAccepted, c.reference with
    | some accepted, some reference => pulseInLocked x accepted reference stamp p
    | _, _ => pulseInAbsent x stamp p

/-- The ticks from now to a timebase reading, modulo 2^48 (R109). -/
def ticksUntil (p : Part) (time : Stamp) : Nat := (time - p.now).toNat

/-- The eye's line has already given its pulse of the present tick (R110; notes/assumptions/6.md). -/
def pulseTaken (x : Eye) (time : Stamp) (p : Part) : Bool := decide (ticksUntil p time = 0) && p.sync.pulsed.get x

/-- FSYNC_PULSE (R110): time passes to the pulse, and the pulse is stamped and judged. -/
def fsyncPulse (x : Eye) (time : Stamp) (p : Part) : Part :=
  if pulseTaken x time p then p
  else
    judgePulse x time
      ((passTime (ticksUntil p time) p).onSync fun u => { u with pulsed := u.pulsed.set x true })

def execFsyncPulse (x : Eye) (time : Stamp) (s : State) : Host.Outcome State Fault Refusal := whenRunning (fsyncPulse x time) s

/-- The sync loss timer of an eye has run out (R117). -/
def loseSync (x : Eye) (p : Part) : Part :=
  let c := p.acq x
  let p1 := p.onAcq x fun _ => AcqCtx.reset
  if c.state = .locked then departLocked x .silence c.lastAccepted c.reference p.now p1 else p1

/-- SYNC_LOSS_TIMER_EXPIRY (R117). -/
def syncLossTimerExpiry (x : Eye) (p : Part) : Part := onExpiry (p.acq x).lossTimer (loseSync x) p

def execSyncLossTimerExpiry (x : Eye) (s : State) : Host.Outcome State Fault Refusal := whenRunning (syncLossTimerExpiry x) s

end Sys2Proof.Machine
end

