-- ==== Sys2Proof/Machine/Reports.lean ====
section
/-! DEFINITION. The report unit's own requests (10): status writes (R183), record writes (R185), their results. -/

namespace Sys2Proof.Machine

/-- The offer is free: the part is RUNNING and no request is outstanding (R185). -/
def offerFree (p : Part) : Bool := p.rig.partState == .running && p.report.outstanding.isNone

/-- A record waits (R185). -/
def recordWaits (p : Part) : Bool := !p.report.queue.isEmpty

/-- The report unit chooses the status write (R185). -/
def choosesStatus (p : Part) : Bool :=
  offerFree p && p.report.due && (!recordWaits p || p.report.lastOffered == .record)

/-- The report unit chooses the record write (R185). -/
def choosesRecord (p : Part) : Bool :=
  offerFree p && recordWaits p && (!p.report.due || p.report.lastOffered == .status)

/-- The status block is formed and offered at the report region base; both marks are cleared (R183). -/
def offerStatus (p : Part) : Part :=
  (offerInjected .statusWrite .write p.rig.global.reportBase Config.statusBytes (statusBlock p) p).onReport fun u =>
    { u with changed := false, due := false, outstanding := some .status, lastOffered := .status }

/-- The place of the next record in the ring (R185). -/
def recordPlace (p : Part) : Nat :=
  p.rig.global.reportBase + Config.statusBytes + p.report.ringIndex * Config.recordBytes

/-- The ring write index after an offer (R185). -/
def nextRingIndex (p : Part) : Nat :=
  if p.report.ringIndex + 1 < p.rig.global.ringSize then p.report.ringIndex + 1 else 0

/-- The record at the head of the queue is offered (R185). -/
def offerRecord (r : ReportRecord) (p : Part) : Part :=
  (offerInjected .recordWrite .write (recordPlace p) Config.recordBytes r.bytes p).onReport fun u =>
    { u with ringIndex := nextRingIndex p, outstanding := some .record, lastOffered := .record }

/-- STATUS_WRITE_OFFER (R183, R185). -/
def statusWriteOffer (p : Part) : Part := if choosesStatus p then offerStatus p else p

def execStatusWriteOffer (s : State) : Host.Outcome State Fault Refusal := whenRunning statusWriteOffer s

/-- RECORD_WRITE_OFFER (R185). -/
def recordWriteOffer (p : Part) : Part :=
  match p.report.queue with
  | r :: _ => if choosesRecord p then offerRecord r p else p
  | [] => p

def execRecordWriteOffer (s : State) : Host.Outcome State Fault Refusal := whenRunning recordWriteOffer s

/-- The status interval has run out: it restarts, and a changed status becomes due (R183). -/
def restartInterval (p : Part) : Part :=
  p.onReport fun u =>
    { u with interval := .running (p.rig.global.statusInterval * Config.ticksPerMs), due := u.due || u.changed }

/-- STATUS_INTERVAL_EXPIRY (R183). -/
def statusIntervalExpiry (p : Part) : Part := onExpiry p.report.interval restartInterval p

def execStatusIntervalExpiry (s : State) : Host.Outcome State Fault Refusal := whenRunning statusIntervalExpiry s

/-- The result of a status write: a change that came while it was in flight makes the next one due (R183;
notes/assumptions/17.md). -/
def statusResult (p : Part) : Part := p.onReport fun u => { u with outstanding := none, due := u.due || u.changed }

/-- The result of a record write: the record leaves the queue and is counted (R185). -/
def recordResult (res : MResult) (p : Part) : Part :=
  raise (if res.failed then .recordsLost else .recordsWritten)
    (p.onReport fun u => { u with outstanding := none, queue := u.queue.tail })

end Sys2Proof.Machine
end

