-- ==== Sys2Proof/Machine/Transactions.lean ====
section
/-! DEFINITION. The transaction unit (09): the issue arbiter (R161, R162), responses (R163, R168, R169), M-timeouts (R166), the
delivery of results (R152, R164) and the MEMORY_FAULT event (R165). -/

namespace Sys2Proof.Machine

/-! ### The issue arbiter -/

/-- What the arbiter chooses at a boundary (R161). -/
def boundaryChoice (u : TxnUnit) : Option Choice :=
  match u.injected, u.issue with
  | [], [] => none
  | [], _ :: _ => some .group
  | _ :: _, [] => some .injected
  | i :: _, _ :: _ => if Config.waitLimit ≤ i.wait then some .injected else some .group

/-- What is to be issued next: the rest of a choice already made, or a new one (R161; notes/assumptions/12.md). -/
def nextChoice (u : TxnUnit) : Option Choice :=
  match u.choice with
  | some c => some c
  | none => boundaryChoice u

/-- The lowest-numbered FREE M-tag (R162). -/
def freeTag (u : TxnUnit) : Option Nat := firstIndex Option.isNone u.tags

/-- A request waits for a tag: it is next to be issued, the output is empty, and no tag is FREE (R162). -/
def waitsForTag (u : TxnUnit) : Bool := u.output.isNone && (nextChoice u).isSome && (freeTag u).isNone

/-- Tag `t` becomes FREE; a request that waits for a tag is to take it (R162; notes/assumptions/36.md). -/
def TxnUnit.tagFreed (t : Nat) (u : TxnUnit) : TxnUnit :=
  if waitsForTag u then { u with tags := u.tags.set t none, choice := nextChoice u, claim := some t }
  else { u with tags := u.tags.set t none }

/-- Tag `t` is FREE. -/
def TxnUnit.isFree (u : TxnUnit) (t : Nat) : Bool := u.tags[t]? == some none

/-- The tag that the next request takes: the one it waited for, or the lowest-numbered FREE tag (R162). -/
def tagToTake (u : TxnUnit) : Option Nat :=
  match u.claim with
  | some t => if u.isFree t then some t else freeTag u
  | none => freeTag u

/-- A request takes tag `t` and stands on the M-port output (R162). -/
def putOnOutput (t : Nat) (owner : Owner) (kind : Kind) (source : BitVec 6) (addr length : Nat) (data : List Byte)
    (u : TxnUnit) : TxnUnit :=
  { u with
    claim := none
    tags := u.tags.set t (some
      { state := .offered, kind := kind, owner := owner, addr := addr, length := length, source := source, timer := .stopped })
    output := some
      { tag := t, kind := kind, source := source, addr := BitVec.ofNat 40 addr, length := length, data := data } }

/-- A piece takes tag `t` (R162). -/
def offerPiece (t : Nat) (k : Piece) (u : TxnUnit) : TxnUnit :=
  putOnOutput t (.entry k.entry k.role) k.kind k.source k.addr k.length k.data u

/-- The last piece of a group has been issued: every waiting injected request counts it (R160; notes/assumptions/11.md). -/
def countWaits (u : TxnUnit) : TxnUnit := { u with injected := u.injected.map fun i => { i with wait := i.wait + 1 } }

/-- The next piece of the group at the head of the issue list is issued under tag `t` (R159, R161). -/
def issuePiece (t : Nat) (u : TxnUnit) : TxnUnit :=
  match u.issue with
  | [k] :: groups => countWaits { offerPiece t k u with issue := groups, choice := none }
  | (k :: ks) :: groups => { offerPiece t k u with issue := ks :: groups, choice := some .group }
  | [] :: groups => { u with issue := groups, choice := none }
  | [] => { u with choice := none }

/-- The oldest injected request is issued under tag `t` (R161). -/
def issueInjected (t : Nat) (u : TxnUnit) : TxnUnit :=
  match u.injected with
  | i :: rest =>
    { putOnOutput t (.injected i.owner) i.kind (BitVec.ofNat 6 Config.ownSource) i.addr i.length i.data u with
      injected := rest, choice := none }
  | [] => { u with choice := none }

/-- The arbiter acts: during the reset quiet time, or with a request on the output, it issues nothing (R161, R162, R170). -/
def arbiterStep (u : TxnUnit) : TxnUnit :=
  if u.quiet.isRunning || u.output.isSome then u
  else
    match nextChoice u, tagToTake u with
    | none, _ => u
    | some c, none => { u with choice := some c }
    | some .group, some t => issuePiece t u
    | some .injected, some t => issueInjected t u

/-- ARBITER_ISSUE (R161, R162). -/
def arbiterIssue (p : Part) : Part := p.onTxn arbiterStep

def execArbiterIssue (s : State) : Host.Outcome State Fault Refusal := whenRunning arbiterIssue s

/-- The request on the output is accepted (R162): its tag goes to IN_FLIGHT with the M-timeout in force. -/
def acceptOutput (o : MOut) (p : Part) : Part :=
  p.onTxn fun u =>
    { u with
      tags := u.tags.modify o.tag (Option.map fun e =>
        { e with state := .inFlight, timer := .running (p.rig.global.mTimeout * Config.ticksPerUs) })
      output := none }

/-- MPORT_ACCEPT (R162). -/
def mportAccept (p : Part) : Part :=
  match p.txn.output with
  | some o => acceptOutput o p
  | none => p

def execMportAccept (s : State) : Host.Outcome State Fault Refusal := whenRunning mportAccept s

/-! ### Delivery of results -/

/-- The code of an entry after a result (R152, R153). -/
def codeAfter (res : MResult) (c : Code) : Code := if res.failed then c.max .memoryFault else c

/-- The bytes a result places in a READ's data, the piece lying at `place` in the request (R152, R154). -/
def resultBytes (fill : BitVec 16) (addr place length : Nat) : MResult → List Byte
  | .ok data => data
  | .fault => fillBytes fill (addr + place) length
  | .timedOut => fillBytes fill (addr + place) length

/-- The place of a piece in its request; a pass-through's piece is the whole request (R152). -/
def Role.place : Role → Nat
  | .captureWrite _ _ => 0
  | .readPiece _ _ place => place
  | .passThrough => 0

/-- The response data of an entry after a result for the piece at `place` (R152). -/
def dataAfter (fill : BitVec 16) (v : Entry) (place length : Nat) (res : MResult) : List Byte :=
  match v.kind with
  | .read => placeBytes place (resultBytes fill v.addr.toNat place length res) v.data
  | .write => v.data

/-- A result reaches its request table entry (R152). An entry with nothing outstanding receives no result. -/
def entryResult (e place length : Nat) (res : MResult) (p : Part) : Part :=
  match p.entry e with
  | none => p
  | some v =>
    if v.outstanding = 0 then p
    else
      let code := codeAfter res v.code
      let data := dataAfter p.rig.global.fill v place length res
      if v.outstanding = 1 then finishEntry e code data p
      else p.onEntry e fun w => { w with outstanding := w.outstanding - 1, code := code, data := data }

/-- A result reaches the slot table, for the roles that address a slot (R164). -/
def slotResult (role : Role) (res : MResult) (p : Part) : Part :=
  match role with
  | .captureWrite x i => slotWriteResult x i res p
  | .readPiece x i _ => slotReadResult x i res p
  | .passThrough => p

/-- A result of an injected request reaches the block that offered it (R164). -/
def injectedResult (o : Injector) (res : MResult) (p : Part) : Part :=
  match o with
  | .statusWrite => statusResult p
  | .recordWrite => recordResult res p
  | .loadRead => loadReadResult res p

/-- A result goes to its owner (R164; notes/assumptions/14.md). -/
def deliverResult (te : TagEntry) (res : MResult) (p : Part) : Part :=
  match te.owner with
  | .entry e role => slotResult role res (entryResult e role.place te.length res p)
  | .injected o => injectedResult o res p

/-! ### The MEMORY_FAULT event -/

/-- The owner is the report unit, whose own writes queue no MEMORY_FAULT record (R165). -/
def Owner.isReportWrite : Owner → Bool
  | .entry _ _ => false
  | .injected .statusWrite => true
  | .injected .recordWrite => true
  | .injected .loadRead => false

/-- A MEMORY_FAULT event (R165). -/
def memoryFaultEvent (cause : MemoryFaultCause) (t : Nat) (te : TagEntry) (p : Part) : Part :=
  let counter := match cause with | .fault => Counter.mFaults | .timeout => Counter.mTimeouts
  let p1 := setFlag .memoryFault (raise counter p)
  if te.owner.isReportWrite then p1
  else queueRecordNow (.memoryFault cause te.addr te.kind te.owner te.source t te.length) p1

/-- The event of a result, if it has one (R165). -/
def resultEvent (t : Nat) (te : TagEntry) (res : MResult) (p : Part) : Part :=
  match res with
  | .ok _ => p
  | .fault => memoryFaultEvent .fault t te p
  | .timedOut => memoryFaultEvent .timeout t te p

/-- The result of the request of tag `t`: to the owner, and the event; the event of a load read comes first (R163, R165, R166,
R177; notes/assumptions/14.md). -/
def takeResult (t : Nat) (te : TagEntry) (res : MResult) (p : Part) : Part :=
  if te.owner = .injected .loadRead then deliverResult te res (resultEvent t te res p)
  else resultEvent t te res (deliverResult te res p)

/-! ### Responses -/

/-- The result of a response to a request (R163). -/
def formResult (te : TagEntry) (m : MResponse) : MResult :=
  if m.status ≠ 0 ∨ m.kindByte ≠ kindCode te.kind then .fault
  else
    match te.kind with
    | .read => if m.length = te.length then .ok (fitBytes te.length m.data) else .fault
    | .write => .ok []

/-- A response whose tag is IN_FLIGHT (R163). -/
def matchedResponse (t : Nat) (te : TagEntry) (m : MResponse) (p : Part) : Part :=
  (takeResult t te (formResult te m) p).onTxn (TxnUnit.tagFreed t)

/-- A late response (R168). -/
def lateResponse (t : Nat) (te : TagEntry) (p : Part) : Part :=
  let p1 := raise .lateResponses p
  let p2 := match te.owner.slot with | some (x, i) => slotLateResponse x i p1 | none => p1
  p2.onTxn (TxnUnit.tagFreed t)

/-- An unknown-tag response (R169). -/
def unknownResponse (p : Part) : Part := raise .unknownTags p

/-- A response of the memory controller, matched by its tag alone (R163; notes/assumptions/13.md). -/
def takeResponse (m : MResponse) (p : Part) : Part :=
  match p.tag m.tag with
  | none => unknownResponse p
  | some te =>
    match te.state with
    | .offered => unknownResponse p
    | .inFlight => matchedResponse m.tag te m p
    | .quarantined => lateResponse m.tag te p

/-- MPORT_RESPONSE (R163). -/
def execMportResponse (header : BitVec 64) (data : List Byte) (s : State) : Host.Outcome State Fault Refusal :=
  whenRunning (takeResponse (parseResponse header data)) s

/-! ### M-timeout -/

/-- The M-timeout of tag `t` has run out (R166). -/
def tagTimesOut (t : Nat) (te : TagEntry) (p : Part) : Part :=
  takeResult t te .timedOut (p.setTag t (some { te with state := .quarantined, timer := .stopped }))

/-- M_TIMEOUT (R166). -/
def mTimeoutExpiry (t : Nat) (p : Part) : Part :=
  match p.tag t with
  | none => p
  | some te =>
    match te.state with
    | .inFlight => onExpiry te.timer (tagTimesOut t te) p
    | .offered => p
    | .quarantined => p

def execMTimeout (tag : Nat) (s : State) : Host.Outcome State Fault Refusal := whenRunning (mTimeoutExpiry tag) s

end Sys2Proof.Machine
end

