-- ==== Sys2Proof/Machine/Dispatch.lean ====
section
/-! DEFINITION. One arm per command. -/

namespace Sys2Proof.Machine

def exec (i : Instr) (s : State) : Host.Outcome State Fault Refusal :=
  match i with
  | .resetNAssert rigsel => Sys2Proof.Machine.execResetNAssert rigsel s
  | .resetNRelease => Sys2Proof.Machine.execResetNRelease s
  | .resetQuietTimeEnd => Sys2Proof.Machine.execResetQuietTimeEnd s
  | .fsyncPulse x time => Sys2Proof.Machine.execFsyncPulse x time s
  | .syncLossTimerExpiry x => Sys2Proof.Machine.execSyncLossTimerExpiry x s
  | .frameStart x => Sys2Proof.Machine.execFrameStart x s
  | .lockGained x => Sys2Proof.Machine.execLockGained x s
  | .lockLost x => Sys2Proof.Machine.execLockLost x s
  | .skewPulseHandover x => Sys2Proof.Machine.execSkewPulseHandover x s
  | .skewLockNotice x => Sys2Proof.Machine.execSkewLockNotice x s
  | .skewDepartureNotice x => Sys2Proof.Machine.execSkewDepartureNotice x s
  | .trimWordEnd => Sys2Proof.Machine.execTrimWordEnd s
  | .trimGapEnd => Sys2Proof.Machine.execTrimGapEnd s
  | .requestAccept header data => Sys2Proof.Machine.execRequestAccept header data s
  | .captureWrite => Sys2Proof.Machine.execCaptureWrite s
  | .captureRead => Sys2Proof.Machine.execCaptureRead s
  | .pairRead => Sys2Proof.Machine.execPairRead s
  | .rigWrite => Sys2Proof.Machine.execRigWrite s
  | .checkWordWrite => Sys2Proof.Machine.execCheckWordWrite s
  | .eventClearWord => Sys2Proof.Machine.execEventClearWord s
  | .passThrough => Sys2Proof.Machine.execPassThrough s
  | .responseAccept => Sys2Proof.Machine.execResponseAccept s
  | .arbiterIssue => Sys2Proof.Machine.execArbiterIssue s
  | .mportAccept => Sys2Proof.Machine.execMportAccept s
  | .mportResponse header data => Sys2Proof.Machine.execMportResponse header data s
  | .mTimeout tag => Sys2Proof.Machine.execMTimeout tag s
  | .frameTimerExpiry x slot => Sys2Proof.Machine.execFrameTimerExpiry x slot s
  | .matchTimerExpiry x slot => Sys2Proof.Machine.execMatchTimerExpiry x slot s
  | .leaseExpiry r => Sys2Proof.Machine.execLeaseExpiry r s
  | .parkTimerExpiry entry => Sys2Proof.Machine.execParkTimerExpiry entry s
  | .prdyPulseEnd => Sys2Proof.Machine.execPrdyPulseEnd s
  | .statusIntervalExpiry => Sys2Proof.Machine.execStatusIntervalExpiry s
  | .statusWriteOffer => Sys2Proof.Machine.execStatusWriteOffer s
  | .recordWriteOffer => Sys2Proof.Machine.execRecordWriteOffer s
  | .refusedRequest => Sys2Proof.Machine.execRefusedRequest s

end Sys2Proof.Machine
end

