-- ==== Sys2Proof/Safety.lean ====
section
/-! DEFINITION. What every step keeps: the capacities the spec gives the queues and tables, ALERT_N as the flags and enables
say, settings in force within their ranges, their regions apart, PRDY as its mode says, and the trim value within its bounds. And
the words in which the statements speak of the request path: what it looks like once the head of the intake queue has been handled;
and the parts of a next state that several statements share. -/

namespace Sys2Proof.Machine

/-- The queues and tables keep their sizes: intake queue (R142), request table (R143), M-tags (R158), park list (R80), report
queue (R184), counters (R182). -/
structure Part.Sized (p : Part) : Prop where
  intake : p.req.intake.length ≤ Config.intakeDepth
  table : p.req.table.length = Config.requestEntries
  tags : p.txn.tags.length = Config.mTags
  park : p.readers.parkList.length ≤ Config.parkPlaces
  records : p.report.queue.length ≤ Config.reportDepth
  counters : p.report.counters.length = 20

/-- ALERT_N is low exactly while a set flag has its alert enable set (R181). -/
def Part.AlertDriven (p : Part) : Prop := p.report.alertN = alertLevel p.report.flags p.rig.global.alertEnables

/-- The geometry of EYE settings in force passes the checks of R96. -/
def EyeSettings.Sound (e : EyeSettings) : Prop :=
  geometryInRange e.geom = true ∧ geometryFits e.geom = true ∧ bandFits e.geom = true

/-- The SYNC settings in force pass the checks of R125, and both geometries those of R96. -/
structure Part.SettingsSound (p : Part) : Prop where
  sync : syncInRange p.rig.sync = true
  left : (p.eyeSettings .left).Sound
  right : (p.eyeSettings .right).Sound

/-- The trim value lies within the trim bounds in force (R133). -/
def Part.TrimBounded (p : Part) : Prop := p.rig.sync.trimMin ≤ p.skew.trim ∧ p.skew.trim ≤ p.rig.sync.trimMax

/-- A request stands on the M-port output exactly under the one tag that is OFFERED (R158, R162). -/
def Part.OneOffered (p : Part) : Prop :=
  ∀ t : Nat, (∃ te, p.tag t = some te ∧ te.state = .offered) ↔ (∃ o, p.txn.output = some o ∧ o.tag = t)

/-- The invariant of the part. -/
structure Part.Inv (p : Part) : Prop where
  sized : p.Sized
  alert : p.AlertDriven
  settings : p.SettingsSound
  trim : p.TrimBounded
  offered : p.OneOffered

/-- The invariant of the machine: that of its part. -/
def State.Inv (s : State) : Prop := s.hw.Inv

/-! ### The rig table's settings in force -/

/-- The GLOBAL settings lie in their ranges, and their regions in the address space (R175). -/
structure GlobalSettings.Sound (g : GlobalSettings) : Prop where
  matchTolerance : g.matchTolerance ≤ 65535
  frameLimit : 100 ≤ g.frameLimit ∧ g.frameLimit ≤ 65535
  mTimeout : 16 ≤ g.mTimeout ∧ g.mTimeout ≤ 65535
  ringSize : g.ringSize ∈ ringSizes
  statusInterval : 1 ≤ g.statusInterval ∧ g.statusInterval ≤ 255
  window : g.windowBase % Config.page = 0 ∧ g.windowBase + Config.pairWindowBytes ≤ Config.addressSpace
  report : g.reportBase % Config.page = 0 ∧ g.reportBase + (reportRegion g).size ≤ Config.addressSpace

/-- The READER settings lie in their ranges, and an enabled reader's source tag is not the part's own (R67, R90). -/
structure ReaderSettings.Sound (v : ReaderSettings) : Prop where
  sourceTag : v.sourceTag ≤ 63
  parkLimit : 100 ≤ v.parkLimit ∧ v.parkLimit ≤ 65535
  lease : 100 ≤ v.lease ∧ v.lease ≤ 65535
  enabled : v.enabled = true → v.sourceTag ≠ Config.ownSource

/-- The capture window and the pool of EYE settings are placed as R44 and R175 ask. -/
structure EyeSettings.Placed (e : EyeSettings) : Prop where
  capture : e.captureBase % Config.page = 0 ∧ e.captureBase + Config.captureWindowBytes ≤ Config.addressSpace
  slots : 3 ≤ e.slotCount ∧ e.slotCount ≤ 8
  frame : e.geom.pitch * e.geom.lines ≤ e.slotStride
  pool : e.poolBase % Config.page = 0 ∧ e.slotStride % Config.page = 0 ∧
    e.poolBase + e.slotCount * e.slotStride ≤ Config.addressSpace

/-- The regions that a GLOBAL section is checked against (R176). -/
def eyeRegions (p : Part) : List Region :=
  [rigRegion p, captureRegion (p.eyeSettings .left), poolRegion (p.eyeSettings .left), captureRegion (p.eyeSettings .right),
    poolRegion (p.eyeSettings .right)]

/-- The pair window to come: the waiting one, or the one in force (R174). -/
def comingWindow (p : Part) : Region :=
  match p.rig.windowChange with
  | some w => { base := w.base, size := Config.pairWindowBytes }
  | none => windowRegion p.rig.global

/-- The regions of R176 do not overlap; while a window change waits, the window in force is not compared with the report region
(notes/assumptions/24.md). -/
structure Part.RegionsApart (p : Part) : Prop where
  eyes : (eyeRegions p).Pairwise fun a b => a.overlaps b = false
  windows : ∀ w ∈ windowRegions p, ∀ a ∈ eyeRegions p, a.overlaps w = false
  report : ∀ a ∈ eyeRegions p, a.overlaps (reportRegion p.rig.global) = false
  coming : (comingWindow p).overlaps (reportRegion p.rig.global) = false

/-- The settings in force, as the latches leave them: GLOBAL and READER within their ranges, the capture windows and pools placed,
the tags of enabled readers distinct (R90), and the regions apart. -/
structure Part.RigSound (p : Part) : Prop where
  global : p.rig.global.Sound
  waiting : ∀ w ∈ p.rig.windowChange, w.base % Config.page = 0 ∧ w.base + Config.pairWindowBytes ≤ Config.addressSpace
  eye : ∀ x, (p.eyeSettings x).Placed
  reader : ∀ r, (p.readerSettings r).Sound
  tags : ∀ r q, r ≠ q → (p.readerSettings r).enabled = true → (p.readerSettings q).enabled = true →
    (p.readerSettings r).sourceTag ≠ (p.readerSettings q).sourceTag
  apart : p.RegionsApart

/-! ### The PRDY line -/

/-- PRDY as its mode says, but for the level (R63, R65): deasserted in OFF, asserted exactly during a pulse in PULSE, and no pulse
in another mode. -/
structure Part.PrdyShaped (p : Part) : Prop where
  off : p.rig.global.prdyMode = .off → p.pairs.prdy = false
  pulse : p.rig.global.prdyMode = .pulse → p.pairs.prdy = p.pairs.prdyPulse.isRunning
  rest : p.rig.global.prdyMode ≠ .pulse → p.pairs.prdyPulse = .stopped

/-- PRDY as its mode says (R63 to R65); in LEVEL it is asserted exactly while a pair waits for the PRDY reader. -/
structure Part.PrdyDriven (p : Part) : Prop extends p.PrdyShaped where
  level : p.rig.global.prdyMode = .level → p.pairs.prdy = prdyLevel p

/-- A waiting request is one that the P-port could carry (R141): 1 to 512 bytes, and a WRITE has its data whole. -/
def Request.Whole (q : Request) : Prop :=
  1 ≤ q.length ∧ q.length ≤ 512 ∧ (q.kindByte = 1 → q.data.length = q.length)

/-- Every waiting request is whole. -/
def Part.IntakeWhole (p : Part) : Prop := ∀ q ∈ p.req.intake, q.Whole

/-! ### The head of the intake queue, handled -/

/-- The request at the head of the intake queue can be handled: it is `q`, and `e` is the entry it takes (R143, R144). -/
structure Part.Head (p : Part) (q : Request) (e : Nat) : Prop where
  first : p.req.intake.head? = some q
  unused : unusedEntry p = some e

/-- The request at the head of the intake queue passes the checks: it is of class `cls`, at offset `o` of its range (R144, R146). -/
structure Part.Accepts (p : Part) (q : Request) (e : Nat) (cls : ReqClass) (o : Nat) : Prop extends p.Head q e where
  passes : isRefused p q = false
  cls : ∃ base, classify p q = some (cls, base) ∧ o = q.addr.toNat - base

/-- The request path once the head has been answered at once: entry `e` holds `v` and its response is the last in line. -/
def RequestPath.answered (u : RequestPath) (e : Nat) (v : Entry) : RequestPath :=
  { intake := u.intake.tail, table := u.table.set e (some { v with state := .returning }), returning := u.returning ++ [e] }

/-- The request path once the head has been taken into entry `e`, which holds `v` and waits. -/
def RequestPath.waiting (u : RequestPath) (e : Nat) (v : Entry) : RequestPath :=
  { u with intake := u.intake.tail, table := u.table.set e (some v) }

/-- The data of a response that is given at once: a READ's is laid down in the fill pattern (R154). -/
def Part.fillFor (p : Part) (q : Request) : List Byte :=
  if q.kind = .read then fillBytes p.rig.global.fill q.addr.toNat q.length else []

/-! ### Parts of a next state that several statements share -/

/-- The part is `u` but for the changed mark of the status (R182; notes/assumptions/16.md). -/
def Part.SameButMark (t u : Part) : Prop := t = { u with report := { u.report with changed := t.report.changed } }

/-- A section in a post state (R172). -/
def Part.withPost (k : Section) (v : PostState) (p : Part) : Part :=
  { p with rig := { p.rig with shadow := p.rig.shadow.set k { p.rig.shadow.get k with post := v } } }

/-- A section rejected: REJECTED, the flag CONFIG_REJECTED and its record (R175, R179). -/
def Part.withRejected (k : Section) (reason : RejectReason) (loadFault : Bool) (p : Part) : Part :=
  queueRecord p.now p.take (.configRejected reason k loadFault) (setFlag .configRejected (p.withPost k .rejected))

/-- The stream's frame has reached its end: BETWEEN with no current slot and the completed mark set (R19). -/
def Part.frameEnded (x : Eye) (p : Part) : Part :=
  { p with streams := p.streams.set x { p.stream x with state := .between, currentSlot := none, completed := true } }

/-- A request piece that passes through whole (R149). -/
def Request.asPiece (q : Request) (e : Nat) : Piece :=
  { kind := q.kind, addr := q.addr.toNat, length := q.length, data := q.data, source := q.source, entry := e,
    role := .passThrough }

/-- A slot in FILLING is told that its frame has reached its end (R30). -/
def SlotRecord.ended (r : SlotRecord) : SlotRecord :=
  if r.state = .filling then
    if r.writes = 0 then { r with endReached := true, state := .complete, frameTimer := .stopped }
    else { r with endReached := true, state := .landing }
  else r

end Sys2Proof.Machine
end

