-- ==== Sys2Proof/Certificates/Slice0/Obligations.lean ====
section
/-! DEFINITION. The statements for the provers. Where a next state is written as `markChanged s.hw p`, it is the part `p` with at
most the changed mark of the status set beside it (R182; notes/assumptions/16.md). -/

open Sys2Proof Sys2Proof.Machine

/-! ### The queue of commands -/

/-- A step takes the command at the front of the queue and runs it with the rest of the queue. -/
def Obligations.StepRunsFrontCommand : Prop :=
  ∀ (c : Instr) (rest : List Instr) (s : State), s.pending = c :: rest → step s = exec c { s with pending := rest }

/-- With no command waiting a step is one tick (the model's choice, notes/assumptions/2.md). When `n` ticks pass, the timebase
counts up by them and every running timer counts down by them, staying at 0 until its expiry is taken (the model's choice,
notes/assumptions/3.md); a stopped timer stays stopped, and nothing else changes but the pulse marks of the tick (the model's,
notes/assumptions/6.md). With RESET_N asserted no time passes and the part stays as it is (the model's choice,
notes/assumptions/5.md; R109 has the timebase hold 0). -/
def Obligations.EmptyQueueIsOneTick : Prop :=
  (∀ s : State, s.pending = [] → step s = .next { s with hw := passTime 1 s.hw }) ∧
  (∀ (n : Nat) (p : Part), p.resetAsserted = true → passTime n p = p) ∧
  (∀ n r, Timer.passes n .stopped = .stopped ∧ Timer.passes n (.running r) = .running (r - n)) ∧
  ∀ (n : Nat) (p : Part), p.resetAsserted = false →
    let q := passTime n p
    q.sync.timebase = p.sync.timebase + BitVec.ofNat 48 n ∧
    (∀ x, q.acq x = { p.acq x with lossTimer := (p.acq x).lossTimer.passes n }) ∧
    (∀ x i, q.slot x i = { p.slot x i with frameTimer := (p.slot x i).frameTimer.passes n }) ∧
    (∀ x i, q.matchTimer x i = (p.matchTimer x i).passes n) ∧
    (∀ r, q.reader r = { p.reader r with lease := (p.reader r).lease.passes n }) ∧
    q.readers.parkList = p.readers.parkList.map (fun k => { k with timer := k.timer.passes n }) ∧
    (∀ t, q.tag t = (p.tag t).map fun e => { e with timer := e.timer.passes n }) ∧
    q.txn = { p.txn with tags := q.txn.tags, quiet := p.txn.quiet.passes n } ∧
    q.skew = { p.skew with sender := { p.skew.sender with timer := p.skew.sender.timer.passes n } } ∧
    q.report = { p.report with interval := p.report.interval.passes n } ∧
    q.pairs = { p.pairs with matchTimers := q.pairs.matchTimers, prdyPulse := p.pairs.prdyPulse.passes n } ∧
    q.sync.streamNotices = p.sync.streamNotices ∧ q.sync.skewNotices = p.sync.skewNotices ∧
    (∀ x, q.sync.pulsed.get x = (p.sync.pulsed.get x && n == 0)) ∧
    q.streams = p.streams ∧ q.req = p.req ∧ q.rig = p.rig ∧ q.resetAsserted = false

/-- Every command answers a next state and leaves the queue of waiting commands as it is; while RESET_N is asserted, every
command but those of RESET_N itself leaves everything as it is (notes/assumptions/5.md). -/
def Obligations.EveryCommandAnswersNext : Prop :=
  (∀ (c : Instr) (s : State), ∃ t : State, exec c s = .next t ∧ t.pending = s.pending) ∧
  ∀ (c : Instr) (s : State), s.hw.resetAsserted = true → (∀ k, c ≠ .resetNAssert k) → c ≠ .resetNRelease → exec c s = .next s

/-! ### Reset -/

/-- RESET_N_ASSERT puts every block in its reset values and samples the strap: nothing is known, offered, held or waiting,
both queues of notices of each eye are empty and no line has pulsed in the tick (the model's choice, notes/assumptions/7.md,
6.md), every section's active settings are the defaults, and every shadow word holds their encoding with no mark (R22, R45,
R47, R92, R111, R122, R123, R139, R156, R170, R172, R182, R185, R186). Model's own: notes/assumptions/4.md, 29.md, 35.md. -/
def Obligations.ResetAssertGivesResetValues : Prop :=
  ∀ (k : BitVec 3) (s : State), ∃ t : State, exec (.resetNAssert k) s = .next t ∧ t.pending = s.pending ∧
    t.hw.resetAsserted = true ∧ t.hw.sync.timebase = 0 ∧
    (∀ x, t.hw.acq x =
      { state := .absent, lastPulse := none, candidate := none, lastAccepted := none, reference := none, faultRun := 0,
        lossTimer := .stopped }) ∧
    (∀ x, t.hw.sync.streamNotices.get x = [] ∧ t.hw.sync.skewNotices.get x = [] ∧ t.hw.sync.pulsed.get x = false) ∧
    let geometry : Geometry :=
      { width := 4096, pixelBytes := 2, lines := 2176, top := 0, bottom := 0, shift := 0, hflip := false, vflip := false,
        pitch := 8192 }
    (∀ x, t.hw.stream x =
      { state := .off, frameNumber := 0, currentSlot := none, cursor := 0, geom := geometry, completed := false }) ∧
    (∀ x, (t.hw.slots.get x).length = 4 ∧ ∀ i, t.hw.matchTimer x i = .stopped ∧
      t.hw.slot x i =
        { state := .free, frameNumber := 0, startStamp := 0, partner := none, pairNumber := none, pairTake := none,
          geom := Geometry.cleared, damage := Damage.none, writes := 0, reads := 0, quarantined := 0, endReached := false,
          frameTimer := .stopped }) ∧
    t.hw.pairs.queue = [] ∧ t.hw.take = 0 ∧ t.hw.pairs.nextNumber = some 1 ∧ t.hw.pairs.prdy = false ∧
    t.hw.pairs.prdyPulse = .stopped ∧
    (∀ r, t.hw.reader r = { state := .unbound, held := none, lastTaken := 0, away := false, lease := .stopped }) ∧
    t.hw.readers.parkList = [] ∧
    t.hw.req.intake = [] ∧ t.hw.req.table.length = 48 ∧ (∀ e, t.hw.entry e = none) ∧ t.hw.offeredResponse = none ∧
    t.hw.txn.tags.length = 64 ∧ (∀ m, t.hw.tag m = none) ∧
    t.hw.txn =
      { tags := t.hw.txn.tags, issue := [], injected := [], choice := none, claim := none, output := none, quiet := .stopped } ∧
    t.hw.skew =
      { lockView := ⟨false, false⟩, latest := ⟨none, none⟩, f := 0, seed := true, d := none, warn := false, fault := false,
        sampleCount := 0, trim := 0, satCount := 0,
        sender := { state := .idle, word := none, lastSent := none, pending := false, timer := .stopped } } ∧
    t.hw.trimD = false ∧ t.hw.trimCk = false ∧
    t.hw.rig.rigsel = k ∧ t.hw.rig.partState = .loading ∧ t.hw.rig.windowChange = none ∧
    t.hw.rig.global =
      { take := 0, windowBase := 0x0040000000, layout := .sequential, prdyMode := .off, prdyReader := .a,
        matchTolerance := 2500, fill := 0, frameLimit := 20000, mTimeout := 2000, reportBase := 0x0100000000, ringSize := 256,
        statusInterval := 10, alertEnables := 0 } ∧
    t.hw.rig.sync =
      { follower := .right, target := 0, filterShift := 2, warnLimit := 500, faultLimit := 2000, hysteresis := 100,
        gain := .off, divider := 1, upRate := 16, downRate := 16, deadBand := 20, trimMin := -2048, trimMax := 2047,
        trimStart := 0, directOnFault := false, periodTolerance := 250, syncLossMs := 50 } ∧
    (∀ x, t.hw.eyeSettings x =
      { enable := false, geom := geometry, captureBase := match x with | .left => 0x0010000000 | .right => 0x0020000000,
        poolBase := match x with | .left => 0x0080000000 | .right => 0x00C0000000, slotCount := 4,
        slotStride := 17825792 }) ∧
    (∀ r, t.hw.readerSettings r =
      { enabled := false, sourceTag := 0, policy := .every, waitMode := .park, parkLimit := 10000, lease := 10000,
        skipDamaged := false, restartTakes := false }) ∧
    (∀ j, t.hw.post j = .unposted ∧ checkMatches (t.hw.staged j) = true ∧
      (t.hw.rig.shadow.get j).words =
        (withCheck (match j with
          | .global => encodeGlobal t.hw.rig.global
          | .sync => encodeSync t.hw.rig.sync
          | .eye x => encodeEye (t.hw.eyeSettings x)
          | .reader r => encodeReader (t.hw.readerSettings r))).map
          fun w => { value := w, written := false, faulted := false }) ∧
    (∀ c, t.hw.count c = 0) ∧
    t.hw.report =
      { flags := 0, counters := t.hw.report.counters, queue := [], seq := 0, ringIndex := 0, changed := false, due := false,
        outstanding := none, lastOffered := .record, interval := .stopped, alertN := true }

/-- RESET_N_RELEASE starts the quiet time and offers the first load read, the part stays LOADING and nothing else changes
(R142, R170, R177). RESET_QUIET_TIME_END ends the quiet time, and nothing else changes but the passing of the time that was
left (R170). Model's own: notes/assumptions/2.md. -/
def Obligations.ReleaseStartsTheLoadAndTheQuietTime : Prop :=
  (∀ s : State, s.hw.resetAsserted = true →
    exec .resetNRelease s = .next { s with hw := { s.hw with
      resetAsserted := false
      rig := { s.hw.rig with loadIndex := 0 }
      txn := { s.hw.txn with
        quiet := .running 500000
        injected := s.hw.txn.injected ++
          [{ owner := .loadRead, kind := .read, addr := 2 ^ 37 * s.hw.rig.rigsel.toNat, length := 64, data := [], wait := 0 }] } } }) ∧
  ∀ (s : State) (r : Nat), s.hw.resetAsserted = false → s.hw.txn.quiet = .running r →
    let q := passTime r s.hw
    exec .resetQuietTimeEnd s = .next { s with hw := markChanged s.hw { q with txn := { q.txn with quiet := .stopped } } }

/-! ### Pulses and acquisition -/

/-- R112: a pulse judged in ABSENT begins acquisition, starts the sync loss timer and gives no frame start. Model's own:
notes/assumptions/2.md, 6.md, 7.md. -/
def Obligations.PulseInAbsentBeginsAcquisition : Prop :=
  ∀ (x : Eye) (time : Stamp) (s : State), s.hw.resetAsserted = false → pulseTaken x time s.hw = false →
    (s.hw.acq x).state = .absent →
    let q := passTime (ticksUntil s.hw time) s.hw
    exec (.fsyncPulse x time) s = .next { s with hw := markChanged s.hw { q with sync := { q.sync with
      acq := q.sync.acq.set x
        { q.acq x with
          state := .acquiring, lastPulse := some time, candidate := none,
          lossTimer := .running (s.hw.rig.sync.syncLossMs * 250000) }
      pulsed := q.sync.pulsed.set x true
      skewNotices := q.sync.skewNotices.set x
        (q.sync.skewNotices.get x ++ [.pulse time .acquisition (s.hw.acq x).reference]) } } }

/-- A pulse judged in ACQUIRING: without a matching candidate its period becomes the candidate; with one the eye locks and
both the capture stream and the skew unit are told (R113, R114, R120). Model's own: notes/assumptions/2.md, 6.md, 7.md, 30.md. -/
def Obligations.PulseInAcquiringMeasuresAndLocks : Prop :=
  ∀ (x : Eye) (time last : Stamp) (s : State), s.hw.resetAsserted = false → pulseTaken x time s.hw = false →
    (s.hw.acq x).state = .acquiring → (s.hw.acq x).lastPulse = some last →
    let q := passTime (ticksUntil s.hw time) s.hw
    let period := stampDiff time last
    let timer := Timer.running (s.hw.rig.sync.syncLossMs * 250000)
    ((∀ c, (s.hw.acq x).candidate = some c → s.hw.rig.sync.periodTolerance < (period - c).natAbs) →
      exec (.fsyncPulse x time) s = .next { s with hw := markChanged s.hw { q with sync := { q.sync with
        acq := q.sync.acq.set x
          { q.acq x with lastPulse := some time, candidate := some period, lossTimer := timer }
        pulsed := q.sync.pulsed.set x true
        skewNotices := q.sync.skewNotices.set x
          (q.sync.skewNotices.get x ++ [.pulse time .acquisition (s.hw.acq x).reference]) } } }) ∧
    (∀ c, (s.hw.acq x).candidate = some c → (period - c).natAbs ≤ s.hw.rig.sync.periodTolerance →
      exec (.fsyncPulse x time) s = .next { s with hw := markChanged s.hw { q with sync := { q.sync with
        acq := q.sync.acq.set x
          { state := .locked, lastPulse := none, candidate := none, lastAccepted := some time, reference := some period,
            faultRun := 0, lossTimer := timer }
        pulsed := q.sync.pulsed.set x true
        streamNotices := q.sync.streamNotices.set x (q.sync.streamNotices.get x ++ [.lockGained])
        skewNotices := q.sync.skewNotices.set x
          (q.sync.skewNotices.get x ++ [.lock, .pulse time .acquisition (some period)]) } } })

/-- A pulse that keeps the reference period is accepted and gives a frame start (R115, R119, R120). A pulse that breaks the
reference period is a period fault: counted, no frame start; the fourth in a row ends the lock with SYNC_LOST of cause
PERIOD_FAULTS (R116, R118). Model's own: notes/assumptions/2.md, 6.md, 7.md, 30.md. -/
def Obligations.PulseInLockedIsJudgedByItsPeriod : Prop :=
  (∀ (x : Eye) (time accepted : Stamp) (reference : Int) (s : State), s.hw.resetAsserted = false →
    pulseTaken x time s.hw = false → (s.hw.acq x).state = .locked → (s.hw.acq x).lastAccepted = some accepted →
    (s.hw.acq x).reference = some reference →
    (stampDiff time accepted - reference).natAbs ≤ s.hw.rig.sync.periodTolerance →
    let q := passTime (ticksUntil s.hw time) s.hw
    let period := stampDiff time accepted
    exec (.fsyncPulse x time) s = .next { s with hw := markChanged s.hw { q with sync := { q.sync with
      acq := q.sync.acq.set x
        { q.acq x with
          lastAccepted := some time, reference := some period, faultRun := 0,
          lossTimer := .running (s.hw.rig.sync.syncLossMs * 250000) }
      pulsed := q.sync.pulsed.set x true
      streamNotices := q.sync.streamNotices.set x (q.sync.streamNotices.get x ++ [.frameStart time])
      skewNotices := q.sync.skewNotices.set x
        (q.sync.skewNotices.get x ++ [.pulse time .accepted (some period)]) } } }) ∧
  ∀ (x : Eye) (time accepted : Stamp) (reference : Int) (s : State), s.hw.resetAsserted = false →
    pulseTaken x time s.hw = false → (s.hw.acq x).state = .locked → (s.hw.acq x).lastAccepted = some accepted →
    (s.hw.acq x).reference = some reference →
    s.hw.rig.sync.periodTolerance < (stampDiff time accepted - reference).natAbs →
    let q := passTime (ticksUntil s.hw time) s.hw
    let timer := Timer.running (s.hw.rig.sync.syncLossMs * 250000)
    let counted := raise (.periodFaults x) q
    let oneMore : Part := { counted with
      sync := { q.sync with
        acq := q.sync.acq.set x { q.acq x with faultRun := (s.hw.acq x).faultRun + 1, lossTimer := timer }
        pulsed := q.sync.pulsed.set x true
        skewNotices := q.sync.skewNotices.set x
          (q.sync.skewNotices.get x ++ [.pulse time .periodFault (some reference)]) } }
    let reported := queueRecord time q.take (.syncLost x .periodFaults (some accepted) (some reference))
      (setFlag (.syncLost x) counted)
    let lost : Part := { reported with
      sync := { q.sync with
        acq := q.sync.acq.set x
          { state := .acquiring, lastPulse := some time, candidate := none, lastAccepted := none, reference := none,
            faultRun := 0, lossTimer := timer }
        pulsed := q.sync.pulsed.set x true
        streamNotices := q.sync.streamNotices.set x (q.sync.streamNotices.get x ++ [.lockLost])
        skewNotices := q.sync.skewNotices.set x
          (q.sync.skewNotices.get x ++ [.departure, .pulse time .periodFault none]) } }
    ((s.hw.acq x).faultRun < 3 → exec (.fsyncPulse x time) s = .next { s with hw := markChanged s.hw oneMore }) ∧
    (3 ≤ (s.hw.acq x).faultRun → exec (.fsyncPulse x time) s = .next { s with hw := markChanged s.hw lost })

/-- The sync loss timer's expiry takes the eye to ABSENT, every field as after RESET_N; from LOCKED it raises SYNC_LOST of
cause SILENCE and tells the stream and the skew unit, from ACQUIRING it tells no one (R117, R118). Model's own:
notes/assumptions/2.md, 7.md. -/
def Obligations.SyncLossTimerExpiryGivesAbsent : Prop :=
  ∀ (x : Eye) (s : State) (r : Nat), s.hw.resetAsserted = false → (s.hw.acq x).lossTimer = .running r →
    let q := passTime r s.hw
    let absent : AcqCtx :=
      { state := .absent, lastPulse := none, candidate := none, lastAccepted := none, reference := none, faultRun := 0,
        lossTimer := .stopped }
    let reported := queueRecord q.now q.take (.syncLost x .silence (s.hw.acq x).lastAccepted (s.hw.acq x).reference)
      (setFlag (.syncLost x) q)
    let lost : Part := { reported with
      sync := { q.sync with
        acq := q.sync.acq.set x absent
        streamNotices := q.sync.streamNotices.set x (q.sync.streamNotices.get x ++ [.lockLost])
        skewNotices := q.sync.skewNotices.set x (q.sync.skewNotices.get x ++ [.departure]) } }
    let silent : Part := { q with sync := { q.sync with acq := q.sync.acq.set x absent } }
    ((s.hw.acq x).state = .locked →
      exec (.syncLossTimerExpiry x) s = .next { s with hw := markChanged s.hw lost }) ∧
    ((s.hw.acq x).state ≠ .locked →
      exec (.syncLossTimerExpiry x) s = .next { s with hw := markChanged s.hw silent })

/-! ### Capture streams -/

/-- R5: lock gained takes a stream from WAITING_SYNC to BETWEEN with the completed mark clear, and has no effect in another
state. The notice comes from the queue of notices in flight, which is the model's (notes/assumptions/7.md). -/
def Obligations.LockGainedEndsWaitingSync : Prop :=
  ∀ (x : Eye) (rest : List StreamNotice) (s : State), s.hw.resetAsserted = false →
    s.hw.sync.streamNotices.get x = .lockGained :: rest →
    let told : SyncUnit := { s.hw.sync with streamNotices := s.hw.sync.streamNotices.set x rest }
    let between : StreamCtx := { s.hw.stream x with state := .between, completed := false }
    ((s.hw.stream x).state = .waitingSync →
      exec (.lockGained x) s =
        .next { s with hw := markChanged s.hw { s.hw with sync := told, streams := s.hw.streams.set x between } }) ∧
    ((s.hw.stream x).state ≠ .waitingSync →
      exec (.lockGained x) s = .next { s with hw := markChanged s.hw { s.hw with sync := told } })

/-- The departure notice: ignored in OFF and WAITING_SYNC; from BETWEEN or SPILL the stream goes to WAITING_SYNC, the frame
number kept (R6). The eye's EYE section is not posted here. A frame start in OFF or WAITING_SYNC is ignored: only the notice
is gone (R3, R11). Model's own: notes/assumptions/7.md. -/
def Obligations.NoticesWithNoFrameOpen : Prop :=
  (∀ (x : Eye) (rest : List StreamNotice) (s : State), s.hw.resetAsserted = false →
    s.hw.sync.streamNotices.get x = .lockLost :: rest →
    let told : SyncUnit := { s.hw.sync with streamNotices := s.hw.sync.streamNotices.set x rest }
    let waiting : StreamCtx := { s.hw.stream x with state := .waitingSync, completed := false }
    ((s.hw.stream x).state = .off ∨ (s.hw.stream x).state = .waitingSync →
      exec (.lockLost x) s = .next { s with hw := markChanged s.hw { s.hw with sync := told } }) ∧
    ((s.hw.stream x).state = .between ∨ (s.hw.stream x).state = .spill → s.hw.post (.eye x) ≠ .posted →
      exec (.lockLost x) s =
        .next { s with hw := markChanged s.hw { s.hw with sync := told, streams := s.hw.streams.set x waiting } })) ∧
  ∀ (x : Eye) (stamp : Stamp) (rest : List StreamNotice) (s : State), s.hw.resetAsserted = false →
    s.hw.sync.streamNotices.get x = .frameStart stamp :: rest →
    (s.hw.stream x).state = .off ∨ (s.hw.stream x).state = .waitingSync →
    exec (.frameStart x) s = .next { s with hw := markChanged s.hw { s.hw with
      sync := { s.hw.sync with streamNotices := s.hw.sync.streamNotices.set x rest } } }

/-- The departure notice in OPEN: the frame in FILLING is abandoned SYNC_LOST with its flag and counter, its slot drains or is
free, and the stream goes to WAITING_SYNC with no current slot, the frame number kept (R6, R34, R36): an unlinked frame alone;
a frame linked in a FORMING pair with its partner, which is abandoned PARTNER_LOST, and the pair record is removed, one
FRAME_LOST record for each, both naming the pair number (R35, R57). No reader with policy EVERY has parked reads: those of
policy LATEST make no attempt at a removal (R83). A draining slot whose three counts are 0 is FREE with its record cleared
(R42). Whatever the slot and its pair, and with an EYE section posted or not, the rest is as from BETWEEN once the frame is
abandoned (R6); what an abandonment does, SlotTimersAbandonUnlinkedFrames says. Model's own: notes/assumptions/7.md, 29.md. -/
def Obligations.LockLostAbandonsTheOpenFrame : Prop :=
  (∀ (x : Eye) (i : Nat) (rest : List StreamNotice) (s : State), s.hw.resetAsserted = false →
    s.hw.sync.streamNotices.get x = .lockLost :: rest → s.hw.report.counters.length = 20 →
    (s.hw.stream x).state = .open → (s.hw.stream x).currentSlot = some i → i < (s.hw.slots.get x).length →
    (s.hw.slot x i).state = .filling → recordOf s.hw x i = none → s.hw.post (.eye x) ≠ .posted →
    ∃ t : State, exec (.lockLost x) s = .next t ∧ t.pending = s.pending ∧
      t.hw.stream x = { s.hw.stream x with state := .waitingSync, currentSlot := none, completed := false } ∧
      t.hw.stream x.other = s.hw.stream x.other ∧
      t.hw.slot x i = SlotRecord.freeIfDrained { s.hw.slot x i with state := .draining, frameTimer := .stopped } ∧
      t.hw.matchTimer x i = .stopped ∧
      t.hw.count (.lost .syncLost) = s.hw.count (.lost .syncLost) + 1 ∧
      t.hw.report.flags.getLsbD EventFlag.frameLost.bit = true ∧
      t.hw.rig = s.hw.rig ∧ t.hw.readers = s.hw.readers ∧ t.hw.req = s.hw.req ∧ t.hw.txn = s.hw.txn ∧ t.hw.skew = s.hw.skew) ∧
  (∀ (x : Eye) (i j : Nat) (q : PairRecord) (rest : List StreamNotice) (s : State), s.hw.resetAsserted = false →
    s.hw.sync.streamNotices.get x = .lockLost :: rest → s.hw.report.counters.length = 20 →
    (s.hw.stream x).state = .open → (s.hw.stream x).currentSlot = some i → i < (s.hw.slots.get x).length →
    (s.hw.slot x i).state = .filling → s.hw.post (.eye x) ≠ .posted →
    recordOf s.hw x i = some q → q.state = .forming → q.slotOf x.other = j → j < (s.hw.slots.get x.other).length →
    (s.hw.slot x.other j).state.live = true → (s.hw.slot x.other j).partner ≠ none →
    (∀ k ∈ s.hw.readers.parkList, (s.hw.readerSettings k.reader).policy = .latest) → s.hw.report.queue.length + 2 ≤ 16 →
    ∃ t : State, exec (.lockLost x) s = .next t ∧ t.pending = s.pending ∧
      t.hw.stream x = { s.hw.stream x with state := .waitingSync, currentSlot := none, completed := false } ∧
      t.hw.stream x.other =
        (if (s.hw.slot x.other j).state = .filling ∧ (s.hw.stream x.other).state = .open ∧
            (s.hw.stream x.other).currentSlot = some j then
          { s.hw.stream x.other with state := .spill, currentSlot := none } else s.hw.stream x.other) ∧
      t.hw.slot x i = SlotRecord.freeIfDrained { s.hw.slot x i with state := .draining, frameTimer := .stopped } ∧
      t.hw.slot x.other j =
        SlotRecord.freeIfDrained { s.hw.slot x.other j with state := .draining, frameTimer := .stopped } ∧
      t.hw.matchTimer x i = .stopped ∧ t.hw.matchTimer x.other j = .stopped ∧
      (∀ k ∈ t.hw.pairs.queue, k ∈ s.hw.pairs.queue ∧ k ≠ q) ∧
      (∀ k ∈ s.hw.pairs.queue, k.state = .forming → k ≠ q → k ∈ t.hw.pairs.queue) ∧
      t.hw.count (.lost .syncLost) = s.hw.count (.lost .syncLost) + 1 ∧
      t.hw.count (.lost .partnerLost) = s.hw.count (.lost .partnerLost) + 1 ∧
      t.hw.report.flags.getLsbD EventFlag.frameLost.bit = true ∧
      (let own := s.hw.slot x i
       let partner := s.hw.slot x.other j
       t.hw.report.queue = s.hw.report.queue ++
        [{ seq := s.hw.report.seq, stamp := partner.startStamp, take := partner.pairTake.getD s.hw.take,
           body := .frameLost .partnerLost partner.frameNumber partner.pairNumber x.other (some j) partner.endReached },
         { seq := s.hw.report.seq + 1, stamp := own.startStamp, take := own.pairTake.getD s.hw.take,
           body := .frameLost .syncLost own.frameNumber own.pairNumber x (some i) own.endReached }]) ∧
      t.hw.rig = s.hw.rig ∧ t.hw.readers = s.hw.readers ∧ t.hw.req = s.hw.req ∧ t.hw.txn = s.hw.txn ∧ t.hw.skew = s.hw.skew) ∧
  (∀ (x : Eye) (i : Nat) (rest : List StreamNotice) (s : State), s.hw.resetAsserted = false →
    s.hw.sync.streamNotices.get x = .lockLost :: rest → (s.hw.stream x).state = .open →
    (s.hw.stream x).currentSlot = some i →
    let gone := abandon x i .syncLost { s.hw with
      sync := { s.hw.sync with streamNotices := s.hw.sync.streamNotices.set x rest } }
    let closed : Part := { gone with
      sync := s.hw.sync
      streams := gone.streams.set x { gone.stream x with state := .between, currentSlot := none } }
    ∃ t u : State, exec (.lockLost x) s = .next t ∧ exec (.lockLost x) { s with hw := closed } = .next u ∧
      t.hw.SameButMark u.hw ∧ t.pending = s.pending) ∧
  ∀ r : SlotRecord,
    (r.state = .draining ∧ r.writes = 0 ∧ r.reads = 0 ∧ r.quarantined = 0 →
      SlotRecord.freeIfDrained r =
        { state := .free, frameNumber := 0, startStamp := 0, partner := none, pairNumber := none, pairTake := none,
          geom := Geometry.cleared, damage := Damage.none, writes := 0, reads := 0, quarantined := 0, endReached := false,
          frameTimer := .stopped }) ∧
    (¬(r.state = .draining ∧ r.writes = 0 ∧ r.reads = 0 ∧ r.quarantined = 0) → SlotRecord.freeIfDrained r = r)

/-- A frame start with no frame open, no section posted and a FREE slot: the frame takes the next number and the active
geometry and opens in the lowest FREE slot; with no partner in reach the slot's match timer starts (R9, R26, R31, R50, R52). A
slot of the other eye is a candidate while it is live and unlinked with its match timer running, its geometry has the same
picture fields and its start stamp is within the match tolerance; the nearest candidate is picked, of two equally near the one
with the earlier start stamp (R50, R51). Model's own: notes/assumptions/7.md. -/
def Obligations.FrameStartOpensASlot : Prop :=
  (∀ (x : Eye) (stamp : Stamp) (i : Nat) (rest : List StreamNotice) (s : State), s.hw.resetAsserted = false →
    s.hw.sync.streamNotices.get x = .frameStart stamp :: rest →
    (s.hw.stream x).state = .between ∨ (s.hw.stream x).state = .spill → s.hw.post (.eye x) ≠ .posted →
    lowestFree (s.hw.slots.get x) = some i →
    s.hw.pairs.nextNumber = none ∨ pickCandidate s.hw x.other stamp (s.hw.eyeSettings x).geom = none →
    let number := (s.hw.stream x).frameNumber + 1
    let geom := (s.hw.eyeSettings x).geom
    let slot : SlotRecord := { s.hw.slot x i with
      state := .filling, frameNumber := number, startStamp := stamp, partner := none, pairNumber := none, pairTake := none,
      geom := geom, damage := Damage.none, endReached := false,
      frameTimer := .running (s.hw.rig.global.frameLimit * 250) }
    exec (.frameStart x) s = .next { s with hw := markChanged s.hw { s.hw with
      sync := { s.hw.sync with streamNotices := s.hw.sync.streamNotices.set x rest }
      streams := s.hw.streams.set x
        { state := .open, frameNumber := number, currentSlot := some i, cursor := 0, geom := geom, completed := false }
      slots := s.hw.slots.set x ((s.hw.slots.get x).set i slot)
      pairs := { s.hw.pairs with
        matchTimers := s.hw.pairs.matchTimers.set x
          ((s.hw.pairs.matchTimers.get x).set i (.running s.hw.rig.global.matchTolerance)) } } }) ∧
  ∀ (p : Part) (y : Eye) (stamp : Stamp) (g : Geometry), p.rig.global.matchTolerance < 65536 →
    let distance (i : Nat) : Nat := (stampDiff stamp (p.slot y i).startStamp).natAbs
    let candidate (i : Nat) : Prop :=
      let c := p.slot y i
      i < (p.slots.get y).length ∧ (c.state = .filling ∨ c.state = .landing ∨ c.state = .complete) ∧ c.partner = none ∧
        (∃ r, p.matchTimer y i = .running r) ∧
        c.geom.width = g.width ∧ c.geom.pixelBytes = g.pixelBytes ∧ c.geom.lines = g.lines ∧ c.geom.top = g.top ∧
        c.geom.bottom = g.bottom ∧ c.geom.pitch = g.pitch ∧ distance i ≤ p.rig.global.matchTolerance
    (pickCandidate p y stamp g = none ↔ ∀ i, ¬candidate i) ∧
    ∀ c, pickCandidate p y stamp g = some c → candidate c ∧ ∀ i, candidate i →
      distance c < distance i ∨
        (distance c = distance i ∧ stampDiff (p.slot y c).startStamp (p.slot y i).startStamp ≤ 0)

/-- A frame start with no frame open, no section posted, a FREE slot and a partner in reach (the candidate picked, which
FrameStartOpensASlot describes): the two slots are linked under the next pair number, the partner's match timer stops and a
FORMING record joins the tail of the pair queue with the link skew (R37, R48, R51). Model's own: notes/assumptions/7.md. -/
def Obligations.FrameStartLinksAPair : Prop :=
  ∀ (x : Eye) (stamp : Stamp) (i c n : Nat) (rest : List StreamNotice) (s : State), s.hw.resetAsserted = false →
    s.hw.sync.streamNotices.get x = .frameStart stamp :: rest →
    (s.hw.stream x).state = .between ∨ (s.hw.stream x).state = .spill → s.hw.post (.eye x) ≠ .posted →
    lowestFree (s.hw.slots.get x) = some i →
    s.hw.pairs.nextNumber = some n → pickCandidate s.hw x.other stamp (s.hw.eyeSettings x).geom = some c →
    let number := (s.hw.stream x).frameNumber + 1
    let other := s.hw.slot x.other c
    ∃ t : State, exec (.frameStart x) s = .next t ∧ t.pending = s.pending ∧
      t.hw.stream x = { state := .open, frameNumber := number, currentSlot := some i, cursor := 0,
                        geom := (s.hw.eyeSettings x).geom, completed := false } ∧
      (t.hw.slot x i).state = .filling ∧ (t.hw.slot x i).partner = some c ∧ (t.hw.slot x i).pairNumber = some n ∧
      (t.hw.slot x i).pairTake = some s.hw.take ∧ (t.hw.slot x i).frameNumber = number ∧
      t.hw.slot x.other c = { other with partner := some i, pairNumber := some n, pairTake := some s.hw.take } ∧
      t.hw.matchTimer x.other c = .stopped ∧
      t.hw.pairs.nextNumber = (if n < 4294967295 then some (n + 1) else none) ∧
      t.hw.pairs.queue = s.hw.pairs.queue ++
        [{ number := n, take := s.hw.take, stale := false,
           leftSlot := (match x with | .left => i | .right => c), rightSlot := (match x with | .left => c | .right => i),
           leftFrame := (match x with | .left => number | .right => other.frameNumber),
           rightFrame := (match x with | .left => other.frameNumber | .right => number),
           linkSkew := (match x with
             | .left => stampDiff other.startStamp stamp
             | .right => stampDiff stamp other.startStamp),
           geom := (match x with | .left => (s.hw.eyeSettings x).geom.shared | .right => other.geom.shared),
           state := .forming, damage := Damage.none, holders := 0, readyStamp := none }] ∧
      t.hw.rig = s.hw.rig ∧ t.hw.readers = s.hw.readers ∧ t.hw.req = s.hw.req ∧ t.hw.txn = s.hw.txn ∧ t.hw.skew = s.hw.skew

/-- Whatever stood open, a frame start that finds the stream in BETWEEN, OPEN or SPILL and no section posted leaves the stream
with the next frame number, the active geometry and the completed mark clear: in OPEN at cursor 0, or in SPILL with no slot
(R8 to R10, R27). A frame still open in FILLING, unlinked here, is abandoned TRUNCATED, and its slot drains while pieces of it
are outstanding (R8, R34, R36). A frame linked in a FORMING pair takes its partner with it, which is abandoned PARTNER_LOST,
one FRAME_LOST record for each (R35, R57; no reader with policy EVERY has parked reads); whatever the slot and its pair, the
rest is as from BETWEEN once the frame is abandoned (R8), and what an abandonment does, SlotTimersAbandonUnlinkedFrames says.
With no frame open and no FREE slot a retirement run is made; if that frees a slot the frame opens in the lowest, and
otherwise the request is refused STARVED: counted, flagged and recorded with no slot and no pair number, the stream in SPILL
(R10, R27). Model's own: notes/assumptions/7.md. -/
def Obligations.FrameStartNumbersTheFrame : Prop :=
  (∀ (x : Eye) (stamp : Stamp) (rest : List StreamNotice) (s : State), s.hw.resetAsserted = false →
    s.hw.sync.streamNotices.get x = .frameStart stamp :: rest →
    (s.hw.stream x).state ≠ .off → (s.hw.stream x).state ≠ .waitingSync → s.hw.post (.eye x) ≠ .posted →
    ∃ t : State, exec (.frameStart x) s = .next t ∧ t.pending = s.pending ∧
      (t.hw.stream x).frameNumber = (s.hw.stream x).frameNumber + 1 ∧
      (t.hw.stream x).geom = (s.hw.eyeSettings x).geom ∧ (t.hw.stream x).completed = false ∧
      ((∃ i, (t.hw.stream x).state = .open ∧ (t.hw.stream x).currentSlot = some i ∧ (t.hw.stream x).cursor = 0) ∨
        ((t.hw.stream x).state = .spill ∧ (t.hw.stream x).currentSlot = none))) ∧
  (∀ (x : Eye) (stamp : Stamp) (i : Nat) (rest : List StreamNotice) (s : State), s.hw.resetAsserted = false →
    s.hw.sync.streamNotices.get x = .frameStart stamp :: rest → s.hw.report.counters.length = 20 →
    (s.hw.stream x).state = .open → (s.hw.stream x).currentSlot = some i → i < (s.hw.slots.get x).length →
    (s.hw.slot x i).state = .filling → recordOf s.hw x i = none → s.hw.post (.eye x) ≠ .posted →
    s.hw.report.queue.length < 16 →
    ∃ t : State, exec (.frameStart x) s = .next t ∧ t.pending = s.pending ∧
      t.hw.count (.lost .truncated) = s.hw.count (.lost .truncated) + 1 ∧
      t.hw.report.flags.getLsbD EventFlag.frameLost.bit = true ∧
      (∃ later, t.hw.report.queue = s.hw.report.queue ++
        { seq := s.hw.report.seq, stamp := (s.hw.slot x i).startStamp, take := (s.hw.slot x i).pairTake.getD s.hw.take,
          body := .frameLost .truncated (s.hw.slot x i).frameNumber (s.hw.slot x i).pairNumber x (some i)
            (s.hw.slot x i).endReached } :: later) ∧
      ((s.hw.slot x i).writes ≠ 0 ∨ (s.hw.slot x i).reads ≠ 0 ∨ (s.hw.slot x i).quarantined ≠ 0 →
        t.hw.slot x i = { s.hw.slot x i with state := .draining, frameTimer := .stopped } ∧
          t.hw.matchTimer x i = .stopped) ∧
      ((s.hw.slot x i).writes = 0 ∧ (s.hw.slot x i).reads = 0 ∧ (s.hw.slot x i).quarantined = 0 →
        (t.hw.stream x).state = .open)) ∧
  (∀ (x : Eye) (stamp : Stamp) (i j : Nat) (q : PairRecord) (rest : List StreamNotice) (s : State),
    s.hw.resetAsserted = false → s.hw.sync.streamNotices.get x = .frameStart stamp :: rest → s.hw.report.counters.length = 20 →
    (s.hw.stream x).state = .open → (s.hw.stream x).currentSlot = some i → i < (s.hw.slots.get x).length →
    (s.hw.slot x i).state = .filling → s.hw.post (.eye x) ≠ .posted →
    recordOf s.hw x i = some q → q.state = .forming → q.slotOf x.other = j → j < (s.hw.slots.get x.other).length →
    (s.hw.slot x.other j).state.live = true → (s.hw.slot x.other j).partner ≠ none →
    (∀ k ∈ s.hw.readers.parkList, (s.hw.readerSettings k.reader).policy = .latest) → s.hw.report.queue.length + 2 ≤ 16 →
    let own := s.hw.slot x i
    let partner := s.hw.slot x.other j
    ∃ t : State, exec (.frameStart x) s = .next t ∧ t.pending = s.pending ∧
      (t.hw.stream x).frameNumber = (s.hw.stream x).frameNumber + 1 ∧
      t.hw.stream x.other =
        (if partner.state = .filling ∧ (s.hw.stream x.other).state = .open ∧
            (s.hw.stream x.other).currentSlot = some j then
          { s.hw.stream x.other with state := .spill, currentSlot := none } else s.hw.stream x.other) ∧
      t.hw.slot x.other j = SlotRecord.freeIfDrained { partner with state := .draining, frameTimer := .stopped } ∧
      t.hw.matchTimer x.other j = .stopped ∧
      (∀ k ∈ s.hw.pairs.queue, k.state = .forming → k ≠ q → k ∈ t.hw.pairs.queue) ∧
      t.hw.count (.lost .truncated) = s.hw.count (.lost .truncated) + 1 ∧
      t.hw.count (.lost .partnerLost) = s.hw.count (.lost .partnerLost) + 1 ∧
      t.hw.report.flags.getLsbD EventFlag.frameLost.bit = true ∧
      (∃ later, t.hw.report.queue = s.hw.report.queue ++
        { seq := s.hw.report.seq, stamp := partner.startStamp, take := partner.pairTake.getD s.hw.take,
          body := .frameLost .partnerLost partner.frameNumber partner.pairNumber x.other (some j) partner.endReached } ::
        { seq := s.hw.report.seq + 1, stamp := own.startStamp, take := own.pairTake.getD s.hw.take,
          body := .frameLost .truncated own.frameNumber own.pairNumber x (some i) own.endReached } :: later) ∧
      (own.writes ≠ 0 ∨ own.reads ≠ 0 ∨ own.quarantined ≠ 0 →
        t.hw.slot x i = { own with state := .draining, frameTimer := .stopped } ∧ t.hw.matchTimer x i = .stopped)) ∧
  (∀ (x : Eye) (stamp : Stamp) (i : Nat) (rest : List StreamNotice) (s : State), s.hw.resetAsserted = false →
    s.hw.sync.streamNotices.get x = .frameStart stamp :: rest → (s.hw.stream x).state = .open →
    (s.hw.stream x).currentSlot = some i → s.hw.post (.eye x) ≠ .posted →
    let gone := abandon x i .truncated { s.hw with
      sync := { s.hw.sync with streamNotices := s.hw.sync.streamNotices.set x rest } }
    let closed : Part := { gone with
      sync := s.hw.sync
      streams := gone.streams.set x { gone.stream x with state := .between, currentSlot := none } }
    ∃ t u : State, exec (.frameStart x) s = .next t ∧ exec (.frameStart x) { s with hw := closed } = .next u ∧
      t.hw.SameButMark u.hw ∧ t.pending = s.pending) ∧
  ∀ (x : Eye) (stamp : Stamp) (rest : List StreamNotice) (s : State), s.hw.resetAsserted = false →
    s.hw.sync.streamNotices.get x = .frameStart stamp :: rest → s.hw.report.counters.length = 20 →
    (s.hw.stream x).state = .between ∨ (s.hw.stream x).state = .spill → s.hw.post (.eye x) ≠ .posted →
    (∀ r ∈ s.hw.slots.get x, r.state ≠ .free) →
    let run := (evaluateRetirement s.hw).slots
    let number := (s.hw.stream x).frameNumber + 1
    (∀ i, (∃ r, (run.get x)[i]? = some r ∧ r.state = .free) → (∀ r ∈ (run.get x).take i, r.state ≠ .free) →
      ∃ t : State, exec (.frameStart x) s = .next t ∧ t.pending = s.pending ∧ (t.hw.stream x).state = .open ∧
        (t.hw.stream x).currentSlot = some i ∧ (t.hw.slot x i).state = .filling ∧ (t.hw.slot x i).frameNumber = number ∧
        t.hw.report.flags = s.hw.report.flags) ∧
    ((∀ r ∈ run.get x, r.state ≠ .free) →
      ∃ t : State, exec (.frameStart x) s = .next t ∧ t.pending = s.pending ∧
        t.hw.stream x =
          { s.hw.stream x with
            state := .spill, frameNumber := number, currentSlot := none, geom := (s.hw.eyeSettings x).geom,
            completed := false } ∧
        t.hw.slots = run ∧ t.hw.pairs.queue = (evaluateRetirement s.hw).pairs.queue ∧
        t.hw.pairs.matchTimers = s.hw.pairs.matchTimers ∧
        t.hw.count (.lost .starved) = s.hw.count (.lost .starved) + 1 ∧
        t.hw.report.flags.getLsbD EventFlag.frameLost.bit = true ∧
        (s.hw.report.queue.length < 16 → t.hw.report.queue = s.hw.report.queue ++
          [{ seq := s.hw.report.seq, stamp := stamp, take := s.hw.take,
             body := .frameLost .starved number none x none false }]))

/-- A frame start that latches an EYE section with its enable clear takes no slot and ends in OFF, the frame number unchanged
(R7). A matching check word of an EYE section latches it at once while the stream is OFF or WAITING_SYNC: valid settings come
into force, an OFF stream whose eye they enable goes to BETWEEN or WAITING_SYNC by the lock of the eye, a disabled one goes to
OFF, and a changed pool layout forms new slots, all FREE; settings that fail a check are rejected and change nothing else (R4,
R44, R174, R175). A posted section latches when the stream enters WAITING_SYNC at a departure, or is rejected there (R6; from
OPEN, once the frame is abandoned as LockLostAbandonsTheOpenFrame says). At a frame start in BETWEEN, OPEN or SPILL a posted
section that fails is rejected and the frame starts with the settings in force; one that passes and keeps the eye enabled is
in force before the frame starts; one that disables the eye in OPEN has the open frame abandoned TRUNCATED and ends in OFF
(R7, R8). The check word write of the second clause covers no other check word. Model's own: notes/assumptions/7.md, 8.md. -/
def Obligations.FrameStartDisablesTheEye : Prop :=
  (∀ (x : Eye) (stamp : Stamp) (e : EyeSettings) (rest : List StreamNotice) (s : State), s.hw.resetAsserted = false →
    s.hw.sync.streamNotices.get x = .frameStart stamp :: rest →
    (s.hw.stream x).state = .between ∨ (s.hw.stream x).state = .spill → s.hw.post (.eye x) = .posted →
    validateEye s.hw x (s.hw.staged (.eye x)) = .ok e → e.enable = false →
    exec (.frameStart x) s = .next { s with hw := markChanged s.hw { s.hw with
      sync := { s.hw.sync with streamNotices := s.hw.sync.streamNotices.set x rest }
      streams := s.hw.streams.set x { s.hw.stream x with state := .off, currentSlot := none, completed := false }
      rig := { s.hw.rig with
        eye := s.hw.rig.eye.set x e
        shadow := s.hw.rig.shadow.set (.eye x) { s.hw.rig.shadow.get (.eye x) with post := .unposted } } } }) ∧
  (∀ (x : Eye) (q : Request) (k o : Nat) (s : State), s.hw.resetAsserted = false → s.hw.Accepts q k .rig o →
    q.kind = .write → q.Whole → s.hw.rig.partState = .running → (∀ j, touchesCheck o q.length j = true ↔ j = .eye x) →
    (s.hw.stream x).state = .off ∨ (s.hw.stream x).state = .waitingSync →
    let words := (writeShadow o q.data s.hw).staged (.eye x)
    checkMatches words = true →
    ∃ t : State, exec .checkWordWrite s = .next t ∧ t.pending = s.pending ∧
      (∀ e, validateEye s.hw x words = .ok e →
        t.hw.rig = { s.hw.rig with shadow := t.hw.rig.shadow, eye := s.hw.rig.eye.set x e } ∧ t.hw.post (.eye x) = .unposted ∧
        t.hw.stream x = { s.hw.stream x with
          state :=
            if e.enable = false then .off
            else if (s.hw.stream x).state = .off ∧ (s.hw.acq x).state = .locked then .between
            else .waitingSync
          completed := false } ∧
        t.hw.slots =
          (if e.poolBase = (s.hw.eyeSettings x).poolBase ∧ e.slotCount = (s.hw.eyeSettings x).slotCount ∧
              e.slotStride = (s.hw.eyeSettings x).slotStride then s.hw.slots
           else s.hw.slots.set x (List.replicate e.slotCount SlotRecord.free)) ∧
        t.hw.report.flags = s.hw.report.flags) ∧
      (∀ reason, validateEye s.hw x words = .error reason →
        t.hw.rig = { s.hw.rig with shadow := t.hw.rig.shadow } ∧ t.hw.post (.eye x) = .rejected ∧
        t.hw.stream x = s.hw.stream x ∧ t.hw.slots = s.hw.slots ∧
        t.hw.report.flags.getLsbD EventFlag.configRejected.bit = true ∧
        (s.hw.report.queue.length < 16 → t.hw.report.queue = s.hw.report.queue ++
          [{ seq := s.hw.report.seq, stamp := s.hw.now, take := s.hw.take,
             body := .configRejected reason (.eye x) false }])) ∧
      t.hw.stream x.other = s.hw.stream x.other ∧ t.hw.pairs = s.hw.pairs ∧ t.hw.readers = s.hw.readers ∧
      t.hw.skew = s.hw.skew ∧ t.hw.sync = s.hw.sync) ∧
  (∀ (x : Eye) (stamp : Stamp) (rest : List StreamNotice) (s : State), s.hw.resetAsserted = false →
    s.hw.sync.streamNotices.get x = .frameStart stamp :: rest →
    (s.hw.stream x).state ≠ .off → (s.hw.stream x).state ≠ .waitingSync → s.hw.post (.eye x) = .posted →
    let latched (e : EyeSettings) : Part := { s.hw with
      rig := { s.hw.rig with
        eye := s.hw.rig.eye.set x e
        shadow := s.hw.rig.shadow.set (.eye x) { s.hw.rig.shadow.get (.eye x) with post := .unposted } } }
    (∀ reason, validateEye s.hw x (s.hw.staged (.eye x)) = .error reason →
      ∃ t u : State, exec (.frameStart x) s = .next t ∧
        exec (.frameStart x) { s with hw := s.hw.withRejected (.eye x) reason false } = .next u ∧
        t.hw.SameButMark u.hw ∧ t.pending = s.pending) ∧
    (∀ e, validateEye s.hw x (s.hw.staged (.eye x)) = .ok e → e.enable = true →
      ∃ t u : State, exec (.frameStart x) s = .next t ∧ exec (.frameStart x) { s with hw := latched e } = .next u ∧
        t.hw.SameButMark u.hw ∧ t.pending = s.pending) ∧
    (∀ e i, validateEye s.hw x (s.hw.staged (.eye x)) = .ok e → e.enable = false → (s.hw.stream x).state = .open →
      (s.hw.stream x).currentSlot = some i →
      let gone := abandon x i .truncated { latched e with
        sync := { s.hw.sync with streamNotices := s.hw.sync.streamNotices.set x rest } }
      exec (.frameStart x) s = .next { s with hw := markChanged s.hw { gone with
        streams := gone.streams.set x { gone.stream x with state := .off, currentSlot := none, completed := false } } })) ∧
  (∀ (x : Eye) (reason : RejectReason) (rest : List StreamNotice) (s : State), s.hw.resetAsserted = false →
    s.hw.sync.streamNotices.get x = .lockLost :: rest →
    (s.hw.stream x).state = .between ∨ (s.hw.stream x).state = .spill → s.hw.post (.eye x) = .posted →
    validateEye s.hw x (s.hw.staged (.eye x)) = .error reason →
    let waiting : Part := { s.hw with
      sync := { s.hw.sync with streamNotices := s.hw.sync.streamNotices.set x rest }
      streams := s.hw.streams.set x { s.hw.stream x with state := .waitingSync, completed := false } }
    exec (.lockLost x) s = .next { s with hw := markChanged s.hw (waiting.withRejected (.eye x) reason false) }) ∧
  ∀ (x : Eye) (e : EyeSettings) (rest : List StreamNotice) (s : State), s.hw.resetAsserted = false →
    s.hw.sync.streamNotices.get x = .lockLost :: rest →
    (s.hw.stream x).state = .between ∨ (s.hw.stream x).state = .spill → s.hw.post (.eye x) = .posted →
    validateEye s.hw x (s.hw.staged (.eye x)) = .ok e →
    exec (.lockLost x) s = .next { s with hw := markChanged s.hw { s.hw with
      sync := { s.hw.sync with streamNotices := s.hw.sync.streamNotices.set x rest }
      streams := s.hw.streams.set x
        { s.hw.stream x with state := if e.enable = true then .waitingSync else .off, completed := false }
      rig := { s.hw.rig with
        eye := s.hw.rig.eye.set x e
        shadow := s.hw.rig.shadow.set (.eye x) { s.hw.rig.shadow.get (.eye x) with post := .unposted } } } }

/-! ### Skew and trim -/

/-- A lock notice sets the eye's lock view; a departure notice clears it, drops the eye's latest pulse, sets the seed mark,
clears WARN and FAULT without an event and sets both counts to 0. F, the last sample and T stay (R126). Of the pulses handed
over only an accepted one is used (R127): it becomes the eye's latest pulse, unused while it finds no partner; a period fault
or an acquisition pulse leaves the skew unit as it is. Model's own: notes/assumptions/7.md. -/
def Obligations.SkewNoticesAndUnusedPulses : Prop :=
  (∀ (x : Eye) (rest : List SkewNotice) (s : State), s.hw.resetAsserted = false →
    let told : SyncUnit := { s.hw.sync with skewNotices := s.hw.sync.skewNotices.set x rest }
    (s.hw.sync.skewNotices.get x = .lock :: rest →
      exec (.skewLockNotice x) s = .next { s with hw := markChanged s.hw { s.hw with
        sync := told, skew := { s.hw.skew with lockView := s.hw.skew.lockView.set x true } } }) ∧
    (s.hw.sync.skewNotices.get x = .departure :: rest →
      exec (.skewDepartureNotice x) s = .next { s with hw := markChanged s.hw { s.hw with
        sync := told
        skew := { s.hw.skew with
          lockView := s.hw.skew.lockView.set x false, latest := s.hw.skew.latest.set x none, seed := true, warn := false,
          fault := false, sampleCount := 0, satCount := 0 } } })) ∧
  ∀ (x : Eye) (stamp : Stamp) (outcome : PulseOutcome) (reference : Option Int) (rest : List SkewNotice) (s : State),
    s.hw.resetAsserted = false → s.hw.sync.skewNotices.get x = .pulse stamp outcome reference :: rest →
    let told : SyncUnit := { s.hw.sync with skewNotices := s.hw.sync.skewNotices.set x rest }
    (outcome ≠ .accepted →
      exec (.skewPulseHandover x) s = .next { s with hw := markChanged s.hw { s.hw with sync := told } }) ∧
    (outcome = .accepted →
      (∀ o period, s.hw.skew.lockView = ⟨true, true⟩ → s.hw.rig.partState = .running →
        s.hw.skew.latest.get x.other = some { stamp := o, used := false } → reference = some period →
        period < 2 * (stampDiff stamp o).natAbs) →
      exec (.skewPulseHandover x) s = .next { s with hw := markChanged s.hw { s.hw with
        sync := told
        skew := { s.hw.skew with latest := s.hw.skew.latest.set x (some { stamp := stamp, used := false }) } } })

/-- An accepted pulse and the other eye's unused pulse form a sample d, RIGHT minus LEFT: both pulses are used, the filter is
seeded or moved by (d − F) ÷ 2^k, rounded toward zero, in 1/256 tick, and WARN and FAULT follow their limits (R127 to R129).
Each entry into a limit raises its SKEW_EVENT and sets its flag, each leaving raises its SKEW_EVENT, in the order WARN_ENTER,
FAULT_ENTER, FAULT_LEAVE, WARN_LEAVE; the records carry the new F, d, the target and T as it stood before any trim update, and
only TRIM_SATURATED may follow them (R129, R134). Model's own: notes/assumptions/7.md. -/
def Obligations.SkewSampleMovesTheFilter : Prop :=
  ∀ (x : Eye) (stamp o : Stamp) (period : Int) (rest : List SkewNotice) (s : State), s.hw.resetAsserted = false →
    s.hw.sync.skewNotices.get x = .pulse stamp .accepted (some period) :: rest →
    s.hw.skew.lockView = ⟨true, true⟩ → s.hw.rig.partState = .running →
    s.hw.skew.latest.get x.other = some { stamp := o, used := false } → 2 * (stampDiff stamp o).natAbs ≤ period →
    let y := s.hw.rig.sync
    let d := match x with | .right => stampDiff stamp o | .left => stampDiff o stamp
    let f := if s.hw.skew.seed then 256 * d else s.hw.skew.f + Int.tdiv (256 * d - s.hw.skew.f) (2 ^ y.filterShift)
    let e := (f - 256 * y.target).natAbs
    ∃ t : State, exec (.skewPulseHandover x) s = .next t ∧ t.pending = s.pending ∧
      t.hw.skew.d = some d ∧ t.hw.skew.f = f ∧ t.hw.skew.seed = false ∧ t.hw.skew.lockView = s.hw.skew.lockView ∧
      t.hw.skew.latest.get x = some { stamp := stamp, used := true } ∧
      t.hw.skew.latest.get x.other = some { stamp := o, used := true } ∧
      (t.hw.skew.warn = true ↔
        if s.hw.skew.warn then 256 * ((y.warnLimit : Int) - y.hysteresis) < e else 256 * y.warnLimit < e) ∧
      (t.hw.skew.fault = true ↔
        if s.hw.skew.fault then 256 * ((y.faultLimit : Int) - y.hysteresis) < e else 256 * y.faultLimit < e) ∧
      t.hw.report.flags.getLsbD EventFlag.skewWarn.bit =
        (s.hw.report.flags.getLsbD EventFlag.skewWarn.bit || (!s.hw.skew.warn && t.hw.skew.warn)) ∧
      t.hw.report.flags.getLsbD EventFlag.skewFault.bit =
        (s.hw.report.flags.getLsbD EventFlag.skewFault.bit || (!s.hw.skew.fault && t.hw.skew.fault)) ∧
      (s.hw.report.queue.length ≤ 13 →
        let events : List SkewEventKind :=
          (if !s.hw.skew.warn && t.hw.skew.warn then [.warnEnter] else []) ++
            (if !s.hw.skew.fault && t.hw.skew.fault then [.faultEnter] else []) ++
            (if s.hw.skew.fault && !t.hw.skew.fault then [.faultLeave] else []) ++
            (if s.hw.skew.warn && !t.hw.skew.warn then [.warnLeave] else [])
        ∃ raised : List ReportRecord, t.hw.report.queue = s.hw.report.queue ++ raised ∧
          (∀ r ∈ raised, r.stamp = s.hw.now ∧ r.take = s.hw.take) ∧
          (raised.map (·.body) = events.map (fun k => .skewEvent k f s.hw.skew.trim (some d) y.target) ∨
            raised.map (·.body) = events.map (fun k => .skewEvent k f s.hw.skew.trim (some d) y.target) ++
              [.skewEvent .trimSaturated f t.hw.skew.trim (some d) y.target])) ∧
      t.hw.sync = { s.hw.sync with skewNotices := s.hw.sync.skewNotices.set x rest } ∧
      t.hw.streams = s.hw.streams ∧ t.hw.slots = s.hw.slots ∧ t.hw.pairs = s.hw.pairs ∧ t.hw.readers = s.hw.readers ∧
      t.hw.req = s.hw.req ∧ t.hw.txn = s.hw.txn ∧ t.hw.rig = s.hw.rig

/-- After a sample the trim value moves only if the samples counted have reached the divider: by the error beyond the dead
band times the gain, against its sign for the RIGHT follower, limited by the slew rates unless direct-on-fault is in force,
and clamped to the trim bounds (R131 to R133). A changed trim value starts a word at an IDLE sender and is pending at another
(R137). An update at a trim bound with the error above the warn limit raises the saturation count, up to 16, and the 16th in a
row sets TRIM_SATURATED with its record; any other update clears the count (R134). Model's own: notes/assumptions/7.md. -/
def Obligations.SkewSampleTrims : Prop :=
  ∀ (x : Eye) (stamp o : Stamp) (period : Int) (rest : List SkewNotice) (s : State), s.hw.resetAsserted = false →
    s.hw.sync.skewNotices.get x = .pulse stamp .accepted (some period) :: rest →
    s.hw.skew.lockView = ⟨true, true⟩ → s.hw.rig.partState = .running →
    s.hw.skew.latest.get x.other = some { stamp := o, used := false } → 2 * (stampDiff stamp o).natAbs ≤ period →
    ∃ t : State, exec (.skewPulseHandover x) s = .next t ∧
    let y := s.hw.rig.sync
    let e0 := t.hw.skew.f - 256 * y.target
    let e := match y.follower with | .right => e0 | .left => -e0
    let gained := match y.gain with
      | .off => 0 | .one => Int.tdiv e 256 | .half => Int.tdiv e 512 | .quarter => Int.tdiv e 1024 | .eighth => Int.tdiv e 2048
    let wanted := if e.natAbs ≤ 256 * y.deadBand then 0 else -gained
    let limited := if t.hw.skew.fault && y.directOnFault then wanted else max (-(y.downRate : Int)) (min wanted y.upRate)
    let saturated := (t.hw.skew.trim = y.trimMin ∨ t.hw.skew.trim = y.trimMax) ∧ 256 * y.warnLimit < e0.natAbs
    let flag (p : Part) := p.report.flags.getLsbD EventFlag.trimSaturated.bit
    (s.hw.skew.sampleCount + 1 < y.divider →
      t.hw.skew.trim = s.hw.skew.trim ∧ t.hw.skew.sampleCount = s.hw.skew.sampleCount + 1 ∧
        t.hw.skew.sender = s.hw.skew.sender ∧ t.hw.skew.satCount = s.hw.skew.satCount ∧ flag t.hw = flag s.hw) ∧
    (y.divider ≤ s.hw.skew.sampleCount + 1 → y.trimMin ≤ y.trimMax →
      t.hw.skew.trim = max y.trimMin (min (s.hw.skew.trim + limited) y.trimMax) ∧ t.hw.skew.sampleCount = 0 ∧
      (t.hw.skew.trim = s.hw.skew.trim → t.hw.skew.sender = s.hw.skew.sender) ∧
      (t.hw.skew.trim ≠ s.hw.skew.trim → s.hw.skew.sender.state = .idle →
        t.hw.skew.sender =
          { s.hw.skew.sender with state := .sending, word := some t.hw.skew.trim, timer := .running 4000 }) ∧
      (t.hw.skew.trim ≠ s.hw.skew.trim → s.hw.skew.sender.state ≠ .idle →
        t.hw.skew.sender = { s.hw.skew.sender with pending := true }) ∧
      (¬saturated → t.hw.skew.satCount = 0 ∧ flag t.hw = flag s.hw) ∧
      (saturated → t.hw.skew.satCount = min (s.hw.skew.satCount + 1) 16) ∧
      (saturated → s.hw.skew.satCount ≠ 15 → flag t.hw = flag s.hw) ∧
      (saturated → s.hw.skew.satCount = 15 → flag t.hw = true ∧
        (s.hw.report.queue.length ≤ 13 → ∃ r, t.hw.report.queue.getLast? = some r ∧
          r.body = .skewEvent .trimSaturated t.hw.skew.f t.hw.skew.trim t.hw.skew.d y.target)))

/-- The trim sender: the end of the 16th bit records the value sent and starts the 4 us gap; the end of the gap sends T where
it changed meanwhile to a value other than the one last sent, and goes IDLE otherwise (R136, R137). While SENDING, TRIM_D is
the bit of the word that is being sent, type 0x5 and twelve bits of the value, most significant first, and TRIM_CK is high in
the second half of each 1 us bit period; in the other states both are low (R136, R139). Model's own: notes/assumptions/2.md,
25.md, 41.md. -/
def Obligations.TrimSenderTurns : Prop :=
  (∀ (s : State) (r : Nat), s.hw.resetAsserted = false → s.hw.skew.sender.timer = .running r →
    let q := passTime r s.hw
    let sender := s.hw.skew.sender
    (sender.state = .sending →
      exec .trimWordEnd s = .next { s with hw := markChanged s.hw { q with skew := { q.skew with
        sender :=
          { state := .gap, word := none, lastSent := sender.word, pending := sender.pending, timer := .running 1000 } } } }) ∧
    (sender.state = .gap → sender.pending = true → sender.lastSent ≠ some s.hw.skew.trim →
      exec .trimGapEnd s = .next { s with hw := markChanged s.hw { q with skew := { q.skew with
        sender :=
          { state := .sending, word := some s.hw.skew.trim, lastSent := sender.lastSent, pending := false,
            timer := .running 4000 } } } }) ∧
    (sender.state = .gap → sender.pending = false ∨ sender.lastSent = some s.hw.skew.trim →
      exec .trimGapEnd s = .next { s with hw := markChanged s.hw { q with skew := { q.skew with
        sender :=
          { state := .idle, word := sender.word, lastSent := sender.lastSent, pending := false, timer := .stopped } } } })) ∧
  ∀ p : Part,
    (p.skew.sender.state ≠ .sending → p.trimD = false ∧ p.trimCk = false) ∧
    ∀ (t : Int) (r : Nat), p.skew.sender.state = .sending → p.skew.sender.word = some t → p.skew.sender.timer = .running r →
      0 < r → r ≤ 4000 →
      p.trimD = (BitVec.ofNat 16 (0x5000 + (BitVec.ofInt 12 t).toNat)).getLsbD (15 - (4000 - r) / 250) ∧
      (p.trimCk = true ↔ 125 ≤ (4000 - r) % 250)

/-! ### The request path -/

/-- What the ports accept. P-port: an offered request joins the tail of the intake queue while it holds fewer than 32, and is
left with the processor side otherwise (R142). P-port: the offered response is taken, its entry is unused again and the next
in line is offered, that of the entry that finished next (R155). M-port: the request on the output is taken, the output is
free and the tag goes from OFFERED to IN_FLIGHT with the M-timeout in force (R162). Model's own: notes/assumptions/1.md, 9.md. -/
def Obligations.PortsAcceptRecords : Prop :=
  (∀ (header : BitVec 128) (data : List Byte) (s : State), s.hw.resetAsserted = false →
    (s.hw.req.intake.length < 32 →
      exec (.requestAccept header data) s = .next { s with hw := markChanged s.hw { s.hw with
        req := { s.hw.req with intake := s.hw.req.intake ++ [parseRequest header data] } } }) ∧
    (32 ≤ s.hw.req.intake.length → exec (.requestAccept header data) s = .next s)) ∧
  (∀ (e : Nat) (rest : List Nat) (s : State), s.hw.resetAsserted = false →
    (s.hw.req.returning = e :: rest →
      exec .responseAccept s = .next { s with hw := markChanged s.hw { s.hw with
        req := { s.hw.req with table := s.hw.req.table.set e none, returning := rest } } }) ∧
    (s.hw.req.returning = e :: rest → s.hw.offeredResponse = s.hw.entry e) ∧
    (s.hw.req.returning = [] → exec .responseAccept s = .next s)) ∧
  ∀ (out : MOut) (te : TagEntry) (s : State), s.hw.resetAsserted = false → s.hw.txn.output = some out →
    s.hw.tag out.tag = some te →
    exec .mportAccept s = .next { s with hw := markChanged s.hw { s.hw with
      txn := { s.hw.txn with
        tags := s.hw.txn.tags.set out.tag
          (some { te with state := .inFlight, timer := .running (s.hw.rig.global.mTimeout * 250) })
        output := none } } }

/-- The fields of a request record: kind, source tag, transaction tag and length from their bytes, the address from bytes 8 to
12, the length field holding the length minus one (R141, R187). So for every header; its stray mark is set exactly where a bit
outside the fields is set: bits 7:6 of byte 1, byte 3, bits 7:1 of byte 5, bytes 6 and 7, and bytes 13 to 15 (R144 check 1,
R187). Model's own: notes/assumptions/1.md, 9.md. -/
def Obligations.RequestRecordsAreReadByTheirBytes : Prop :=
  (∀ (kind source ttag : Nat) (address length : Nat) (data : List Byte), kind < 2 → source < 64 → ttag < 256 →
    address < 2 ^ 40 → 1 ≤ length → length ≤ 512 → (kind = 1 → data.length = length) →
    let q := parseRequest
      (BitVec.ofNat 128 (kind + source * 2 ^ 8 + ttag * 2 ^ 16 + (length - 1) * 2 ^ 32 + address * 2 ^ 64)) data
    q.kindByte.toNat = kind ∧ q.source.toNat = source ∧ q.ttag.toNat = ttag ∧ q.addr.toNat = address ∧ q.length = length ∧
      q.stray = false ∧ (kind = 1 → q.data = data) ∧ q.Whole) ∧
  ∀ (header : BitVec 128) (data : List Byte),
    let q := parseRequest header data
    q.kindByte = header.extractLsb' 0 8 ∧ q.source = header.extractLsb' 8 6 ∧ q.ttag = header.extractLsb' 16 8 ∧
      q.addr = header.extractLsb' 64 40 ∧ q.length = (header.extractLsb' 32 9).toNat + 1 ∧
      (q.kindByte ≠ 1 → q.data = []) ∧ (q.kindByte = 1 → data.length = q.length → q.data = data) ∧
      (q.stray = true ↔ ∃ i : Nat, header.getLsbD i = true ∧
        ((14 ≤ i ∧ i ≤ 15) ∨ (24 ≤ i ∧ i ≤ 31) ∨ (41 ≤ i ∧ i ≤ 63) ∨ (104 ≤ i ∧ i ≤ 127)))

/-- What refuses a request: the checks of R144, no more and no less. A request that fails one is answered REJECTED at once and
counted, a READ with fill data (R144), in the lowest unused entry, which holds the class POOL for a POOL request and refused
for every other (the model's choices, notes/assumptions/10.md, 39.md). Classes: a request all of whose bytes lie in one of the
ranges of R146 is of its class, one that touches none of them is OTHER, and any other straddles (R146). The fill pattern has
the low-order byte of the fill value at even addresses and the high-order byte at odd ones (R69, R154). Model's own:
notes/assumptions/8.md. -/
def Obligations.RequestsThatFailACheckAreRejected : Prop :=
  (∀ (p : Part) (q : Request), isRefused p q = true ↔
    q.source.toNat = 63 ∨ (q.kindByte ≠ 0 ∧ q.kindByte ≠ 1) ∨ q.stray = true ∨
    (∃ v : Entry, some v ∈ p.req.table ∧ v.source = q.source ∧ v.ttag = q.ttag) ∨
    2 ^ 40 < q.addr.toNat + q.length ∨
    (p.rig.partState = .loading ∧ ∀ base, classify p q ≠ some (.rig, base)) ∨
    classify p q = none ∨ (∃ base, classify p q = some (.pool, base)) ∨
    (∃ base, classify p q = some (.refused, base)) ∨ ((∃ base, classify p q = some (.pair, base)) ∧ q.kind = .write)) ∧
  (∀ (q : Request) (e : Nat) (s : State), s.hw.resetAsserted = false → s.hw.Head q e → isRefused s.hw q = true →
    let cls : ReqClass := match classify s.hw q with
      | some (.pool, _) => .pool
      | _ => .refused
    let answer : Entry :=
      { state := .inProgress, kind := q.kind, source := q.source, ttag := q.ttag, addr := q.addr, length := q.length,
        cls := cls, offset := 0, outstanding := 0, code := .rejected, data := s.hw.fillFor q }
    let counted := raise .rejected s.hw
    exec .refusedRequest s =
      .next { s with hw := markChanged s.hw { counted with req := s.hw.req.answered e answer } }) ∧
  (∀ (p : Part) (q : Request), p.RegionsApart → 1 ≤ q.length →
    let eye (x : Eye) : EyeSettings := p.eyeSettings x
    let ranges : List (ReqClass × Nat × Nat) :=
      [(.rig, 2 ^ 37 * p.rig.rigsel.toNat, 4096), (.capture .left, (eye .left).captureBase, 2 ^ 28),
       (.capture .right, (eye .right).captureBase, 2 ^ 28), (.pair, p.rig.global.windowBase, 2 ^ 29),
       (.pool, (eye .left).poolBase, (eye .left).slotCount * (eye .left).slotStride),
       (.pool, (eye .right).poolBase, (eye .right).slotCount * (eye .right).slotStride)]
    let inside (base size : Nat) : Prop := base ≤ q.addr.toNat ∧ q.addr.toNat + q.length ≤ base + size
    let touched (base size : Nat) : Prop := base < q.addr.toNat + q.length ∧ q.addr.toNat < base + size
    (∀ cls base size, (cls, base, size) ∈ ranges → inside base size → classify p q = some (cls, base)) ∧
    ((∀ cls base size, (cls, base, size) ∈ ranges → ¬touched base size) → classify p q = some (.other, 0)) ∧
    ((∀ cls base size, (cls, base, size) ∈ ranges → ¬inside base size) →
      (∃ cls base size, (cls, base, size) ∈ ranges ∧ touched base size) → classify p q = none)) ∧
  (∀ (p : Part) (e : Nat), unusedEntry p = some e ↔
    p.req.table[e]? = some none ∧ ∀ n, n < e → p.req.table[n]? ≠ some none) ∧
  ∀ (fill : BitVec 16) (a n : Nat), (fillBytes fill a n).length = n ∧
    ∀ i, i < n → (fillBytes fill a n)[i]? = some (fillByte fill (a + i)) ∧
      fillByte fill (a + i) = (if (a + i) % 2 = 0 then fill.extractLsb' 0 8 else fill.extractLsb' 8 8)

/-- A request of class OTHER, and a RIG read, goes on whole as a group of one piece, and its entry waits for one result
(R149). Model's own: notes/assumptions/8.md, 10.md, 40.md. -/
def Obligations.PassThroughHandsOnOnePiece : Prop :=
  ∀ (q : Request) (e : Nat) (cls : ReqClass) (o : Nat) (s : State), s.hw.resetAsserted = false → s.hw.Accepts q e cls o →
    cls = .other ∨ (cls = .rig ∧ q.kind = .read) →
    let data := if q.kind = .read then List.replicate q.length 0 else []
    exec .passThrough s = .next { s with hw := markChanged s.hw { s.hw with
      req := s.hw.req.waiting e { entryOf q cls 0 with outstanding := 1, data := data }
      txn := { s.hw.txn with
        issue := s.hw.txn.issue ++
          [[{ kind := q.kind, addr := q.addr.toNat, length := q.length, data := q.data, source := q.source, entry := e,
              role := .passThrough }]] } } }

/-! ### Capture windows -/

/-- A READ of a capture window is answered REJECTED with fill data and counted, in every state of the stream (R18). A capture
write outside OPEN is answered DISCARDED and counted once: UNFRAMED in OFF, WAITING_SYNC and an uncompleted BETWEEN, OVERRUN
in a completed BETWEEN, SPILL in SPILL (R17). No slot is touched and the context does not change. Model's own:
notes/assumptions/8.md, 10.md. -/
def Obligations.CaptureRequestsAnsweredAtOnce : Prop :=
  (∀ (x : Eye) (q : Request) (e o : Nat) (s : State), s.hw.resetAsserted = false → s.hw.Accepts q e (.capture x) o →
    q.kind = .read →
    let answer : Entry := { entryOf q (.capture x) o with code := .rejected, data := s.hw.fillFor q }
    let counted := raise .rejected s.hw
    exec .captureRead s = .next { s with hw := markChanged s.hw { counted with req := s.hw.req.answered e answer } }) ∧
  ∀ (x : Eye) (q : Request) (e o : Nat) (s : State), s.hw.resetAsserted = false → s.hw.Accepts q e (.capture x) o →
    q.kind = .write → (s.hw.stream x).state ≠ .open →
    let reason : DiscardReason :=
      if (s.hw.stream x).state = .spill then .spill
      else if (s.hw.stream x).state = .between ∧ (s.hw.stream x).completed = true then .overrun
      else .unframed
    let answer : Entry := { entryOf q (.capture x) o with code := .discarded }
    let counted := raise (.discarded reason) s.hw
    exec .captureWrite s = .next { s with hw := markChanged s.hw { counted with req := s.hw.req.answered e answer } }

/-- A write in OPEN that starts inside the frame and is aligned: damage by its distance from the cursor, its in-frame bytes
forwarded as the pieces of the mapper, clipped and overrun bytes counted, the cursor moved; at frame bytes the frame has
reached its end, and with no write outstanding its slot is COMPLETE and the pair manager is told, who makes the pair READY
where both slots are (R13 to R15, R19, R28, R30, R33, R55; CompletedPairsBecomeReady says what slotCompleted does). A write
answered at once is answered before the pair manager is told, so that its response goes before those of the parked reads this
serves (the model's choice, notes/assumptions/23.md). Model's own: notes/assumptions/8.md, 10.md. -/
def Obligations.CaptureWritesInOpenAreForwarded : Prop :=
  ∀ (x : Eye) (q : Request) (e o i : Nat) (s : State), s.hw.resetAsserted = false → s.hw.Accepts q e (.capture x) o →
    q.kind = .write → (s.hw.stream x).state = .open → (s.hw.stream x).currentSlot = some i →
    let ctx := s.hw.stream x
    let g := ctx.geom
    let frame := g.frameBytes
    let inside := min (o + q.length) frame
    let cursor := if o < ctx.cursor then max ctx.cursor inside else inside
    (g.hflip = true → o % g.pixelBytes = 0 ∧ (o + q.length) % g.pixelBytes = 0) → o < frame →
    let cut : CutRequest :=
      { eye := x, slot := i, base := (s.hw.eyeSettings x).poolBase + i * (s.hw.eyeSettings x).slotStride, geom := g, entry := e,
        source := q.source, offset := o, length := inside - o }
    let pieces := cutPieces cut q.data
    let damage : Damage :=
      { gap := decide (ctx.cursor < o), rewrite := decide (o < ctx.cursor), misaligned := false, writeFault := false }
    let write (r : SlotRecord) : SlotRecord :=
      { r with damage := r.damage.union damage, writes := r.writes + pieces.length }
    let entry : Entry :=
      { entryOf q (.capture x) o with
        outstanding := pieces.length, code := if frame < o + q.length then .discarded else .done }
    let clipped := raiseBy .clippedBytes (clippedBytes cut) s.hw
    let counted := if frame < o + q.length then raise (.discarded .overrun) clipped else clipped
    let settled : Part := { counted with
      streams := s.hw.streams.set x { ctx with cursor := cursor }
      slots := s.hw.slots.set x
        ((s.hw.slots.get x).modify i fun r => if cursor = frame then (write r).ended else write r)
      req := if pieces = [] then s.hw.req.answered e entry else s.hw.req.waiting e entry
      txn := if pieces = [] then s.hw.txn else { s.hw.txn with issue := s.hw.txn.issue ++ [pieces] } }
    let complete := (s.hw.slot x i).state = .filling ∧ (s.hw.slot x i).writes = 0 ∧ pieces = []
    exec .captureWrite s = .next { s with hw := markChanged s.hw (
      if cursor = frame then (if complete then slotCompleted x i settled else settled).frameEnded x else settled) }

/-- A misaligned write under HFLIP is answered REJECTED and counted, marks the slot MISALIGNED and moves the cursor over its
in-frame bytes (R16). An aligned write that starts at or beyond frame bytes is answered DISCARDED, counted OVERRUN, marks GAP
and ends the frame (R15, R19). Nothing is forwarded. At the end of the frame a slot with no write outstanding is COMPLETE and
the pair manager is told (R30, R55; CompletedPairsBecomeReady says what slotCompleted does). The write is answered before
that, so that its response goes before those of the parked reads this serves (the model's choice, notes/assumptions/23.md).
Model's own: notes/assumptions/8.md, 10.md. -/
def Obligations.CaptureWritesThatAreNotForwarded : Prop :=
  (∀ (x : Eye) (q : Request) (e o i : Nat) (s : State), s.hw.resetAsserted = false → s.hw.Accepts q e (.capture x) o →
    q.kind = .write → (s.hw.stream x).state = .open → (s.hw.stream x).currentSlot = some i →
    let ctx := s.hw.stream x
    let g := ctx.geom
    let cursor := max ctx.cursor (min (o + q.length) g.frameBytes)
    g.hflip = true → ¬(o % g.pixelBytes = 0 ∧ (o + q.length) % g.pixelBytes = 0) →
    let mark (r : SlotRecord) : SlotRecord := { r with damage := { r.damage with misaligned := true } }
    let answer : Entry := { entryOf q (.capture x) o with code := .rejected }
    let counted := raise .rejected s.hw
    let settled : Part := { counted with
      streams := s.hw.streams.set x { ctx with cursor := cursor }
      slots := s.hw.slots.set x
        ((s.hw.slots.get x).modify i fun r => if cursor = g.frameBytes then (mark r).ended else mark r)
      req := s.hw.req.answered e answer }
    let complete := (s.hw.slot x i).state = .filling ∧ (s.hw.slot x i).writes = 0
    exec .captureWrite s = .next { s with hw := markChanged s.hw (
      if cursor = g.frameBytes then (if complete then slotCompleted x i settled else settled).frameEnded x else settled) }) ∧
  ∀ (x : Eye) (q : Request) (e o i : Nat) (s : State), s.hw.resetAsserted = false → s.hw.Accepts q e (.capture x) o →
    q.kind = .write → (s.hw.stream x).state = .open → (s.hw.stream x).currentSlot = some i →
    let g := (s.hw.stream x).geom
    (g.hflip = true → o % g.pixelBytes = 0 ∧ (o + q.length) % g.pixelBytes = 0) → g.frameBytes ≤ o →
    let mark (r : SlotRecord) : SlotRecord := { r with damage := { r.damage with gap := true } }
    let answer : Entry := { entryOf q (.capture x) o with code := .discarded }
    let counted := raise (.discarded .overrun) s.hw
    let settled : Part := { counted with
      streams := s.hw.streams.set x { s.hw.stream x with cursor := g.frameBytes }
      slots := s.hw.slots.set x ((s.hw.slots.get x).modify i fun r => (mark r).ended)
      req := s.hw.req.answered e answer }
    let complete := (s.hw.slot x i).state = .filling ∧ (s.hw.slot x i).writes = 0
    exec .captureWrite s = .next { s with hw := markChanged s.hw (
      (if complete then slotCompleted x i settled else settled).frameEnded x) }

/-! ### The mapper -/

/-- R99: a corrected line in the top or the bottom margin keeps its place whatever the shift, and no byte of it is clipped. -/
def Obligations.MarginLinesStayInPlace : Prop :=
  ∀ (g : Geometry) (l : Nat), ((correctedLine g l : Int) < g.top ∨ (g.lines : Int) - g.bottom ≤ correctedLine g l) →
    physicalLine g l = some (correctedLine g l) ∧
    ∀ base o, o / g.lineBytes = l → ∃ a, physicalAddress g base o = some a

/-- The place of every logical byte of a frame: line and byte from R97, corrected line from R98, margin and band from R99 and
R100, mirrored pixel from R102, address from R103; a band byte whose target line leaves the band has none. -/
def Obligations.BytesGoWhereTheMapperSays : Prop :=
  ∀ (g : Geometry) (base o : Nat), o < g.frameBytes →
    let line := o / (g.width * g.pixelBytes)
    let b := o % (g.width * g.pixelBytes)
    let c := if g.vflip then g.lines - 1 - line else line
    let byte := if g.hflip then (g.width - 1 - b / g.pixelBytes) * g.pixelBytes + b % g.pixelBytes else b
    ((c < g.top ∨ g.lines ≤ c + g.bottom) → physicalAddress g base o = some (base + c * g.pitch + byte)) ∧
    (∀ target : Nat, g.top ≤ c → c + g.bottom < g.lines → (target : Int) = c + g.shift →
      g.top ≤ target → target + g.bottom < g.lines →
      physicalAddress g base o = some (base + target * g.pitch + byte)) ∧
    (g.top ≤ c → c + g.bottom < g.lines → ((c : Int) + g.shift < g.top ∨ (g.lines : Int) ≤ c + g.shift + g.bottom) →
      physicalAddress g base o = none)

/-- No two bytes of a frame go to one address, and every address lies within the slot's pitch × H bytes (R103, R104). -/
def Obligations.MappedBytesAreDistinctAndInside : Prop :=
  ∀ (g : Geometry) (base o1 o2 a : Nat), geometryInRange g = true → geometryFits g = true → bandFits g = true →
    o1 < g.frameBytes → o2 < g.frameBytes → physicalAddress g base o1 = some a →
    base ≤ a ∧ a < base + g.pitch * g.lines ∧ (physicalAddress g base o2 = some a → o1 = o2)

/-- The pieces of a cut request carry every byte to its mapped address and nothing else: a byte that has an address stands in
a piece at that address, and the pieces and the clipped bytes together make up the request (R101, R106). -/
def Obligations.PiecesCarryEveryByteToItsAddress : Prop :=
  ∀ (c : CutRequest) (data : List Byte), geometryInRange c.geom = true → geometryFits c.geom = true →
    bandFits c.geom = true → c.offset + c.length ≤ c.geom.frameBytes → c.length ≤ data.length →
    (c.geom.hflip = true → c.offset % c.geom.pixelBytes = 0 ∧ (c.offset + c.length) % c.geom.pixelBytes = 0) →
    (∀ i a, i < c.length → physicalAddress c.geom c.base (c.offset + i) = some a →
      ∃ k ∈ cutPieces c data, k.addr ≤ a ∧ a < k.addr + k.length ∧ k.data[a - k.addr]? = data[i]?) ∧
    ((cutPieces c data).map (·.length)).sum + clippedBytes c = c.length ∧
    (∀ k ∈ cutPieces c data, k.kind = .write ∧ k.data.length = k.length ∧ k.entry = c.entry ∧
      k.role = .captureWrite c.eye c.slot)

/-! ### Pairs and readers -/

/-- A pair-window read whose source tag is bound to no reader is answered REJECTED with fill data and counted (R69). A read of
an IDLE reader that finds no pair, in wait mode NOWAIT or with the park list full, and a read of a PARKED reader with the park
list full, are answered NO_PAIR with fill data (R70, R74, R80); so is a restart read of a HOLDING reader, which releases the
hold first (R74, R78). A failed take keeps what the choice has done, a damaged pair passed with its record (R71), and a posted
section of the reader, IDLE now, latches (R90). Model's own: notes/assumptions/8.md, 10.md, 18.md, 20.md. -/
def Obligations.PairReadsAnsweredAtOnce : Prop :=
  (∀ (q : Request) (e o : Nat) (s : State), s.hw.resetAsserted = false → s.hw.Accepts q e .pair o →
    (∀ r, (s.hw.reader r).state = .unbound ∨ (s.hw.readerSettings r).sourceTag ≠ q.source.toNat) →
    let answer : Entry := { entryOf q .pair o with code := .rejected, data := s.hw.fillFor q }
    let counted := raise .rejected s.hw
    exec .pairRead s = .next { s with hw := markChanged s.hw { counted with req := s.hw.req.answered e answer } }) ∧
  (∀ (q : Request) (r : ReaderId) (e o : Nat) (s : State), s.hw.resetAsserted = false → s.hw.Accepts q e .pair o →
    boundReader s.hw q.source = some r →
    ((s.hw.reader r).state = .parked ∧ 8 ≤ s.hw.readers.parkList.length) ∨
      ((s.hw.reader r).state = .idle ∧ choosePair r s.hw = (s.hw, none) ∧ s.hw.post (.reader r) ≠ .posted ∧
        ((s.hw.readerSettings r).waitMode = .nowait ∨ 8 ≤ s.hw.readers.parkList.length)) →
    let answer : Entry := { entryOf q .pair o with code := .noPair, data := s.hw.fillFor q }
    exec .pairRead s =
      .next { s with hw := markChanged s.hw { s.hw with req := s.hw.req.answered e answer } }) ∧
  ∀ (q : Request) (r : ReaderId) (e o : Nat) (s : State) (p p1 : Part), s.hw.resetAsserted = false →
    s.hw.Accepts q e .pair o → boundReader s.hw q.source = some r →
    let handed : Part := { s.hw with req := s.hw.req.waiting e (entryOf q .pair o) }
    ((s.hw.reader r).state = .idle ∧ p = handed) ∨
      ((s.hw.reader r).state = .holding ∧ (s.hw.readerSettings r).restartTakes = true ∧ o = 0 ∧
        (s.hw.reader r).away = true ∧ p = release r false handed) →
    choosePair r p = (p1, none) ∨ (∃ k, choosePair r p = (p1, some k) ∧ takeNotice k.number k.take p1 = none) →
    (s.hw.readerSettings r).waitMode = .nowait ∨ 8 ≤ s.hw.readers.parkList.length →
    let answer : Entry := { entryOf q .pair o with code := .noPair, data := s.hw.fillFor q }
    let answered : Part := { p1 with req := s.hw.req.answered e answer }
    exec .pairRead s = .next { s with hw := markChanged s.hw (latchReaderIfPosted r answered) }

/-- A read of an IDLE reader that finds no pair, in wait mode PARK, and any read of a PARKED reader join the tail of the park
list with the park limit in force while the list has room; the reader is PARKED (R70, R74, R80). So does a restart read that
finds no pair, its hold released first (R74, R78); what the choice has done, a damaged pair passed with its record, stays
(R71). Model's own: notes/assumptions/8.md, 10.md, 18.md, 20.md. -/
def Obligations.PairReadsPark : Prop :=
  (∀ (q : Request) (r : ReaderId) (e o : Nat) (s : State), s.hw.resetAsserted = false → s.hw.Accepts q e .pair o →
    boundReader s.hw q.source = some r → s.hw.readers.parkList.length < 8 →
    (s.hw.reader r).state = .parked ∨
      ((s.hw.reader r).state = .idle ∧ choosePair r s.hw = (s.hw, none) ∧ (s.hw.readerSettings r).waitMode = .park) →
    exec .pairRead s = .next { s with hw := markChanged s.hw { s.hw with
      req := s.hw.req.waiting e { entryOf q .pair o with state := .parked }
      readers :=
        { ctx := s.hw.readers.ctx.set r { s.hw.reader r with state := .parked }
          parkList := s.hw.readers.parkList ++
            [{ entry := e, reader := r, offset := o, length := q.length,
               timer := .running ((s.hw.readerSettings r).parkLimit * 250) }] } } }) ∧
  ∀ (q : Request) (r : ReaderId) (e o : Nat) (s : State) (p p1 : Part), s.hw.resetAsserted = false →
    s.hw.Accepts q e .pair o → boundReader s.hw q.source = some r → s.hw.readers.parkList.length < 8 →
    let handed : Part := { s.hw with req := s.hw.req.waiting e (entryOf q .pair o) }
    ((s.hw.reader r).state = .idle ∧ p = handed) ∨
      ((s.hw.reader r).state = .holding ∧ (s.hw.readerSettings r).restartTakes = true ∧ o = 0 ∧
        (s.hw.reader r).away = true ∧ p = release r false handed) →
    choosePair r p = (p1, none) ∨ (∃ k, choosePair r p = (p1, some k) ∧ takeNotice k.number k.take p1 = none) →
    (s.hw.readerSettings r).waitMode = .park →
    exec .pairRead s = .next { s with hw := markChanged s.hw { p1 with
      req := s.hw.req.waiting e { entryOf q .pair o with state := .parked }
      readers :=
        { ctx := p1.readers.ctx.set r { p1.reader r with state := .parked }
          parkList := p1.readers.parkList ++
            [{ entry := e, reader := r, offset := o, length := q.length,
               timer := .running ((s.hw.readerSettings r).parkLimit * 250) }] } } }

/-- A hold read restarts the lease and, at an offset other than 0, sets the away mark; beyond the extent it is answered
REJECTED and counted, inside it it is translated against the held pair (R75, R89); the read of the last byte of the extent,
once translated, releases the hold: a posted section of the reader latches, a waiting window change takes effect where it can,
the pair has one holder less and retirement is evaluated (R77, R79; ReaderTimersExpire says what each does). What a
translation gives: one piece for each part of a window line outside the band gaps, in offset order, at the place in its slot
that the layout in force gives; the fill pattern for band-gap bytes; and the code DAMAGED before FILLED before DONE (R85 to
R88). The held record is the first of its number, take and left slot. Model's own: notes/assumptions/8.md, 10.md, 33.md. -/
def Obligations.HoldReadsAreTranslated : Prop :=
  (∀ (q : Request) (r : ReaderId) (pair : PairRecord) (e o : Nat) (s : State), s.hw.resetAsserted = false →
    s.hw.Accepts q e .pair o → boundReader s.hw q.source = some r → (s.hw.reader r).state = .holding →
    ¬((s.hw.readerSettings r).restartTakes = true ∧ o = 0 ∧ (s.hw.reader r).away = true) →
    heldRecord s.hw r = some pair →
    let ctx : ReaderCtx :=
      { s.hw.reader r with
        lease := .running ((s.hw.readerSettings r).lease * 250), away := (s.hw.reader r).away || decide (o ≠ 0) }
    let readers : ReaderUnit := { s.hw.readers with ctx := s.hw.readers.ctx.set r ctx }
    let answer : Entry := { entryOf q .pair o with code := .rejected, data := s.hw.fillFor q }
    let counted := raise .rejected s.hw
    let pieces := readPieces s.hw pair e q.source o q.length
    let entry : Entry :=
      { entryOf q .pair o with
        outstanding := pieces.length, code := readCode s.hw pair o q.length,
        data := readFill s.hw pair q.addr.toNat o q.length }
    let translated : Part := { s.hw with
      slots := (countReads pair pieces s.hw).slots
      req := if pieces = [] then s.hw.req.answered e entry else s.hw.req.waiting e entry
      txn := if pieces = [] then s.hw.txn else { s.hw.txn with issue := s.hw.txn.issue ++ [pieces] } }
    (pair.geom.extent < o + q.length →
      exec .pairRead s =
        .next { s with hw := markChanged s.hw { counted with readers := readers, req := s.hw.req.answered e answer } }) ∧
    (o + q.length < pair.geom.extent →
      exec .pairRead s = .next { s with hw := markChanged s.hw { translated with readers := readers } }) ∧
    (o + q.length = pair.geom.extent →
      let idle : ReaderCtx :=
        { state := .idle, held := none, lastTaken := (s.hw.reader r).lastTaken, away := false, lease := .stopped }
      let freed : Part := { translated with readers := { s.hw.readers with ctx := s.hw.readers.ctx.set r idle } }
      let released := evaluateRetirement (onHolders pair.asHeld (· - 1) (checkWindow (latchReaderIfPosted r freed)))
      exec .pairRead s = .next { s with hw := markChanged s.hw released }) ∧
    (o + q.length = pair.geom.extent → s.hw.post (.reader r) ≠ .posted → s.hw.rig.windowChange = none →
      ∀ older newer : List PairRecord, s.hw.pairs.queue = older ++ pair :: newer → (∀ k ∈ older, k.asHeld ≠ pair.asHeld) →
      let idle : ReaderCtx :=
        { state := .idle, held := none, lastTaken := (s.hw.reader r).lastTaken, away := false, lease := .stopped }
      exec .pairRead s = .next { s with hw := markChanged s.hw (evaluateRetirement { translated with
        readers := { s.hw.readers with ctx := s.hw.readers.ctx.set r idle }
        pairs := { s.hw.pairs with queue := older ++ { pair with holders := pair.holders - 1 } :: newer } }) })) ∧
  ∀ (p : Part) (pair : PairRecord) (e : Nat) (source : BitVec 6) (addr o n : Nat), 0 < pair.geom.lineBytes →
    o + n ≤ pair.geom.extent →
    let lb := pair.geom.lineBytes
    let frame := lb * pair.geom.lines
    let eye (i : Nat) : Eye := match p.rig.global.layout with
      | .sequential => if o + i < frame then .left else .right
      | .interleaved => if (o + i) / lb % 2 = 0 then .left else .right
    let line (i : Nat) : Nat := match p.rig.global.layout with
      | .sequential => if o + i < frame then (o + i) / lb else (o + i - frame) / lb
      | .interleaved => (o + i) / lb / 2
    let index (x : Eye) : Nat := match x with | .left => pair.leftSlot | .right => pair.rightSlot
    let slot (x : Eye) : SlotRecord := p.slot x (index x)
    let place (i : Nat) : Nat :=
      (p.eyeSettings (eye i)).poolBase + index (eye i) * (p.eyeSettings (eye i)).slotStride +
        line i * (slot (eye i)).geom.pitch + (o + i) % lb
    let gap (i : Nat) : Prop :=
      let g := (slot (eye i)).geom
      (0 < g.shift ∧ (g.top : Int) ≤ line i ∧ (line i : Int) < g.top + g.shift) ∨
        (g.shift < 0 ∧ (g.lines : Int) - g.bottom + g.shift ≤ line i ∧ (line i : Int) < (g.lines : Int) - g.bottom)
    let pieces := readPieces p pair e source o n
    (∀ i, i < n → ¬gap i → ∃ k ∈ pieces, ∃ at0, k.role = .readPiece (eye i) (index (eye i)) at0 ∧ at0 ≤ i ∧
      i < at0 + k.length ∧ k.addr + (i - at0) = place i) ∧
    (∀ k ∈ pieces, ∃ at0, k.role = .readPiece (eye at0) (index (eye at0)) at0 ∧ 0 < k.length ∧ at0 + k.length ≤ n ∧
      (at0 = 0 ∨ (o + at0) % lb = 0) ∧ (at0 + k.length = n ∨ (o + at0 + k.length) % lb = 0) ∧
      (o + at0) % lb + k.length ≤ lb ∧ (∀ i, at0 ≤ i → i < at0 + k.length → ¬gap i) ∧ k.kind = .read ∧ k.data = [] ∧
      k.source = source ∧ k.entry = e) ∧
    (pieces.map (·.role.place)).Pairwise (· < ·) ∧
    (readFill p pair addr o n).length = n ∧
    (∀ i, i < n → gap i → (readFill p pair addr o n)[i]? = some (fillByte p.rig.global.fill (addr + i))) ∧
    (pair.damage.any = true → readCode p pair o n = .damaged) ∧
    (pair.damage.any = false → (∃ i, i < n ∧ gap i) → readCode p pair o n = .filled) ∧
    (pair.damage.any = false → (∀ i, i < n → ¬gap i) → readCode p pair o n = .done)

/-- A take: a read of an IDLE reader, or a restart read once the hold is released, whose choice is a pair that is current and
READY in the queue; the choice may have passed damaged pairs before it. The reader holds it from now on, its number last
taken, the lease started, away unless at offset 0; the pair has one holder more, PRDY and retirement are evaluated (R58, R70,
R71, R73, R78). The read is then answered as a hold read is: beyond the extent REJECTED and counted, the pair held and the
away mark clear (R89; the model's choice, notes/assumptions/21.md); inside it with its pieces handed on and counted as pending
reads of their slots, its code and its fill bytes (R73 step 5, R87, R88; HoldReadsAreTranslated says what they are). A take
read of the last byte of the extent releases the pair again at once (R77, R79). Model's own: notes/assumptions/8.md, 10.md,
18.md, 20.md, 33.md. -/
def Obligations.TakeReadsHoldThePair : Prop :=
  ∀ (q : Request) (r : ReaderId) (pair : PairRecord) (older newer : List PairRecord) (e o : Nat) (s : State) (p p1 : Part),
    s.hw.resetAsserted = false → s.hw.Accepts q e .pair o → boundReader s.hw q.source = some r →
    let handed : Part := { s.hw with req := s.hw.req.waiting e (entryOf q .pair o) }
    ((s.hw.reader r).state = .idle ∧ p = handed) ∨
      ((s.hw.reader r).state = .holding ∧ (s.hw.readerSettings r).restartTakes = true ∧ o = 0 ∧
        (s.hw.reader r).away = true ∧ p = release r false handed) →
    choosePair r p = (p1, some pair) → takeNotice pair.number pair.take p1 = some pair →
    p1.pairs.queue = older ++ pair :: newer → (∀ k ∈ older, k.asHeld ≠ pair.asHeld) →
    let raised : PairRecord := { pair with holders := pair.holders + 1 }
    let holding : ReaderCtx :=
      { state := .holding, held := some { number := pair.number, take := pair.take, leftSlot := pair.leftSlot },
        lastTaken := pair.number, away := false, lease := .running ((s.hw.readerSettings r).lease * 250) }
    let away : ReaderCtx := { holding with away := decide (o ≠ 0) }
    let idle : ReaderCtx := { state := .idle, held := none, lastTaken := pair.number, away := false, lease := .stopped }
    let taken := evaluateRetirement (evaluatePrdy { p1 with
      pairs := { p1.pairs with queue := older ++ raised :: newer }
      readers := { p1.readers with ctx := p1.readers.ctx.set r holding } })
    let refusal : Entry := { entryOf q .pair o with code := .rejected, data := s.hw.fillFor q }
    let pieces := readPieces taken raised e q.source o q.length
    let entry : Entry :=
      { entryOf q .pair o with
        outstanding := pieces.length, code := readCode taken raised o q.length,
        data := readFill taken raised q.addr.toNat o q.length }
    let translated (c : ReaderCtx) : Part := { taken with
      readers := { taken.readers with ctx := taken.readers.ctx.set r c }
      slots := (countReads raised pieces taken).slots
      req := if pieces = [] then s.hw.req.answered e entry else s.hw.req.waiting e entry
      txn := if pieces = [] then taken.txn else { taken.txn with issue := taken.txn.issue ++ [pieces] } }
    (pair.geom.extent < o + q.length →
      let counted := raise .rejected taken
      exec .pairRead s =
        .next { s with hw := markChanged s.hw { counted with req := s.hw.req.answered e refusal } }) ∧
    (o + q.length < pair.geom.extent →
      exec .pairRead s = .next { s with hw := markChanged s.hw (translated away) }) ∧
    (o + q.length = pair.geom.extent →
      let released :=
        evaluateRetirement (onHolders pair.asHeld (· - 1) (checkWindow (latchReaderIfPosted r (translated idle))))
      exec .pairRead s = .next { s with hw := markChanged s.hw released })

/-- What a reader chooses: under EVERY, and not passing damaged pairs, the oldest current pair above its last-taken if it is
READY; under LATEST the newest current READY pair, a damaged one left out where the reader skips damaged pairs (R71, R72). An
EVERY reader that skips damaged pairs passes the damaged READY ones that come first, each with a SKIPPED record and its number
as last-taken, and chooses the next if it is READY (R71); the current pairs are numbered rising (R49). The records' read
offset, which is no field of theirs, is 0 (R187, R190); where they find no room the choice is the same. Model's own:
notes/assumptions/33.md. -/
def Obligations.ReadersChooseByTheirPolicy : Prop :=
  ∀ (r : ReaderId) (p : Part),
    let current := p.pairs.queue.filter fun k => !k.stale
    ((p.readerSettings r).policy = .every → (p.readerSettings r).skipDamaged = false →
      choosePair r p = (p, match current.find? (fun k => decide ((p.reader r).lastTaken < k.number)) with
        | some k => if k.state = .ready then some k else none
        | none => none)) ∧
    ((p.readerSettings r).policy = .latest →
      choosePair r p = (p, (current.filter fun k =>
        k.state = .ready ∧ ¬((p.readerSettings r).skipDamaged = true ∧ k.damage.any = true)).getLast?)) ∧
    ((p.readerSettings r).policy = .every → (p.readerSettings r).skipDamaged = true →
      current.Pairwise (fun a b => a.number < b.number) →
      let above := current.filter fun k => decide ((p.reader r).lastTaken < k.number)
      let damaged (k : PairRecord) : Bool := k.state == .ready && k.damage.any
      let passed := above.takeWhile damaged
      let q := (choosePair r p).1
      (choosePair r p).2 =
        (match (above.dropWhile damaged).head? with
          | some k => if k.state = .ready then some k else none
          | none => none) ∧
      q.reader r = { p.reader r with lastTaken := ((passed.getLast?).map (·.number)).getD (p.reader r).lastTaken } ∧
      (∀ k, k ≠ r → q.reader k = p.reader k) ∧ q.pairs.queue = p.pairs.queue ∧ q.slots = p.slots ∧ q.rig = p.rig ∧
      q.readers.parkList = p.readers.parkList ∧ q.req = p.req ∧ q.txn = p.txn ∧ q.streams = p.streams ∧
      (p.report.queue.length + passed.length ≤ 16 →
        ∃ raised : List ReportRecord, q.report.queue = p.report.queue ++ raised ∧
          (∀ k ∈ raised, k.stamp = p.now ∧ k.take = p.take) ∧
          raised.map (·.body) = passed.map fun k => .readerEvent .skipped r k.damage k.number k.take 0))

/-- A pair record becomes READY once both its slots are COMPLETE: damage is that of the two slots together, the ready stamp
the timebase, both slots are PAIRED, the pair is counted, PAIR_READY is recorded with the ready stamp and the pair's take, and
PAIR_DAMAGED is set where there is damage (R38, R55, R56, R184); then, the record being current, the announcement, PRDY, and
retirement in any case (R55, R62). That for any queue and parked reads; in the first clause the record is the newest, current,
and alone in naming its slots, and no read is parked. A slot that no record names, or a record not yet whole, changes nothing
(R54, R55). Which commands complete a slot, CaptureWritesInOpenAreForwarded, CaptureWritesThatAreNotForwarded and
CaptureWriteResponsesLandTheFrame say. Announcements: a PARKED reader that chooses a pair takes it and its parked read leaves
the list and is processed as a hold read, at the announcement of a READY pair (R82) and, with policy EVERY, at that of a
removal (R83); one that finds none keeps its parked reads in their places, and readers of policy LATEST make no attempt at a
removal. For any park list: the readers attempt in the order of each one's oldest parked read, and a reader whose take
succeeds processes its parked reads in their order (R82, R83). Each leaves the list and is processed as a newly arrived read
is: a hold read, an end-of-pair read or a restart read (R75, R77, R78), a restart read whose take fails being parked anew at
the tail with a fresh park timer, and so the reader's later parked reads (the model's reading, notes/assumptions/19.md), or
answered NO_PAIR (R74). A read that finds the reader IDLE leaves the list only if its take succeeds; otherwise it keeps its
place and its timer, as do those behind it, and the reader is PARKED (R82). What a newly arrived read does is said for every
reader state, and is what PAIR_READ does (R70). Model's own: notes/assumptions/8.md, 10.md, 18.md, 20.md, 21.md, 33.md. -/
def Obligations.CompletedPairsBecomeReady : Prop :=
  (∀ (p : Part) (x : Eye) (i : Nat) (older : List PairRecord) (q : PairRecord), p.pairs.queue = older ++ [q] →
    (∀ k ∈ older, k.leftSlot ≠ q.leftSlot ∧ k.rightSlot ≠ q.rightSlot) → q.slotOf x = i → q.state = .forming →
    q.stale = false → (p.slot .left q.leftSlot).state = .complete → (p.slot .right q.rightSlot).state = .complete →
    p.readers.parkList = [] → p.report.counters.length = 20 →
    let damage := (p.slot .left q.leftSlot).damage.union (p.slot .right q.rightSlot).damage
    let t := slotCompleted x i p
    { q with state := .ready, damage := damage, readyStamp := some p.now } ∈ t.pairs.queue ∧
      t.slot .left q.leftSlot = { p.slot .left q.leftSlot with state := .paired } ∧
      t.slot .right q.rightSlot = { p.slot .right q.rightSlot with state := .paired } ∧
      t.count .pairsFormed = p.count .pairsFormed + 1 ∧
      (damage.any = true → t.report.flags.getLsbD EventFlag.pairDamaged.bit = true) ∧
      (p.report.queue.length < 16 → t.report.queue = p.report.queue ++
        [{ seq := p.report.seq, stamp := p.now, take := q.take,
           body := .pairReady damage q.number q.leftFrame q.rightFrame q.linkSkew q.leftSlot q.rightSlot }]) ∧
      t.streams = p.streams ∧ t.readers = p.readers ∧ t.rig = p.rig ∧ t.req = p.req ∧ t.txn = p.txn ∧ t.skew = p.skew) ∧
  (∀ (p : Part) (x : Eye) (i : Nat) (older newer : List PairRecord) (q : PairRecord), p.pairs.queue = older ++ q :: newer →
    (∀ k ∈ older, k.slotOf x ≠ i) → q.slotOf x = i →
    let whole := q.state = .forming ∧ (p.slot .left q.leftSlot).state = .complete ∧
      (p.slot .right q.rightSlot).state = .complete
    let damage := (p.slot .left q.leftSlot).damage.union (p.slot .right q.rightSlot).damage
    let paired (r : SlotRecord) : SlotRecord := if r.state = .complete then { r with state := .paired } else r
    let made : Part := { p with
      pairs := { p.pairs with
        queue := older ++ { q with state := .ready, damage := damage, readyStamp := some p.now } :: newer }
      slots := (p.slots.set .left ((p.slots.get .left).modify q.leftSlot paired)).set .right
        ((p.slots.get .right).modify q.rightSlot paired) }
    let counted := raise .pairsFormed (queueRecord p.now q.take
      (.pairReady damage q.number q.leftFrame q.rightFrame q.linkSkew q.leftSlot q.rightSlot) made)
    let told := if damage.any = true then setFlag .pairDamaged counted else counted
    (whole → slotCompleted x i p =
      evaluateRetirement (if q.stale = true then told else prdyOnReady (announceReady told))) ∧
    (¬whole → slotCompleted x i p = p)) ∧
  (∀ (p : Part) (x : Eye) (i : Nat), (∀ k ∈ p.pairs.queue, k.slotOf x ≠ i) → slotCompleted x i p = p) ∧
  (∀ (p : Part) (r : ReaderId) (k : ParkedRead) (q : PairRecord) (v : Entry), p.readers.parkList = [k] → k.reader = r →
    (p.reader r).state = .parked → choosePair r p = (p, some q) → takeNotice q.number q.take p = some q →
    p.pairs.queue.find? (fun j => j.asHeld == q.asHeld) = some q → k.offset + k.length < q.geom.extent →
    p.entry k.entry = some v →
    let served (t : Part) : Prop :=
      t.reader r =
        { state := .holding, held := some { number := q.number, take := q.take, leftSlot := q.leftSlot }, lastTaken := q.number,
          away := decide (k.offset ≠ 0), lease := .running ((p.readerSettings r).lease * 250) } ∧
      t.readers.parkList = [] ∧ { q with holders := q.holders + 1 } ∈ t.pairs.queue ∧
      (∀ j, j ≠ r → t.reader j = p.reader j) ∧
      (∃ w, t.entry k.entry = some w ∧ w.ttag = v.ttag ∧ w.source = v.source ∧ w.state ≠ .parked) ∧
      t.streams = p.streams ∧ t.rig = p.rig ∧ t.skew = p.skew
    served (announceReady p) ∧
      ((p.readerSettings r).policy = .every → served (announceRemoval p)) ∧
      ((p.readerSettings r).policy = .latest → announceRemoval p = p)) ∧
  (∀ p : Part, (∀ k ∈ p.readers.parkList, choosePair k.reader p = (p, none)) →
    announceReady p = p ∧ announceRemoval p = p) ∧
  (∀ p : Part, (∀ k ∈ p.readers.parkList, (p.readerSettings k.reader).policy = .latest) → announceRemoval p = p) ∧
  (∀ p : Part,
    let order := (p.readers.parkList.map (·.reader)).eraseDups
    announceReady p = order.foldl (fun u r => attemptParked r u) p ∧
      announceRemoval p =
        order.foldl (fun u r => if (u.readerSettings r).policy = .every then attemptParked r u else u) p) ∧
  (∀ (r : ReaderId) (p : Part),
    let fails (u u1 : Part) : Prop := choosePair r u = (u1, none) ∨
      ∃ q, choosePair r u = (u1, some q) ∧ takeNotice q.number q.take u1 = none
    let takes (u u1 : Part) (k : PairRecord) : Prop :=
      ∃ q, choosePair r u = (u1, some q) ∧ takeNotice q.number q.take u1 = some k
    let inState (v : ReaderState) (u : Part) : Part :=
      { u with readers := { u.readers with ctx := u.readers.ctx.set r { u.reader r with state := v } } }
    ((p.reader r).state ≠ .parked → attemptParked r p = p) ∧
    ((p.reader r).state = .parked → ∀ p1, fails p p1 → attemptParked r p = p1) ∧
    ((p.reader r).state = .parked → ∀ p1 k, takes p p1 k →
      attemptParked r p = processParkedReads r (p.readers.parkList.filter fun j => j.reader == r) (acceptTake r k p1)) ∧
    processParkedReads r [] p = p ∧
    ∀ (j : ParkedRead) (js : List ParkedRead),
      let without (u : Part) : Part :=
        { u with readers := { u.readers with parkList := u.readers.parkList.filter fun i => i.entry != j.entry } }
      ((p.reader r).state ≠ .idle → processParkedReads r (j :: js) p =
        processParkedReads r js (readerRead r j.entry j.offset j.length (without p))) ∧
      ((p.reader r).state = .idle → ∀ p1, fails p p1 → processParkedReads r (j :: js) p = inState .parked p1) ∧
      ((p.reader r).state = .idle → ∀ p1 k, takes p p1 k → processParkedReads r (j :: js) p =
        processParkedReads r js (takenRead r j.entry j.offset j.length (without (acceptTake r k p1))))) ∧
  (∀ (r : ReaderId) (e o n : Nat) (v : Entry) (p : Part), p.entry e = some v → v.kind = .read →
    let holding (c : ReaderCtx) (u : Part) : Part := { u with readers := { u.readers with ctx := u.readers.ctx.set r c } }
    let answered (code : Code) (u : Part) : Part := { u with
      req := { u.req with
        table := u.req.table.set e (some { v with
          state := .returning, outstanding := 0, code := code,
          data := fillBytes u.rig.global.fill v.addr.toNat v.length })
        returning := u.req.returning ++ [e] } }
    let parked (u : Part) : Part := { u with
      readers :=
        { ctx := u.readers.ctx.set r { u.reader r with state := .parked }
          parkList := u.readers.parkList ++
            [{ entry := e, reader := r, offset := o, length := n,
               timer := .running ((u.readerSettings r).parkLimit * 250) }] }
      req := { u.req with table := u.req.table.set e (some { v with state := .parked }) } }
    let restart := (p.readerSettings r).restartTakes = true ∧ o = 0 ∧ (p.reader r).away = true
    ((p.reader r).state = .unbound → readerRead r e o n p = raise .rejected (answered .rejected p)) ∧
    ((p.reader r).state = .parked → readerRead r e o n p =
      if p.readers.parkList.length < 8 then parked p else answered .noPair p) ∧
    ((p.reader r).state = .idle → readerRead r e o n p = takeRead r e o n p) ∧
    ((p.reader r).state = .holding → restart → readerRead r e o n p = takeRead r e o n (release r false p)) ∧
    (∀ p1 k, (∃ q, choosePair r p = (p1, some q) ∧ takeNotice q.number q.take p1 = some k) →
      takeRead r e o n p = takenRead r e o n (acceptTake r k p1)) ∧
    (∀ p1, (choosePair r p = (p1, none) ∨ ∃ q, choosePair r p = (p1, some q) ∧ takeNotice q.number q.take p1 = none) →
      takeRead r e o n p =
        if (p1.readerSettings r).waitMode = .park ∧ p1.readers.parkList.length < 8 then parked p1
        else latchReaderIfPosted r (answered .noPair p1)) ∧
    ∀ pair, heldRecord p r = some pair →
      let pieces := readPieces p pair e v.source o n
      let entry : Entry :=
        { v with
          state := if pieces = [] then .returning else .inProgress, outstanding := pieces.length,
          code := readCode p pair o n, data := readFill p pair v.addr.toNat o n }
      let translated : Part := { p with
        slots := (countReads pair pieces p).slots
        req := { p.req with
          table := p.req.table.set e (some entry)
          returning := if pieces = [] then p.req.returning ++ [e] else p.req.returning }
        txn := if pieces = [] then p.txn else { p.txn with issue := p.txn.issue ++ [pieces] } }
      let bound (c : ReaderCtx) : Part :=
        if pair.geom.extent < o + n then raise .rejected (holding c (answered .rejected p))
        else if o + n = pair.geom.extent then release r true (holding c translated)
        else holding c translated
      ((p.reader r).state = .holding → ¬restart → readerRead r e o n p = bound { p.reader r with
        lease := .running ((p.readerSettings r).lease * 250), away := (p.reader r).away || decide (o ≠ 0) }) ∧
      takenRead r e o n p =
        bound (if o + n ≤ pair.geom.extent then { p.reader r with away := decide (o ≠ 0) } else p.reader r)) ∧
  (∀ (r : ReaderId) (k : PairRecord) (p : Part),
    let raised := onHolders k.asHeld (· + 1) p
    let holding : ReaderCtx :=
      { state := .holding, held := some { number := k.number, take := k.take, leftSlot := k.leftSlot },
        lastTaken := k.number, away := false, lease := .running ((p.readerSettings r).lease * 250) }
    acceptTake r k p = evaluateRetirement (evaluatePrdy { raised with
      readers := { raised.readers with ctx := raised.readers.ctx.set r holding } })) ∧
  ∀ (q : Request) (r : ReaderId) (e o : Nat) (s : State), s.hw.resetAsserted = false → s.hw.Accepts q e .pair o →
    boundReader s.hw q.source = some r →
    let handed : Part := { s.hw with req := s.hw.req.waiting e (entryOf q .pair o) }
    exec .pairRead s = .next { s with hw := markChanged s.hw (readerRead r e o q.length handed) }

/-- A current READY record with no READY record behind it is not retired, nor is one that a reader holds, nor a FORMING one
(R59, R60). A READY record that no reader holds does retire when it is stale, or when a READY record stands behind it and
every enabled EVERY reader has passed its number: it leaves the queue, and its PAIRED slots drain, or are free where no piece
is outstanding; no frame is lost by it and no block but the pair manager and the slot tables changes (R38, R42, R59). The
record is alone in naming its slots. Model's own: notes/assumptions/33.md. -/
def Obligations.NewestAndHeldPairsStay : Prop :=
  ∀ (p : Part) (older newer : List PairRecord) (q : PairRecord), p.pairs.queue = older ++ q :: newer →
    (((q.stale = false ∧ ∀ k ∈ newer, k.state ≠ .ready) ∨ q.holders ≠ 0 ∨ q.state = .forming) →
      q ∈ (evaluateRetirement p).pairs.queue) ∧
    ((∀ k ∈ older ++ newer, k.leftSlot ≠ q.leftSlot ∧ k.rightSlot ≠ q.rightSlot) → q.state = .ready → q.holders = 0 →
      (q.stale = true ∨
        ((∃ k ∈ newer, k.state = .ready) ∧
          ∀ r, (p.readerSettings r).enabled = true → (p.reader r).state ≠ .unbound → (p.readerSettings r).policy = .every →
            q.number ≤ (p.reader r).lastTaken)) →
      (p.slot .left q.leftSlot).state = .paired → (p.slot .right q.rightSlot).state = .paired →
      let t := evaluateRetirement p
      q ∉ t.pairs.queue ∧
        t.slot .left q.leftSlot = SlotRecord.freeIfDrained { p.slot .left q.leftSlot with state := .draining } ∧
        t.slot .right q.rightSlot = SlotRecord.freeIfDrained { p.slot .right q.rightSlot with state := .draining } ∧
        (∀ k ∈ t.pairs.queue, k ∈ p.pairs.queue) ∧ t.sync = p.sync ∧ t.streams = p.streams ∧ t.readers = p.readers ∧
        t.req = p.req ∧ t.txn = p.txn ∧ t.skew = p.skew ∧ t.rig = p.rig ∧ t.report = p.report)

/-- An evaluation of PRDY changes nothing else, and nothing at all but in mode LEVEL; there it asserts PRDY exactly if a
current READY record is numbered above the PRDY reader's last-taken (R64; that it stays so between evaluations is a clause of
EveryStepKeepsTheRules). In mode PULSE the readiness of a current record asserts PRDY for 1 us from that readiness, that of a
stale record leaves it; the end of the pulse deasserts it (R63). A GLOBAL latch that changes the PRDY mode ends a pulse in
progress and drives PRDY by the new mode; one that keeps mode PULSE leaves it (R65). Model's own: notes/assumptions/2.md,
8.md, 28.md, 33.md. -/
def Obligations.PrdyFollowsItsMode : Prop :=
  (∀ p : Part, p.rig.global.prdyMode = .level →
    ((evaluatePrdy p).pairs.prdy = true ↔
      ∃ k ∈ p.pairs.queue, k.stale = false ∧ k.state = .ready ∧ (p.reader p.rig.global.prdyReader).lastTaken < k.number)) ∧
  (∀ p : Part,
    evaluatePrdy p = { p with pairs := { p.pairs with prdy := (evaluatePrdy p).pairs.prdy } } ∧
    (p.rig.global.prdyMode ≠ .level → evaluatePrdy p = p) ∧
    (p.rig.global.prdyMode = .off → prdyOnReady p = p) ∧
    (p.rig.global.prdyMode = .pulse →
      prdyOnReady p = { p with pairs := { p.pairs with prdy := true, prdyPulse := .running 250 } }) ∧
    (p.rig.global.prdyMode = .level → prdyOnReady p = evaluatePrdy p)) ∧
  (∀ (p : Part) (x : Eye) (i : Nat) (older : List PairRecord) (q : PairRecord), p.pairs.queue = older ++ [q] →
    (∀ k ∈ older, k.leftSlot ≠ q.leftSlot ∧ k.rightSlot ≠ q.rightSlot) → q.slotOf x = i → q.state = .forming →
    (p.slot .left q.leftSlot).state = .complete → (p.slot .right q.rightSlot).state = .complete →
    p.rig.global.prdyMode = .pulse →
    let t := slotCompleted x i p
    (q.stale = false → t.pairs.prdy = true ∧ t.pairs.prdyPulse = .running 250) ∧
    (q.stale = true → t.pairs.prdy = p.pairs.prdy ∧ t.pairs.prdyPulse = p.pairs.prdyPulse)) ∧
  (∀ (s : State) (r : Nat), s.hw.resetAsserted = false → s.hw.pairs.prdyPulse = .running r →
    let q := passTime r s.hw
    exec .prdyPulseEnd s =
      .next { s with hw := markChanged s.hw { q with pairs := { q.pairs with prdy := false, prdyPulse := .stopped } } }) ∧
  ∀ (q : Request) (e o : Nat) (g : GlobalSettings) (s : State), s.hw.resetAsserted = false → s.hw.Accepts q e .rig o →
    q.kind = .write → q.Whole → s.hw.rig.partState = .running → (∀ j, touchesCheck o q.length j = true ↔ j = .global) →
    let words := (writeShadow o q.data s.hw).staged .global
    checkMatches words = true → validateGlobal s.hw words = .ok g →
    let before := s.hw.rig.global.prdyMode
    ∃ t : State, exec .checkWordWrite s = .next t ∧ t.hw.rig.global.prdyMode = g.prdyMode ∧
      t.hw.rig.global.prdyReader = g.prdyReader ∧
      (g.prdyMode ≠ before → t.hw.pairs.prdyPulse = .stopped) ∧
      (g.prdyMode ≠ before → g.prdyMode ≠ .level → t.hw.pairs.prdy = false) ∧
      (g.prdyMode = .level → (t.hw.pairs.prdy = true ↔
        ∃ k ∈ t.hw.pairs.queue, k.stale = false ∧ k.state = .ready ∧ (t.hw.reader g.prdyReader).lastTaken < k.number)) ∧
      (g.prdyMode = before → g.prdyMode ≠ .level →
        t.hw.pairs.prdy = s.hw.pairs.prdy ∧ t.hw.pairs.prdyPulse = s.hw.pairs.prdyPulse)

/-- A lease that runs out releases the hold and raises LEASE_LAPSED: the reader is IDLE, READER_LAPSED is set and the record
names the pair, its damage flags and read offset, which are no fields of it, 0 (R187, R190); the pair's record has one holder
less, and stays while it is held or is the newest current READY one, or retires when it is stale and unheld (R58, R59, R76,
R79). With the last HOLDING or PARKED reader a waiting window change takes effect, and not before (R91). A park limit that
runs out: the read leaves the park list and is answered NO_PAIR with fill data, and PARK_EXPIRED is recorded with the read's
offset, its pair number and take 0 (the model's choice, notes/assumptions/38.md); the reader goes to IDLE with its last parked
read (R81). A reader that goes to IDLE latches its posted section, and a waiting window change takes effect once no reader is
HOLDING or PARKED (R79, R81, R90, R91); in the first clause no section is posted. A release in any case lowers the holders of
the one record held and evaluates retirement; a restart read's release latches no section (the model's choice,
notes/assumptions/20.md; R78, R79). Model's own: notes/assumptions/2.md, 33.md. -/
def Obligations.ReaderTimersExpire : Prop :=
  (∀ (reader : ReaderId) (h : HeldPair) (s : State) (r : Nat), s.hw.resetAsserted = false →
    (s.hw.reader reader).lease = .running r → (s.hw.reader reader).held = some h →
    s.hw.post (.reader reader) ≠ .posted → s.hw.report.queue.length < 16 →
    ∃ t : State, exec (.leaseExpiry reader) s = .next t ∧ t.pending = s.pending ∧
      t.hw.reader reader =
        { state := .idle, held := none, lastTaken := (s.hw.reader reader).lastTaken, away := false, lease := .stopped } ∧
      t.hw.report.flags.getLsbD EventFlag.readerLapsed.bit = true ∧
      t.hw.report.queue = s.hw.report.queue ++
        [{ seq := s.hw.report.seq, stamp := (passTime r s.hw).now, take := s.hw.take,
           body := .readerEvent .leaseLapsed reader Damage.none h.number h.take 0 }] ∧
      (∀ (older newer : List PairRecord) (pair : PairRecord), s.hw.pairs.queue = older ++ pair :: newer → pair.asHeld = h →
        (∀ k ∈ older, k.asHeld ≠ h) →
        let lowered : PairRecord := { pair with holders := pair.holders - 1 }
        (lowered.holders ≠ 0 ∨ (pair.stale = false ∧ ∀ k ∈ newer, k.state ≠ .ready) → lowered ∈ t.hw.pairs.queue) ∧
        (pair.state = .ready → pair.stale = true → lowered.holders = 0 → lowered ∉ t.hw.pairs.queue)) ∧
      let busy := ∃ k, k ≠ reader ∧ ((s.hw.reader k).state = .holding ∨ (s.hw.reader k).state = .parked)
      (∀ w, s.hw.rig.windowChange = some w → ¬busy → t.hw.rig = { s.hw.rig with
        global := { s.hw.rig.global with windowBase := w.base, layout := w.layout }, windowChange := none }) ∧
      (s.hw.rig.windowChange = none ∨ busy → t.hw.rig = s.hw.rig) ∧
      t.hw.req = s.hw.req ∧ t.hw.streams = s.hw.streams ∧ t.hw.txn.issue = s.hw.txn.issue) ∧
  (∀ (e : Nat) (k : ParkedRead) (v : Entry) (s : State) (r : Nat), s.hw.resetAsserted = false →
    s.hw.readers.parkList.find? (fun j => j.entry == e) = some k → k.timer = .running r → s.hw.entry e = some v →
    v.kind = .read →
    let q := passTime r s.hw
    let left := q.readers.parkList.filter fun j => j.entry != e
    let last := decide ((s.hw.reader k.reader).state = .parked ∧ ∀ j ∈ left, j.reader ≠ k.reader)
    let reported := queueRecord q.now q.take (.readerEvent .parkExpired k.reader Damage.none 0 0 k.offset) q
    let answer : Entry :=
      { v with
        state := .returning, outstanding := 0, code := .noPair, data := fillBytes s.hw.rig.global.fill v.addr.toNat v.length }
    let answered : Part := { reported with
      readers :=
        { ctx := if last then q.readers.ctx.set k.reader { q.reader k.reader with state := .idle } else q.readers.ctx
          parkList := left }
      req := { s.hw.req with table := s.hw.req.table.set e (some answer), returning := s.hw.req.returning ++ [e] } }
    let idled := if last then checkWindow (latchReaderIfPosted k.reader answered) else answered
    exec (.parkTimerExpiry e) s = .next { s with hw := markChanged s.hw idled }) ∧
  (∀ (reader : ReaderId) (h : HeldPair) (s : State) (r : Nat), s.hw.resetAsserted = false →
    (s.hw.reader reader).lease = .running r → (s.hw.reader reader).held = some h →
    let q := passTime r s.hw
    let lapsed := queueRecord q.now s.hw.take (.readerEvent .leaseLapsed reader Damage.none h.number h.take 0)
      (setFlag .readerLapsed (release reader true q))
    exec (.leaseExpiry reader) s = .next { s with hw := markChanged s.hw lapsed }) ∧
  (∀ (r : ReaderId) (latch : Bool) (p : Part),
    ((p.reader r).held = none → release r latch p = p) ∧
    ∀ h, (p.reader r).held = some h →
      let idle : ReaderCtx :=
        { state := .idle, held := none, lastTaken := (p.reader r).lastTaken, away := false, lease := .stopped }
      let freed : Part := { p with readers := { p.readers with ctx := p.readers.ctx.set r idle } }
      release r latch p = evaluateRetirement (onHolders h (· - 1)
        (checkWindow (if latch = true ∧ p.post (.reader r) = .posted then latchReader r freed else freed)))) ∧
  (∀ (r : ReaderId) (p : Part),
    latchReaderIfPosted r p = if p.post (.reader r) = .posted then latchReader r p else p) ∧
  (∀ (h : HeldPair) (f : Nat → Nat) (p : Part),
    (∀ (older newer : List PairRecord) (k : PairRecord), p.pairs.queue = older ++ k :: newer →
      k.number = h.number ∧ k.take = h.take ∧ k.leftSlot = h.leftSlot →
      (∀ j ∈ older, ¬(j.number = h.number ∧ j.take = h.take ∧ j.leftSlot = h.leftSlot)) →
      onHolders h f p = { p with pairs := { p.pairs with queue := older ++ { k with holders := f k.holders } :: newer } }) ∧
    ((∀ j ∈ p.pairs.queue, ¬(j.number = h.number ∧ j.take = h.take ∧ j.leftSlot = h.leftSlot)) → onHolders h f p = p)) ∧
  ∀ p : Part,
    let busy := ∃ k, (p.reader k).state = .holding ∨ (p.reader k).state = .parked
    (p.rig.windowChange = none ∨ busy → checkWindow p = p) ∧
    ∀ w, p.rig.windowChange = some w → ¬busy → checkWindow p = { p with
      rig := { p.rig with
        global := { p.rig.global with windowBase := w.base, layout := w.layout }, windowChange := none } }

/-- The frame timer of a slot in FILLING or LANDING that no pair record names: the frame is lost TIMED_OUT, the slot drains or
is free, and a stream that has it open goes to SPILL (R20, R32, R34, R36, R42). A match timer likewise loses the frame
ORPHANED (R53). A frame linked in a FORMING pair that is TIMED_OUT takes its partner with it, which is abandoned PARTNER_LOST,
and the pair record is removed, one FRAME_LOST record for each (R35, R57; no reader with policy EVERY has parked reads). What
an abandonment does, in the order of R34: a slot in a state not listed for the reason is left as it is; otherwise it drains
and its timers stop, its stream is told where the reason is one that tells it (R20), a FORMING pair is removed with its
partner, and, where it is current, that is announced (R57, R83; a record is current while its stale mark is clear,
notes/assumptions/33.md), retirement is evaluated, FRAME_LOST is raised with the take of the pair or the take in force (R36),
and the slot is FREE where nothing of it is outstanding (R42). Model's own: notes/assumptions/2.md. -/
def Obligations.SlotTimersAbandonUnlinkedFrames : Prop :=
  (∀ (x : Eye) (i : Nat) (s : State) (r : Nat), s.hw.resetAsserted = false → i < (s.hw.slots.get x).length →
    (s.hw.slot x i).partner = none → recordOf s.hw x i = none → s.hw.report.counters.length = 20 →
    ∀ (c : Instr) (reason : LostReason),
    (c = .frameTimerExpiry x i ∧ reason = .timedOut ∧ (s.hw.slot x i).frameTimer = .running r ∧
      ((s.hw.slot x i).state = .filling ∨ (s.hw.slot x i).state = .landing)) ∨
    (c = .matchTimerExpiry x i ∧ reason = .orphaned ∧ s.hw.matchTimer x i = .running r ∧
      (s.hw.slot x i).state.live = true) →
    ∃ t : State, exec c s = .next t ∧ t.pending = s.pending ∧
      t.hw.slot x i = SlotRecord.freeIfDrained { s.hw.slot x i with state := .draining, frameTimer := .stopped } ∧
      t.hw.matchTimer x i = .stopped ∧
      t.hw.stream x =
        (if (s.hw.slot x i).state = .filling ∧ (s.hw.stream x).state = .open ∧ (s.hw.stream x).currentSlot = some i then
          { s.hw.stream x with state := .spill, currentSlot := none } else s.hw.stream x) ∧
      t.hw.stream x.other = s.hw.stream x.other ∧
      t.hw.count (.lost reason) = s.hw.count (.lost reason) + 1 ∧
      t.hw.report.flags.getLsbD EventFlag.frameLost.bit = true ∧
      t.hw.rig = s.hw.rig ∧ t.hw.req = s.hw.req) ∧
  (∀ (x : Eye) (i j : Nat) (q : PairRecord) (s : State) (r : Nat), s.hw.resetAsserted = false →
    s.hw.report.counters.length = 20 → i < (s.hw.slots.get x).length → (s.hw.slot x i).frameTimer = .running r →
    (s.hw.slot x i).state = .filling ∨ (s.hw.slot x i).state = .landing →
    recordOf s.hw x i = some q → q.state = .forming → q.slotOf x.other = j → j < (s.hw.slots.get x.other).length →
    (s.hw.slot x.other j).state.live = true → (s.hw.slot x.other j).partner ≠ none →
    (∀ k ∈ s.hw.readers.parkList, (s.hw.readerSettings k.reader).policy = .latest) → s.hw.report.queue.length + 2 ≤ 16 →
    let own := s.hw.slot x i
    let partner := s.hw.slot x.other j
    ∃ t : State, exec (.frameTimerExpiry x i) s = .next t ∧ t.pending = s.pending ∧
      t.hw.stream x =
        (if own.state = .filling ∧ (s.hw.stream x).state = .open ∧ (s.hw.stream x).currentSlot = some i then
          { s.hw.stream x with state := .spill, currentSlot := none } else s.hw.stream x) ∧
      t.hw.stream x.other =
        (if partner.state = .filling ∧ (s.hw.stream x.other).state = .open ∧
            (s.hw.stream x.other).currentSlot = some j then
          { s.hw.stream x.other with state := .spill, currentSlot := none } else s.hw.stream x.other) ∧
      t.hw.slot x i = SlotRecord.freeIfDrained { own with state := .draining, frameTimer := .stopped } ∧
      t.hw.slot x.other j = SlotRecord.freeIfDrained { partner with state := .draining, frameTimer := .stopped } ∧
      t.hw.matchTimer x i = .stopped ∧ t.hw.matchTimer x.other j = .stopped ∧
      (∀ k ∈ t.hw.pairs.queue, k ∈ s.hw.pairs.queue ∧ k ≠ q) ∧
      (∀ k ∈ s.hw.pairs.queue, k.state = .forming → k ≠ q → k ∈ t.hw.pairs.queue) ∧
      t.hw.count (.lost .timedOut) = s.hw.count (.lost .timedOut) + 1 ∧
      t.hw.count (.lost .partnerLost) = s.hw.count (.lost .partnerLost) + 1 ∧
      t.hw.report.flags.getLsbD EventFlag.frameLost.bit = true ∧
      t.hw.report.queue = s.hw.report.queue ++
        [{ seq := s.hw.report.seq, stamp := partner.startStamp, take := partner.pairTake.getD s.hw.take,
           body := .frameLost .partnerLost partner.frameNumber partner.pairNumber x.other (some j) partner.endReached },
         { seq := s.hw.report.seq + 1, stamp := own.startStamp, take := own.pairTake.getD s.hw.take,
           body := .frameLost .timedOut own.frameNumber own.pairNumber x (some i) own.endReached }] ∧
      t.hw.rig = s.hw.rig ∧ t.hw.req = s.hw.req) ∧
  (∀ (x : Eye) (i : Nat) (s : State) (r : Nat), s.hw.resetAsserted = false →
    let q := passTime r s.hw
    ((s.hw.slot x i).frameTimer = .running r →
      exec (.frameTimerExpiry x i) s = .next { s with hw := markChanged s.hw (abandon x i .timedOut q) }) ∧
    (s.hw.matchTimer x i = .running r →
      exec (.matchTimerExpiry x i) s = .next { s with hw := markChanged s.hw (abandon x i .orphaned { q with
        pairs := { q.pairs with
          matchTimers := q.pairs.matchTimers.set x ((q.pairs.matchTimers.get x).set i .stopped) } }) })) ∧
  ∀ (p : Part) (x : Eye) (i : Nat) (reason : LostReason),
    let own := p.slot x i
    let accepted : Prop := match reason with
      | .truncated => own.state = .filling
      | .syncLost => own.state = .filling
      | .timedOut => own.state = .filling ∨ own.state = .landing
      | .orphaned => own.state.live = true ∧ own.partner = none
      | .partnerLost => own.state.live = true ∧ own.partner ≠ none
      | .starved => False
    let tells := reason = .timedOut ∨ reason = .orphaned ∨ reason = .partnerLost
    let drained (y : Eye) (k : Nat) (tell : Bool) (u : Part) : Part := { u with
      slots := u.slots.set y ((u.slots.get y).modify k fun r => { r with state := .draining, frameTimer := .stopped })
      streams :=
        if tell = true ∧ (u.slot y k).state = .filling ∧ (u.stream y).state = .open ∧
            (u.stream y).currentSlot = some k then
          u.streams.set y { u.stream y with state := .spill, currentSlot := none }
        else u.streams
      pairs := { u.pairs with
        matchTimers := u.pairs.matchTimers.set y ((u.pairs.matchTimers.get y).set k .stopped) } }
    let lost (y : Eye) (k : Nat) (why : LostReason) (r : SlotRecord) (u : Part) : Part :=
      let told := queueRecord r.startStamp (r.pairTake.getD u.take)
        (.frameLost why r.frameNumber r.pairNumber y (some k) r.endReached) (raise (.lost why) (setFlag .frameLost u))
      { told with slots := told.slots.set y ((told.slots.get y).modify k SlotRecord.freeIfDrained) }
    (¬accepted → abandon x i reason p = p) ∧
    (accepted → (∀ k ∈ p.pairs.queue, k.slotOf x = i → k.state = .ready) →
      abandon x i reason p = lost x i reason own (evaluateRetirement (drained x i (decide tells) p))) ∧
    ∀ (older newer : List PairRecord) (q : PairRecord), accepted → p.pairs.queue = older ++ q :: newer →
      (∀ k ∈ older, k.slotOf x ≠ i) → q.slotOf x = i → q.state = .forming →
      let j := q.slotOf x.other
      let partner := p.slot x.other j
      let own0 := drained x i (decide tells) p
      let removed : Part :=
        { own0 with pairs := { own0.pairs with queue := older ++ newer.filter fun k => decide (k ≠ q) } }
      let alone : Part :=
        if partner.state.live = true ∧ partner.partner ≠ none then
          lost x.other j .partnerLost partner (evaluateRetirement (drained x.other j true removed))
        else removed
      abandon x i reason p =
        lost x i reason own (evaluateRetirement (if q.stale = true then alone else announceRemoval alone))

/-! ### The rig table -/

/-- A RIG write that covers no check word (during LOADING: any) and not the event clear word lands in the staged shadow and
goes on as one piece: in RUNNING the sections it touches become UNPOSTED, during LOADING the words take the write mark and
lose a fault mark. No active setting changes (R148, R149, R173, R178). A word written in part keeps its other bytes: the write
is applied byte by byte (R173). Model's own: notes/assumptions/8.md, 10.md, 40.md. -/
def Obligations.RigWritesLandInTheShadow : Prop :=
  (∀ (q : Request) (e o : Nat) (s : State), s.hw.resetAsserted = false → s.hw.Accepts q e .rig o → q.kind = .write → q.Whole →
    let loading := decide (s.hw.rig.partState = .loading)
    (loading = false → ∀ k, touchesCheck o q.length k = false) → o + q.length ≤ 4092 →
    ∃ staged : Shadow,
      exec .rigWrite s = .next { s with hw := markChanged s.hw { s.hw with
        rig := { s.hw.rig with shadow := staged }
        req := s.hw.req.waiting e { entryOf q .rig 0 with outstanding := 1 }
        txn := { s.hw.txn with
          issue := s.hw.txn.issue ++
            [[{ kind := .write, addr := q.addr.toNat, length := q.length, data := q.data, source := q.source, entry := e,
                role := .passThrough }]] } } } ∧
      ∀ k,
        (staged.get k).post =
          (if loading = false ∧ touchesSection o q.length k = true then .unposted else (s.hw.rig.shadow.get k).post) ∧
        ∀ (j : Nat) (w : ShadowWord), (s.hw.rig.shadow.get k).words[j]? = some w →
          (staged.get k).words[j]? = some (
            if o < sectionOffset k + 4 * j + 4 ∧ sectionOffset k + 4 * j < o + q.length then
              { value := writtenWord o q.data (sectionOffset k + 4 * j) w.value, written := w.written || loading,
                faulted := w.faulted && !loading }
            else w)) ∧
  ∀ (o place i : Nat) (data : List Byte) (old : Word), i < 4 →
    (writtenWord o data place old).extractLsb' (8 * i) 8 =
      if o ≤ place + i ∧ place + i < o + data.length then data.getD (place + i - o) 0 else old.extractLsb' (8 * i) 8

/-- A check word that does not match rejects its section with CHECK: post state REJECTED, CONFIG_REJECTED set and recorded,
and no active setting changes (R173, R175). A matching check word posts its section; an EYE section of a stream in BETWEEN,
OPEN or SPILL and a READER section of a PARKED or HOLDING reader wait POSTED for their latch point (R173, R174). The write
covers this check word only in these two clauses. Any write that covers a check word, in either part state, is passed on as
one piece and its entry waits for one result (R148, R149). In RUNNING it lands in the shadow whole, and then the sections it
touches are treated in their order: one whose check word it covers is posted, and latches at once where its latch point has
come, or is rejected, and another one is UNPOSTED (R173, R174). The checks of a section at its latch point and the reason each
gives, in their order (R175, R176, R44, R90, R96); which words fail RANGE, SectionsHoldTheirSettings says. Model's own:
notes/assumptions/8.md, 10.md, 24.md, 40.md. -/
def Obligations.CheckWordsRejectOrPost : Prop :=
  (∀ (k : Section) (q : Request) (e o : Nat) (s : State), s.hw.resetAsserted = false → s.hw.Accepts q e .rig o →
    q.kind = .write → q.Whole → s.hw.rig.partState = .running → (∀ j, touchesCheck o q.length j = true ↔ j = k) →
    checkMatches ((writeShadow o q.data s.hw).staged k) = false → s.hw.report.queue.length < 16 →
    ∃ t : State, exec .checkWordWrite s = .next t ∧ t.pending = s.pending ∧ t.hw.post k = .rejected ∧
      (∀ j, j ≠ k → t.hw.post j = .unposted ∨ t.hw.post j = s.hw.post j) ∧
      t.hw.rig = { s.hw.rig with shadow := t.hw.rig.shadow } ∧
      t.hw.report.flags.getLsbD EventFlag.configRejected.bit = true ∧
      t.hw.report.queue = s.hw.report.queue ++
        [{ seq := s.hw.report.seq, stamp := s.hw.now, take := s.hw.take, body := .configRejected .check k false }] ∧
      t.hw.readers = s.hw.readers ∧ t.hw.pairs = s.hw.pairs ∧ t.hw.streams = s.hw.streams ∧ t.hw.skew = s.hw.skew) ∧
  (∀ (k : Section) (q : Request) (e o : Nat) (s : State), s.hw.resetAsserted = false → s.hw.Accepts q e .rig o →
    q.kind = .write → q.Whole → s.hw.rig.partState = .running → (∀ j, touchesCheck o q.length j = true ↔ j = k) →
    checkMatches ((writeShadow o q.data s.hw).staged k) = true →
    (∃ x, k = .eye x ∧ (s.hw.stream x).state ≠ .off ∧ (s.hw.stream x).state ≠ .waitingSync) ∨
      (∃ r, k = .reader r ∧ (s.hw.reader r).state ≠ .idle ∧ (s.hw.reader r).state ≠ .unbound) →
    ∃ t : State, exec .checkWordWrite s = .next t ∧ t.pending = s.pending ∧ t.hw.post k = .posted ∧
      t.hw.rig = { s.hw.rig with shadow := t.hw.rig.shadow } ∧ t.hw.report.flags = s.hw.report.flags ∧
      t.hw.readers = s.hw.readers ∧ t.hw.pairs = s.hw.pairs ∧ t.hw.streams = s.hw.streams ∧ t.hw.skew = s.hw.skew) ∧
  (∀ (q : Request) (e o : Nat) (s : State), s.hw.resetAsserted = false → s.hw.Accepts q e .rig o → q.kind = .write → q.Whole →
    (∃ k, touchesCheck o q.length k = true) →
    ∃ t : State, exec .checkWordWrite s = .next t ∧ t.pending = s.pending ∧
      t.hw.req = s.hw.req.waiting e { entryOf q .rig 0 with outstanding := 1 } ∧
      t.hw.txn = { s.hw.txn with issue := s.hw.txn.issue ++ [[q.asPiece e]] }) ∧
  (∀ (q : Request) (e o : Nat) (s : State), s.hw.resetAsserted = false → s.hw.Accepts q e .rig o → q.kind = .write → q.Whole →
    s.hw.rig.partState = .running → (∃ k, touchesCheck o q.length k = true) →
    let treat (p : Part) (k : Section) : Part :=
      let posted := p.withPost k .posted
      if touchesCheck o q.length k = true then
        if checkMatches (p.staged k) = true then
          match k with
          | .global => latchGlobal true posted
          | .sync => latchSync false posted
          | .eye x =>
            if (p.stream x).state = .off ∨ (p.stream x).state = .waitingSync then latchEyeIdle x posted else posted
          | .reader r => if (p.reader r).state = .idle ∨ (p.reader r).state = .unbound then latchReader r posted else posted
        else p.withRejected k .check false
      else if touchesSection o q.length k = true then p.withPost k .unposted
      else p
    let handed : Part := { s.hw with req := s.hw.req.waiting e (entryOf q .rig 0) }
    let treated := [Section.global, .sync, .eye .left, .eye .right, .reader .a, .reader .b, .reader .c, .reader .d].foldl treat
      (writeShadow o q.data handed)
    exec .checkWordWrite s = .next { s with hw := markChanged s.hw { treated with
      req := s.hw.req.waiting e { entryOf q .rig 0 with outstanding := 1 }
      txn := { s.hw.txn with issue := s.hw.txn.issue ++ [[q.asPiece e]] } } }) ∧
  ∀ (p : Part) (ws : List Word),
    let meets (a m b n : Nat) : Prop := a < b + n ∧ b < a + m
    let rig := 2 ^ 37 * p.rig.rigsel.toNat
    let eye (x : Eye) : EyeSettings := p.eyeSettings x
    let pool (e : EyeSettings) : Nat := e.slotCount * e.slotStride
    let global := p.rig.global
    let ring (g : GlobalSettings) : Nat := 256 + 32 * g.ringSize
    let meetsGlobal (g : GlobalSettings) : Prop :=
      meets g.windowBase (2 ^ 29) g.reportBase (ring g) ∨
        ∃ a n, (a = g.windowBase ∧ n = 2 ^ 29 ∨ a = g.reportBase ∧ n = ring g) ∧
          (meets a n rig 4096 ∨ ∃ x, meets a n (eye x).captureBase (2 ^ 28) ∨ meets a n (eye x).poolBase (pool (eye x)))
    let meetsEye (x : Eye) (e : EyeSettings) : Prop :=
      meets e.captureBase (2 ^ 28) e.poolBase (pool e) ∨
        ∃ a n, (a = e.captureBase ∧ n = 2 ^ 28 ∨ a = e.poolBase ∧ n = pool e) ∧
          (meets a n rig 4096 ∨ meets a n (eye x.other).captureBase (2 ^ 28) ∨
            meets a n (eye x.other).poolBase (pool (eye x.other)) ∨ meets a n global.reportBase (ring global) ∨
            meets a n global.windowBase (2 ^ 29) ∨ ∃ w, p.rig.windowChange = some w ∧ meets a n w.base (2 ^ 29))
    let fits (g : Geometry) : Prop :=
      g.width * g.pixelBytes ≤ 49152 ∧ g.pitch % 64 = 0 ∧ g.width * g.pixelBytes ≤ g.pitch ∧ g.pitch ≤ 65536
    let band (g : Geometry) : Prop := g.top + g.bottom < g.lines ∧ g.shift.natAbs + g.top + g.bottom < g.lines
    let pooled (x : Eye) (e : EyeSettings) : Prop :=
      e.geom.pitch * e.geom.lines ≤ e.slotStride ∧
        ((e.poolBase = (eye x).poolBase ∧ e.slotCount = (eye x).slotCount ∧ e.slotStride = (eye x).slotStride) ∨
          ((p.stream x).state = .off ∧ (∀ r ∈ p.slots.get x, r.state = .free) ∧ 3 ≤ e.slotCount ∧ e.slotCount ≤ 8 ∧
            e.poolBase % 4096 = 0 ∧ e.slotStride % 4096 = 0 ∧ e.poolBase + pool e ≤ 2 ^ 40))
    let shared (r : ReaderId) (v : ReaderSettings) : Prop := v.enabled = true ∧ (v.sourceTag = 63 ∨
      ∃ k, k ≠ r ∧ (p.readerSettings k).enabled = true ∧ (p.readerSettings k).sourceTag = v.sourceTag)
    (parseGlobal ws = none → validateGlobal p ws = .error .range) ∧
    (∀ g, parseGlobal ws = some g →
      (meetsGlobal g → validateGlobal p ws = .error .overlap) ∧ (¬meetsGlobal g → validateGlobal p ws = .ok g)) ∧
    (∀ x, parseEye ws = none → validateEye p x ws = .error .range) ∧
    (∀ x e, parseEye ws = some e →
      (¬fits e.geom → validateEye p x ws = .error .geometry) ∧
      (fits e.geom → ¬band e.geom → validateEye p x ws = .error .band) ∧
      (fits e.geom → band e.geom → ¬pooled x e → validateEye p x ws = .error .pool) ∧
      (fits e.geom → band e.geom → pooled x e → meetsEye x e → validateEye p x ws = .error .overlap) ∧
      (fits e.geom → band e.geom → pooled x e → ¬meetsEye x e → validateEye p x ws = .ok e)) ∧
    (∀ r, parseReader ws = none → validateReader p r ws = .error .range) ∧
    ∀ r v, parseReader ws = some v →
      (shared r v → validateReader p r ws = .error .reader) ∧ (¬shared r v → validateReader p r ws = .ok v)

/-- A matching check word of the SYNC section latches it at once: settings within R125 come into force and the section is
UNPOSTED; others reject it with RANGE and leave the settings in force (R125, R135, R174, R175); WARN and FAULT are judged by
the new limits where both eyes are LOCKED and the filter is seeded, a trim value that the new bounds or the new follower move
is told to the sender, and the saturation count is 0 unless the clamp leaves the trim value and the follower as they are
(R130, R135). A matching check word of a READER section latches it at once while the reader is IDLE or UNBOUND: settings that
pass come into force, an UNBOUND reader they enable goes to IDLE with its last-taken raised to the newest current READY number
minus 1 where that is higher (a record is current while its stale mark is clear, notes/assumptions/33.md), and a disabled one
goes to UNBOUND; settings that fail a check are rejected and change nothing else (R90, R174, R175). The write covers this
check word only. Whenever a READER section latches it does so: the settings come into force or are rejected, then PRDY and
retirement are evaluated (R59, R64, R90). Model's own: notes/assumptions/8.md, 22.md, 26.md. -/
def Obligations.SyncSectionsLatchAtOnce : Prop :=
  (∀ (q : Request) (e o : Nat) (s : State), s.hw.resetAsserted = false → s.hw.Accepts q e .rig o →
    q.kind = .write → q.Whole → s.hw.rig.partState = .running → (∀ j, touchesCheck o q.length j = true ↔ j = .sync) →
    let words := (writeShadow o q.data s.hw).staged .sync
    checkMatches words = true →
    ∃ t : State, exec .checkWordWrite s = .next t ∧ t.pending = s.pending ∧
      (∀ y, parseSync words = some y → t.hw.rig.sync = y ∧ t.hw.post .sync = .unposted ∧
        (s.hw.rig.sync.follower ≠ y.follower → t.hw.skew.trim = y.trimStart ∧ t.hw.skew.satCount = 0) ∧
        (s.hw.rig.sync.follower = y.follower → y.trimMin ≤ y.trimMax →
          t.hw.skew.trim = max y.trimMin (min s.hw.skew.trim y.trimMax)) ∧
        (s.hw.rig.sync.divider ≠ y.divider → t.hw.skew.sampleCount = 0) ∧
        (s.hw.rig.sync.divider = y.divider → t.hw.skew.sampleCount = s.hw.skew.sampleCount) ∧
        let measured := s.hw.skew.lockView = ⟨true, true⟩ ∧ s.hw.skew.seed = false
        let e := (s.hw.skew.f - 256 * y.target).natAbs
        (measured →
          (t.hw.skew.warn = true ↔
            if s.hw.skew.warn then 256 * ((y.warnLimit : Int) - y.hysteresis) < e else 256 * y.warnLimit < e) ∧
          (t.hw.skew.fault = true ↔
            if s.hw.skew.fault then 256 * ((y.faultLimit : Int) - y.hysteresis) < e else 256 * y.faultLimit < e)) ∧
        (¬measured → t.hw.skew.warn = s.hw.skew.warn ∧ t.hw.skew.fault = s.hw.skew.fault) ∧
        (s.hw.rig.sync.follower = y.follower → t.hw.skew.trim = s.hw.skew.trim → t.hw.skew.satCount = s.hw.skew.satCount) ∧
        (s.hw.rig.sync.follower ≠ y.follower ∨ t.hw.skew.trim ≠ s.hw.skew.trim → t.hw.skew.satCount = 0) ∧
        (t.hw.skew.trim = s.hw.skew.trim → t.hw.skew.sender = s.hw.skew.sender) ∧
        (t.hw.skew.trim ≠ s.hw.skew.trim → s.hw.skew.sender.state = .idle → t.hw.skew.sender =
          { s.hw.skew.sender with state := .sending, word := some t.hw.skew.trim, timer := .running 4000 }) ∧
        (t.hw.skew.trim ≠ s.hw.skew.trim → s.hw.skew.sender.state ≠ .idle →
          t.hw.skew.sender = { s.hw.skew.sender with pending := true }) ∧
        t.hw.skew.lockView = s.hw.skew.lockView ∧ t.hw.skew.latest = s.hw.skew.latest ∧ t.hw.skew.f = s.hw.skew.f ∧
        t.hw.skew.seed = s.hw.skew.seed ∧ t.hw.skew.d = s.hw.skew.d) ∧
      (parseSync words = none → t.hw.rig.sync = s.hw.rig.sync ∧ t.hw.post .sync = .rejected ∧ t.hw.skew = s.hw.skew ∧
        t.hw.report.flags.getLsbD EventFlag.configRejected.bit = true) ∧
      t.hw.rig.global = s.hw.rig.global ∧ t.hw.rig.eye = s.hw.rig.eye ∧ t.hw.rig.reader = s.hw.rig.reader ∧
      t.hw.readers = s.hw.readers ∧ t.hw.pairs = s.hw.pairs ∧ t.hw.streams = s.hw.streams) ∧
  (∀ (r : ReaderId) (q : Request) (e o : Nat) (s : State), s.hw.resetAsserted = false → s.hw.Accepts q e .rig o →
    q.kind = .write → q.Whole → s.hw.rig.partState = .running → (∀ j, touchesCheck o q.length j = true ↔ j = .reader r) →
    (s.hw.reader r).state = .idle ∨ (s.hw.reader r).state = .unbound →
    let words := (writeShadow o q.data s.hw).staged (.reader r)
    checkMatches words = true →
    ∃ t : State, exec .checkWordWrite s = .next t ∧ t.pending = s.pending ∧
      (∀ v, validateReader s.hw r words = .ok v →
        t.hw.rig = { s.hw.rig with shadow := t.hw.rig.shadow, reader := s.hw.rig.reader.set r v } ∧
        t.hw.post (.reader r) = .unposted ∧
        (v.enabled = false → t.hw.reader r = { s.hw.reader r with state := .unbound }) ∧
        (v.enabled = true → (s.hw.reader r).state = .idle → t.hw.reader r = s.hw.reader r) ∧
        (v.enabled = true → (s.hw.reader r).state = .unbound → t.hw.reader r = { s.hw.reader r with
          state := .idle
          lastTaken := match (s.hw.pairs.queue.filter fun k => !k.stale && k.state == .ready).getLast? with
            | some k => max (s.hw.reader r).lastTaken (k.number - 1)
            | none => (s.hw.reader r).lastTaken }) ∧
        t.hw.report.flags = s.hw.report.flags) ∧
      (∀ reason, validateReader s.hw r words = .error reason →
        t.hw.rig = { s.hw.rig with shadow := t.hw.rig.shadow } ∧ t.hw.post (.reader r) = .rejected ∧
        t.hw.readers = s.hw.readers ∧ t.hw.pairs = s.hw.pairs ∧
        t.hw.report.flags.getLsbD EventFlag.configRejected.bit = true) ∧
      (∀ k, k ≠ r → t.hw.reader k = s.hw.reader k) ∧ t.hw.readers.parkList = s.hw.readers.parkList ∧
      t.hw.streams = s.hw.streams ∧ t.hw.skew = s.hw.skew ∧ t.hw.sync = s.hw.sync) ∧
  ∀ (r : ReaderId) (p : Part),
    let words := p.staged (.reader r)
    let c := p.reader r
    let unposted := p.withPost (.reader r) .unposted
    (∀ reason, validateReader p r words = .error reason → latchReader r p = p.withRejected (.reader r) reason false) ∧
    ∀ v, validateReader p r words = .ok v →
      let joined : ReaderCtx := { c with
        state := .idle
        lastTaken := match (p.pairs.queue.filter fun k => !k.stale && k.state == .ready).getLast? with
          | some k => max c.lastTaken (k.number - 1)
          | none => c.lastTaken }
      let next : ReaderCtx :=
        if v.enabled = false then { c with state := .unbound } else if c.state = .unbound then joined else c
      latchReader r p = evaluateRetirement (evaluatePrdy { unposted with
        rig := { unposted.rig with reader := p.rig.reader.set r v }
        readers := { p.readers with ctx := p.readers.ctx.set r next } })

/-- A GLOBAL section that latches with another take number begins a take: the records of the old take are stale, the READY
ones that no reader holds retire, and the held READY ones and the FORMING ones stay in the queue in their order (R61 steps 1
to 4); pair numbers start again at 1, frame numbers and last-taken at 0, and TAKE_CHANGE is recorded (R21, R61, R84, R174).
One with the take number in force changes no pair, stream or reader but for PRDY. At either, the window fields wait while a
reader is HOLDING or PARKED, a later latch replacing or cancelling the waiting change (R91, R174); a changed report region
base or ring size sets the ring write index to 0 and makes a status write due (R186); ALERT_N follows the new enables (R181).
The write covers this check word only. Model's own: notes/assumptions/8.md, 28.md, 33.md. -/
def Obligations.TakeChangesBeginANewTake : Prop :=
  (∀ (q : Request) (e o : Nat) (g : GlobalSettings) (s : State), s.hw.resetAsserted = false → s.hw.Accepts q e .rig o →
    q.kind = .write → q.Whole → s.hw.rig.partState = .running → (∀ j, touchesCheck o q.length j = true ↔ j = .global) →
    let words := (writeShadow o q.data s.hw).staged .global
    checkMatches words = true → validateGlobal s.hw words = .ok g → g.take ≠ s.hw.take → s.hw.report.queue.length < 16 →
    ∃ t : State, exec .checkWordWrite s = .next t ∧ t.pending = s.pending ∧ t.hw.post .global = .unposted ∧
      t.hw.rig.global =
        (if anyBusy s.hw then { g with windowBase := s.hw.rig.global.windowBase, layout := s.hw.rig.global.layout } else g) ∧
      (∀ k ∈ t.hw.pairs.queue, k.stale = true ∧ (k.state = .ready → k.holders ≠ 0)) ∧
      t.hw.pairs.queue = (s.hw.pairs.queue.filter fun k => decide (k.state = .forming ∨ k.holders ≠ 0)).map
        (fun k => { k with stale := true }) ∧
      t.hw.slots = (evaluateRetirement { s.hw with
        pairs := { s.hw.pairs with queue := s.hw.pairs.queue.map fun k => { k with stale := true } } }).slots ∧
      t.hw.pairs.matchTimers = s.hw.pairs.matchTimers ∧ (∀ x, t.hw.stream x = { s.hw.stream x with frameNumber := 0 }) ∧
      (∀ r, t.hw.reader r = { s.hw.reader r with lastTaken := 0 }) ∧ t.hw.readers.parkList = s.hw.readers.parkList ∧
      t.hw.pairs.nextNumber = some 1 ∧ (∀ x, (t.hw.stream x).frameNumber = 0) ∧ (∀ r, (t.hw.reader r).lastTaken = 0) ∧
      t.hw.report.queue = s.hw.report.queue ++
        [{ seq := s.hw.report.seq, stamp := s.hw.now, take := g.take, body := .takeChange s.hw.take g.take }] ∧
      t.hw.rig.sync = s.hw.rig.sync ∧ t.hw.rig.eye = s.hw.rig.eye ∧ t.hw.rig.reader = s.hw.rig.reader ∧
      t.hw.skew = s.hw.skew ∧ t.hw.sync = s.hw.sync) ∧
  ∀ (q : Request) (e o : Nat) (g : GlobalSettings) (s : State), s.hw.resetAsserted = false → s.hw.Accepts q e .rig o →
    q.kind = .write → q.Whole → s.hw.rig.partState = .running → (∀ j, touchesCheck o q.length j = true ↔ j = .global) →
    let words := (writeShadow o q.data s.hw).staged .global
    checkMatches words = true → validateGlobal s.hw words = .ok g →
    let busy := ∃ r, (s.hw.reader r).state = .holding ∨ (s.hw.reader r).state = .parked
    let old := s.hw.rig.global
    let moved := old.reportBase ≠ g.reportBase ∨ old.ringSize ≠ g.ringSize
    ∃ t : State, exec .checkWordWrite s = .next t ∧ t.pending = s.pending ∧ t.hw.post .global = .unposted ∧
      (busy → t.hw.rig.global = { g with windowBase := old.windowBase, layout := old.layout }) ∧
      (¬busy → t.hw.rig.global = g ∧ t.hw.rig.windowChange = none) ∧
      (busy → g.windowBase ≠ old.windowBase ∨ g.layout ≠ old.layout →
        t.hw.rig.windowChange = some { base := g.windowBase, layout := g.layout }) ∧
      (busy → g.windowBase = old.windowBase → g.layout = old.layout → t.hw.rig.windowChange = none) ∧
      (moved → t.hw.report.ringIndex = 0 ∧ t.hw.report.due = true) ∧
      (¬moved → t.hw.report.ringIndex = s.hw.report.ringIndex) ∧
      (g.take = s.hw.take ∨ s.hw.report.queue.length < 16 → t.hw.report.flags = s.hw.report.flags ∧
        (¬moved → t.hw.report.due = s.hw.report.due)) ∧
      t.hw.report.alertN = decide (t.hw.report.flags &&& g.alertEnables = 0) ∧
      (g.take = s.hw.take → t.hw.pairs.queue = s.hw.pairs.queue ∧ t.hw.pairs.nextNumber = s.hw.pairs.nextNumber ∧
        t.hw.pairs.matchTimers = s.hw.pairs.matchTimers ∧ t.hw.streams = s.hw.streams ∧ t.hw.readers = s.hw.readers ∧
        t.hw.slots = s.hw.slots ∧ t.hw.report.queue = s.hw.report.queue) ∧
      t.hw.rig.sync = s.hw.rig.sync ∧ t.hw.rig.eye = s.hw.rig.eye ∧ t.hw.rig.reader = s.hw.rig.reader ∧
      t.hw.skew = s.hw.skew ∧ t.hw.sync = s.hw.sync

/-- The response to the load read while its tag is IN_FLIGHT, good or FAULT, and its M-timeout hand the result to the rig
unit; the event of a failed one comes first (R163 to R166, R177; the model's order, notes/assumptions/14.md). The result: each
word of its 64 bytes that software has not written takes the value read, or the fault mark; the next load read is offered.
With the 64th the sections are taken in their order: one with a fault mark is rejected with CHECK and the load-fault mark, one
whose check word does not match with CHECK, and the others latch under their own rules, GLOBAL with no take change and no
TAKE_CHANGE record, SYNC with the sender told nothing, an EYE section as in OFF or WAITING_SYNC (R4, R138, R174, R179; no
filter is seeded and no reader is busy during LOADING). Then the part is RUNNING, the marks are cleared, the interval timer
runs, a status write is due, and a trim word carries the trim start (R138, R179, R183). Model's own: notes/assumptions/2.md. -/
def Obligations.TheLoadFillsTheShadowAndEnds : Prop :=
  (∀ (res : MResult) (p : Part), ∃ staged : Shadow,
    (∀ k, (staged.get k).post = p.post k ∧
      ∀ (j : Nat) (w : ShadowWord), (p.rig.shadow.get k).words[j]? = some w →
        let place := sectionOffset k + 4 * j
        (staged.get k).words[j]? = some (
          if p.rig.loadIndex * 64 ≤ place ∧ place < p.rig.loadIndex * 64 + 64 ∧ w.written = false then
            match res with
            | .ok data =>
              { w with value := BitVec.ofNat 32 (leNat ((data.drop (place - p.rig.loadIndex * 64)).take 4)) }
            | _ => { w with faulted := true }
          else w)) ∧
    (p.rig.loadIndex + 1 < 64 →
      loadReadResult res p = { p with
        rig := { p.rig with shadow := staged, loadIndex := p.rig.loadIndex + 1 }
        txn := { p.txn with
          injected := p.txn.injected ++
            [{ owner := .loadRead, kind := .read, addr := 2 ^ 37 * p.rig.rigsel.toNat + (p.rig.loadIndex + 1) * 64,
               length := 64, data := [], wait := 0 }] } }) ∧
    (64 ≤ p.rig.loadIndex + 1 →
      let ended := [Section.global, .sync, .eye .left, .eye .right, .reader .a, .reader .b, .reader .c, .reader .d].foldl
        loadSection { p with rig := { p.rig with shadow := staged } }
      let t := loadReadResult res p
      t = { ended with
        rig := { ended.rig with partState := .running, shadow := t.rig.shadow }
        skew := { ended.skew with
          trim := ended.rig.sync.trimStart
          sender := { ended.skew.sender with
            state := .sending, word := some ended.rig.sync.trimStart, timer := .running 4000 } }
        report := { ended.report with
          interval := .running (ended.rig.global.statusInterval * 250000), due := true } } ∧
      ∀ k, (t.rig.shadow.get k).post = ended.post k ∧
        (t.rig.shadow.get k).words = (ended.rig.shadow.get k).words.map
          (fun w => { w with written := false, faulted := false }))) ∧
  (∀ (c : Instr) (m elapsed : Nat) (te : TagEntry) (data : List Byte) (good : Bool) (s : State), s.hw.resetAsserted = false →
    s.hw.tag m = some te → te.state = .inFlight → te.owner = .injected .loadRead → te.kind = .read →
    ((∃ header : BitVec 64, c = .mportResponse header data ∧ m = header.toNat / 2 ^ 16 % 256 ∧ data.length = te.length ∧
        (good = true ↔ header.toNat / 2 ^ 24 % 256 = 0 ∧ header.toNat % 256 = 0 ∧
          header.toNat / 2 ^ 32 % 65536 + 1 = te.length)) →
      let fault := queueRecord s.hw.now s.hw.take (.memoryFault .fault te.addr .read te.owner te.source m te.length)
        (setFlag .memoryFault (raise .mFaults s.hw))
      let taken := if good = true then loadReadResult (.ok data) s.hw else loadReadResult .fault fault
      exec c s = .next { s with hw := markChanged s.hw { taken with txn := taken.txn.tagFreed m } }) ∧
    (c = .mTimeout m ∧ te.timer = .running elapsed →
      let q := passTime elapsed s.hw
      let late : Part := { q with
        txn := { q.txn with tags := q.txn.tags.set m (some { te with state := .quarantined, timer := .stopped }) } }
      let event := queueRecord q.now q.take (.memoryFault .timeout te.addr .read te.owner te.source m te.length)
        (setFlag .memoryFault (raise .mTimeouts late))
      exec c s = .next { s with hw := markChanged s.hw (loadReadResult .timedOut event) })) ∧
  ∀ (p : Part) (k : Section),
    let words := p.staged k
    let marked := ∃ w ∈ (p.rig.shadow.get k).words, w.faulted = true
    let unposted := p.withPost k .unposted
    let t := loadSection p k
    (marked → t = p.withRejected k .check true) ∧
    (¬marked → checkMatches words = false → t = p.withRejected k .check false) ∧
    (¬marked → checkMatches words = true →
      (k = .global →
        (∀ reason, validateGlobal p words = .error reason → t = p.withRejected k reason false) ∧
        ∀ g, validateGlobal p words = .ok g →
          (∀ r, (p.reader r).state ≠ .holding ∧ (p.reader r).state ≠ .parked) →
          let moved := p.rig.global.reportBase ≠ g.reportBase ∨ p.rig.global.ringSize ≠ g.ringSize
          t = { unposted with
            rig := { unposted.rig with global := g, windowChange := none }
            pairs := { p.pairs with prdy := t.pairs.prdy, prdyPulse := t.pairs.prdyPulse }
            report := { p.report with
              ringIndex := if moved then 0 else p.report.ringIndex
              due := p.report.due || decide moved
              alertN := decide (p.report.flags &&& g.alertEnables = 0) } } ∧
          (g.prdyMode = p.rig.global.prdyMode → g.prdyMode ≠ .level → t.pairs = p.pairs) ∧
          (g.prdyMode ≠ p.rig.global.prdyMode → t.pairs.prdyPulse = .stopped) ∧
          (g.prdyMode ≠ p.rig.global.prdyMode → g.prdyMode ≠ .level → t.pairs.prdy = false)) ∧
      (k = .sync →
        (parseSync words = none → t = p.withRejected k .range false) ∧
        ∀ y, parseSync words = some y → p.skew.seed = true →
          let old := p.rig.sync
          let trim :=
            if old.follower = y.follower then max y.trimMin (min p.skew.trim y.trimMax) else y.trimStart
          t = { unposted with
            rig := { unposted.rig with sync := y }
            skew := { p.skew with
              sampleCount := if old.divider = y.divider then p.skew.sampleCount else 0
              trim := trim
              satCount := if old.follower = y.follower ∧ trim = p.skew.trim then p.skew.satCount else 0 } }) ∧
      (∀ x, k = .eye x →
        (∀ reason, validateEye p x words = .error reason → t = p.withRejected k reason false) ∧
        ∀ e, validateEye p x words = .ok e → (p.stream x).state = .off ∨ (p.stream x).state = .waitingSync →
          t = { unposted with
            rig := { unposted.rig with eye := p.rig.eye.set x e }
            streams := p.streams.set x { p.stream x with
              state :=
                if e.enable = false then .off
                else if (p.stream x).state = .off ∧ (p.acq x).state = .locked then .between
                else .waitingSync
              completed := false }
            slots :=
              if e.poolBase = (p.eyeSettings x).poolBase ∧ e.slotCount = (p.eyeSettings x).slotCount ∧
                  e.slotStride = (p.eyeSettings x).slotStride then p.slots
              else p.slots.set x (List.replicate e.slotCount SlotRecord.free) }) ∧
      ∀ r, k = .reader r → t = latchReader r p)

/-- A write that covers the event clear word clears exactly the flags whose bits are 1 in the bytes written (what a write
makes of a word byte by byte, RigWritesLandInTheShadow says), in either part state, and goes on as one piece; the sections are
not touched (R180, R181). Model's own: notes/assumptions/8.md, 10.md, 40.md. -/
def Obligations.EventClearWordClearsFlags : Prop :=
  ∀ (q : Request) (e o : Nat) (s : State), s.hw.resetAsserted = false → s.hw.Accepts q e .rig o → q.kind = .write → q.Whole →
    4092 < o + q.length → o < 4096 →
    let bits : BitVec 11 := BitVec.ofNat 11 (writtenWord o q.data 4092 0).toNat
    ∃ t : State, exec .eventClearWord s = .next t ∧ t.pending = s.pending ∧
      t.hw.report.flags = s.hw.report.flags &&& ~~~bits ∧
      (t.hw.report.flags ≠ s.hw.report.flags → t.hw.report.due = true ∧
        t.hw.report.alertN = decide (t.hw.report.flags &&& s.hw.rig.global.alertEnables = 0)) ∧
      (t.hw.report.flags = s.hw.report.flags → t.hw.report.due = s.hw.report.due ∧
        t.hw.report.alertN = s.hw.report.alertN) ∧
      t.hw.report.counters = s.hw.report.counters ∧ t.hw.report.queue = s.hw.report.queue ∧ t.hw.rig = s.hw.rig ∧
      t.hw.req = s.hw.req.waiting e { entryOf q .rig 0 with outstanding := 1 } ∧
      t.hw.txn = { s.hw.txn with
        issue := s.hw.txn.issue ++
          [[{ kind := .write, addr := q.addr.toNat, length := q.length, data := q.data, source := q.source, entry := e,
              role := .passThrough }]] } ∧
      t.hw.sync = s.hw.sync ∧ t.hw.streams = s.hw.streams ∧ t.hw.slots = s.hw.slots ∧ t.hw.pairs = s.hw.pairs ∧
      t.hw.readers = s.hw.readers ∧ t.hw.skew = s.hw.skew

/-- The words of a section hold its settings: from the words that encode settings in range, followed by their check word, the
same settings are read back, and the check word matches (R172, R188; R175, R125, R96 and R67 for the ranges of GLOBAL, SYNC,
EYE and READER). The check word is the complement of the sum of the section's other words modulo 2^32 (R172). Every field lies
at its place in its word (R188). No other words read back as settings: words from which settings are read are the words that
encode them. The sections lie at their offsets in the rig table (R188), with their check words last, and a write touches a
word of which it covers a byte (R173). Model's own: notes/assumptions/26.md. -/
def Obligations.SectionsHoldTheirSettings : Prop :=
  (∀ g : GlobalSettings, g.windowBase % 4096 = 0 → g.windowBase + 2 ^ 29 ≤ 2 ^ 40 → g.matchTolerance < 65536 →
    100 ≤ g.frameLimit → g.frameLimit < 65536 → 16 ≤ g.mTimeout → g.mTimeout < 65536 → g.reportBase % 4096 = 0 →
    g.reportBase + 256 + 32 * g.ringSize ≤ 2 ^ 40 → g.ringSize ∈ [16, 32, 64, 128, 256, 512, 1024, 2048, 4096] →
    1 ≤ g.statusInterval → g.statusInterval < 256 →
    parseGlobal (withCheck (encodeGlobal g)) = some g ∧ checkMatches (withCheck (encodeGlobal g)) = true) ∧
  (∀ y : SyncSettings, syncInRange y = true → y.filterShift < 256 → y.divider < 256 → y.warnLimit < 65536 →
    y.faultLimit < 65536 → y.hysteresis < 65536 → y.upRate < 256 → y.downRate < 256 → y.deadBand < 65536 →
    y.periodTolerance < 65536 → y.syncLossMs < 256 → -32768 ≤ y.target → y.target ≤ 32767 →
    parseSync (withCheck (encodeSync y)) = some y ∧ checkMatches (withCheck (encodeSync y)) = true) ∧
  (∀ v : ReaderSettings, v.sourceTag ≤ 63 → 100 ≤ v.parkLimit → v.parkLimit < 65536 → 100 ≤ v.lease → v.lease < 65536 →
    parseReader (withCheck (encodeReader v)) = some v ∧ checkMatches (withCheck (encodeReader v)) = true) ∧
  (∀ e : EyeSettings, geometryInRange e.geom = true → e.geom.pitch < 2 ^ 32 → e.slotCount < 256 → e.slotStride < 2 ^ 32 →
    e.captureBase % 4096 = 0 → e.captureBase + 2 ^ 28 ≤ 2 ^ 40 → e.poolBase % 4096 = 0 → e.poolBase < 2 ^ 40 →
    parseEye (withCheck (encodeEye e)) = some e ∧ checkMatches (withCheck (encodeEye e)) = true) ∧
  (∀ (ws : List Word) (c : Word),
    (checkMatches (ws ++ [c]) = true ↔ c.toNat = 2 ^ 32 - 1 - (ws.map BitVec.toNat).sum % 2 ^ 32) ∧
    checkMatches [] = false ∧ ∃ v, withCheck ws = ws ++ [v] ∧ checkMatches (withCheck ws) = true) ∧
  (let word (n : Nat) : Word := BitVec.ofNat 32 n
   let flag (b : Bool) : Nat := if b then 1 else 0
   let signed (v : Int) : Nat := (BitVec.ofInt 16 v).toNat
   (∀ g : GlobalSettings, encodeGlobal g =
      [g.take, word (g.windowBase / 4096),
       word ((match g.layout with | .sequential => 0 | .interleaved => 1) +
         (match g.prdyMode with | .off => 0 | .pulse => 1 | .level => 2) * 2 ^ 8 +
         (match g.prdyReader with | .a => 0 | .b => 1 | .c => 2 | .d => 3) * 2 ^ 16),
       word (g.matchTolerance + g.fill.toNat * 2 ^ 16), word (g.frameLimit + g.mTimeout * 2 ^ 16),
       word (g.reportBase / 4096), word (g.ringSize + g.statusInterval * 2 ^ 16), word g.alertEnables.toNat]) ∧
   (∀ y : SyncSettings, encodeSync y =
      [word ((match y.follower with | .left => 0 | .right => 1) + y.filterShift * 2 ^ 8 + y.divider * 2 ^ 16 +
         (match y.gain with | .off => 0 | .one => 1 | .half => 2 | .quarter => 3 | .eighth => 4) * 2 ^ 24),
       word (signed y.target + y.deadBand * 2 ^ 16), word (y.warnLimit + y.faultLimit * 2 ^ 16),
       word (y.hysteresis + y.periodTolerance * 2 ^ 16),
       word (y.upRate + y.downRate * 2 ^ 8 + flag y.directOnFault * 2 ^ 16 + y.syncLossMs * 2 ^ 24),
       word (signed y.trimMin + signed y.trimMax * 2 ^ 16), word (signed y.trimStart)]) ∧
   (∀ e : EyeSettings, encodeEye e =
      [word (flag e.enable + flag e.geom.hflip * 2 ^ 8 + flag e.geom.vflip * 2 ^ 16 + e.geom.pixelBytes * 2 ^ 24),
       word (e.geom.width + e.geom.lines * 2 ^ 16),
       word (e.geom.top + e.geom.bottom * 2 ^ 8 + signed e.geom.shift * 2 ^ 16), word e.geom.pitch,
       word (e.captureBase / 4096), word (e.poolBase / 4096), word e.slotCount, word e.slotStride]) ∧
   ∀ v : ReaderSettings, encodeReader v =
      [word (flag v.enabled + v.sourceTag * 2 ^ 8 + (match v.policy with | .every => 0 | .latest => 1) * 2 ^ 16 +
         (match v.waitMode with | .park => 0 | .nowait => 1) * 2 ^ 24),
       word (v.parkLimit + v.lease * 2 ^ 16), word (flag v.skipDamaged + flag v.restartTakes * 2 ^ 8)]) ∧
  (∀ ws : List Word,
    (∀ g, ws.length = 9 → parseGlobal ws = some g → ws.dropLast = encodeGlobal g ∧
      g.windowBase % 4096 = 0 ∧ g.windowBase + 2 ^ 29 ≤ 2 ^ 40 ∧ 100 ≤ g.frameLimit ∧ 16 ≤ g.mTimeout ∧ g.reportBase % 4096 = 0 ∧
      g.reportBase + 256 + 32 * g.ringSize ≤ 2 ^ 40 ∧ g.ringSize ∈ [16, 32, 64, 128, 256, 512, 1024, 2048, 4096] ∧
      1 ≤ g.statusInterval) ∧
    (∀ y, ws.length = 8 → parseSync ws = some y → ws.dropLast = encodeSync y ∧ syncInRange y = true) ∧
    (∀ e, ws.length = 9 → parseEye ws = some e → ws.dropLast = encodeEye e ∧ geometryInRange e.geom = true ∧
      e.captureBase % 4096 = 0 ∧ e.captureBase + 2 ^ 28 ≤ 2 ^ 40 ∧ e.poolBase % 4096 = 0 ∧ e.poolBase < 2 ^ 40) ∧
    ∀ v, ws.length = 4 → parseReader ws = some v → ws.dropLast = encodeReader v ∧ v.sourceTag ≤ 63 ∧ 100 ≤ v.parkLimit ∧
      100 ≤ v.lease) ∧
  (∀ y : SyncSettings, syncInRange y = true ↔
    y.filterShift ≤ 7 ∧ 1 ≤ y.divider ∧ y.divider ≤ 4 ∧ 1 ≤ y.upRate ∧ 1 ≤ y.downRate ∧ y.warnLimit ≤ y.faultLimit ∧
      y.hysteresis ≤ y.warnLimit ∧ y.trimMin ≤ y.trimMax ∧ y.trimMin ≤ y.trimStart ∧ y.trimStart ≤ y.trimMax ∧
      1 ≤ y.syncLossMs ∧ -2048 ≤ y.trimMin ∧ y.trimMax ≤ 2047) ∧
  (∀ g : Geometry, geometryInRange g = true ↔
    64 ≤ g.width ∧ g.width ≤ 8192 ∧ 1 ≤ g.pixelBytes ∧ g.pixelBytes ≤ 8 ∧ 16 ≤ g.lines ∧ g.lines ≤ 4352 ∧ g.top ≤ 64 ∧
      g.bottom ≤ 64 ∧ -256 ≤ g.shift ∧ g.shift ≤ 255) ∧
  ∀ k : Section,
    let offset : Nat := match k with
      | .global => 0x000 | .sync => 0x040 | .eye .left => 0x080 | .eye .right => 0x0C0 | .reader .a => 0x100
      | .reader .b => 0x120 | .reader .c => 0x140 | .reader .d => 0x160
    let check : Nat := match k with
      | .global => 0x020 | .sync => 0x05C | .eye .left => 0x0A0 | .eye .right => 0x0E0 | .reader .a => 0x10C
      | .reader .b => 0x12C | .reader .c => 0x14C | .reader .d => 0x16C
    sectionOffset k = offset ∧
      ∀ o n, 0 < n → (touchesCheck o n k = true ↔ o < check + 4 ∧ check < o + n) ∧
        (touchesSection o n k = true ↔ o < check + 4 ∧ offset < o + n)

/-! ### The M-port -/

/-- The arbiter issues the next piece of the group in hand, or of the oldest group, under the tag that is to be taken, unless
it is the turn of an injected request; the last piece of a group adds one to the wait count of every waiting injected request
(R159 to R162). An injected request is issued, under the part's own source tag 63, where it has waited for 8 groups or no
group waits; during the quiet time, with a request on the output, or with nothing to issue, nothing happens (R160 to R162,
R170). The tag to be taken is the lowest-numbered FREE one; while no tag is FREE a request that is next to be issued waits,
its turn kept and the output empty, and no tag is taken (R162; the model's choice, notes/assumptions/12.md); it takes the
first tag that becomes FREE, whatever other tags become FREE before it is issued (R162). Model's own: notes/assumptions/11.md,
36.md. -/
def Obligations.TheArbiterIssuesOneRequest : Prop :=
  (∀ (k : Piece) (ks : List Piece) (groups : List (List Piece)) (m : Nat) (s : State), s.hw.resetAsserted = false →
    s.hw.txn.quiet = .stopped → s.hw.txn.output = none → s.hw.txn.issue = (k :: ks) :: groups → tagToTake s.hw.txn = some m →
    (s.hw.txn.choice = some .group ∨
      (s.hw.txn.choice = none ∧ ∀ i ∈ s.hw.txn.injected.head?, i.wait < 8)) →
    exec .arbiterIssue s = .next { s with hw := markChanged s.hw { s.hw with
      txn :=
        { tags := s.hw.txn.tags.set m (some
            { state := .offered, kind := k.kind, owner := .entry k.entry k.role, addr := k.addr, length := k.length,
              source := k.source, timer := .stopped })
          issue := if ks = [] then groups else ks :: groups
          injected :=
            if ks = [] then s.hw.txn.injected.map fun i => { i with wait := i.wait + 1 } else s.hw.txn.injected
          choice := if ks = [] then none else some .group
          claim := none
          output := some
            { tag := m, kind := k.kind, source := k.source, addr := BitVec.ofNat 40 k.addr, length := k.length,
              data := k.data }
          quiet := .stopped } } }) ∧
  (∀ (s : State), s.hw.resetAsserted = false →
    (∀ (i : Injected) (rest : List Injected) (m : Nat), s.hw.txn.quiet = .stopped → s.hw.txn.output = none →
      s.hw.txn.injected = i :: rest → tagToTake s.hw.txn = some m →
      (s.hw.txn.choice = some .injected ∨ (s.hw.txn.choice = none ∧ (s.hw.txn.issue = [] ∨ 8 ≤ i.wait))) →
      exec .arbiterIssue s = .next { s with hw := markChanged s.hw { s.hw with
        txn := { s.hw.txn with
          tags := s.hw.txn.tags.set m (some
            { state := .offered, kind := i.kind, owner := .injected i.owner, addr := i.addr, length := i.length, source := 63,
              timer := .stopped })
          injected := rest
          choice := none
          claim := none
          output := some
            { tag := m, kind := i.kind, source := 63, addr := BitVec.ofNat 40 i.addr, length := i.length,
              data := i.data } } } }) ∧
    (s.hw.txn.quiet ≠ .stopped ∨ s.hw.txn.output ≠ none ∨
        (s.hw.txn.choice = none ∧ s.hw.txn.issue = [] ∧ s.hw.txn.injected = []) →
      exec .arbiterIssue s = .next s)) ∧
  (∀ (s : State) (c : Choice), s.hw.resetAsserted = false → s.hw.txn.quiet = .stopped → s.hw.txn.output = none →
    (∀ n : Nat, s.hw.txn.tags[n]? ≠ some none) →
    (s.hw.txn.choice = some c ∨ (s.hw.txn.choice = none ∧
      ((c = .injected ∧ ∃ i rest, s.hw.txn.injected = i :: rest ∧ (s.hw.txn.issue = [] ∨ 8 ≤ i.wait)) ∨
        (c = .group ∧ s.hw.txn.issue ≠ [] ∧ ∀ i ∈ s.hw.txn.injected.head?, i.wait < 8)))) →
    exec .arbiterIssue s = .next { s with hw := markChanged s.hw { s.hw with
      txn := { s.hw.txn with choice := some c } } }) ∧
  ∀ u : TxnUnit,
    (∀ m, u.claim = none → (tagToTake u = some m ↔ u.tags[m]? = some none ∧ ∀ n, n < m → u.tags[n]? ≠ some none)) ∧
    (∀ m, m < u.tags.length → u.output = none → u.issue ≠ [] ∨ u.injected ≠ [] ∨ u.choice ≠ none →
      (∀ n : Nat, u.tags[n]? ≠ some none) →
      tagToTake (u.tagFreed m) = some m ∧ (u.tagFreed m).tags = u.tags.set m none ∧
        ∀ n, tagToTake ((u.tagFreed m).tagFreed n) = some m) ∧
    (∀ m, u.output ≠ none ∨ (∃ n : Nat, u.tags[n]? = some none) →
      u.tagFreed m = { u with tags := u.tags.set m none })

/-- R169: a response whose tag is FREE or OFFERED is discarded and counted, and no tag changes state. A tag above 63 is none
of the part's and is taken in the same way (the model's choice, notes/assumptions/13.md). The tag is byte 2 of the record
(R187). -/
def Obligations.UnknownTagResponsesAreCounted : Prop :=
  ∀ (header : BitVec 64) (data : List Byte) (s : State), s.hw.resetAsserted = false →
    (∀ te, s.hw.tag (header.toNat / 2 ^ 16 % 256) = some te → te.state = .offered) →
    exec (.mportResponse header data) s = .next { s with hw := markChanged s.hw (raise .unknownTags s.hw) }

/-- A late response frees its quarantined tag, is counted, and takes the piece out of its slot's quarantine, which may free a
draining slot (R40, R42, R168). What becomes of a request that waits for a tag, TheArbiterIssuesOneRequest says. -/
def Obligations.LateResponsesFreeTheirTags : Prop :=
  ∀ (header : BitVec 64) (data : List Byte) (te : TagEntry) (s : State), s.hw.resetAsserted = false →
    let m := header.toNat / 2 ^ 16 % 256
    s.hw.tag m = some te → te.state = .quarantined →
    let counted := raise .lateResponses s.hw
    let slots := match te.owner.slot with
      | some (x, i) => s.hw.slots.set x
          ((s.hw.slots.get x).modify i fun r => SlotRecord.freeIfDrained { r with quarantined := r.quarantined - 1 })
      | none => s.hw.slots
    ∃ t : State, exec (.mportResponse header data) s = .next t ∧ t.pending = s.pending ∧
      t.hw = markChanged s.hw { counted with slots := slots, txn := t.hw.txn } ∧
      t.hw.txn = { s.hw.txn with
        tags := s.hw.txn.tags.set m none, choice := t.hw.txn.choice, claim := t.hw.txn.claim }

/-- A response to an IN_FLIGHT tag frees that tag and no other; a status other than 0, a wrong kind or a wrong length sets
MEMORY_FAULT (R163, R165). An M-timeout of an IN_FLIGHT tag quarantines it with its timer stopped, leaves the other tags as
they are but for the time that passed, and sets MEMORY_FAULT (R165, R166). Model's own: notes/assumptions/2.md, 14.md. -/
def Obligations.ResultsFreeOrQuarantineTheTag : Prop :=
  (∀ (header : BitVec 64) (data : List Byte) (te : TagEntry) (s : State), s.hw.resetAsserted = false →
    let h := header.toNat
    let m := h / 2 ^ 16 % 256
    s.hw.tag m = some te → te.state = .inFlight →
    ∃ t : State, exec (.mportResponse header data) s = .next t ∧ t.pending = s.pending ∧ t.hw.tag m = none ∧
      (∀ n, n ≠ m → t.hw.tag n = s.hw.tag n) ∧
      (h / 2 ^ 24 % 256 ≠ 0 ∨ h % 256 ≠ kindCode te.kind ∨ (te.kind = .read ∧ h / 2 ^ 32 % 65536 + 1 ≠ te.length) →
        t.hw.report.flags.getLsbD EventFlag.memoryFault.bit = true)) ∧
  ∀ (m : Nat) (te : TagEntry) (s : State) (r : Nat), s.hw.resetAsserted = false → s.hw.tag m = some te → te.state = .inFlight →
    te.timer = .running r →
    ∃ t : State, exec (.mTimeout m) s = .next t ∧ t.pending = s.pending ∧
      t.hw.tag m = some { te with state := .quarantined, timer := .stopped } ∧
      (∀ n, n ≠ m → t.hw.tag n = (passTime r s.hw).tag n) ∧
      t.hw.report.flags.getLsbD EventFlag.memoryFault.bit = true

/-- The one response to a request that passed through completes it: DONE with the bytes read, or MEMORY_FAULT with fill data,
the event counted, flagged and recorded (R152 to R154, R163 to R165). Model's own: notes/assumptions/14.md, 15.md, 36.md. -/
def Obligations.PassThroughResponsesCompleteTheRequest : Prop :=
  ∀ (header : BitVec 64) (data : List Byte) (te : TagEntry) (e : Nat) (v : Entry) (s : State), s.hw.resetAsserted = false →
    let h := header.toNat
    let m := h / 2 ^ 16 % 256
    s.hw.tag m = some te → te.state = .inFlight → te.owner = .entry e .passThrough → s.hw.entry e = some v →
    v.outstanding = 1 → v.kind = te.kind → v.length = te.length → v.data.length = (if v.kind = .read then v.length else 0) →
    data.length = (if h % 256 = 0 then h / 2 ^ 32 % 65536 + 1 else 0) →
    let good := h / 2 ^ 24 % 256 = 0 ∧ h % 256 = kindCode te.kind ∧ (te.kind = .read → data.length = te.length)
    let freed : TxnUnit := s.hw.txn.tagFreed m
    let back (code : Code) (bytes : List Byte) : RequestPath :=
      { s.hw.req with
        table := s.hw.req.table.set e
          (some { v with state := .returning, outstanding := 0, code := code, data := bytes })
        returning := s.hw.req.returning ++ [e] }
    let fault := queueRecordNow (.memoryFault .fault te.addr te.kind te.owner te.source m te.length)
      (setFlag .memoryFault (raise .mFaults s.hw))
    (good →
      exec (.mportResponse header data) s =
        .next { s with hw := markChanged s.hw { s.hw with txn := freed, req := back v.code data } }) ∧
    (¬good →
      exec (.mportResponse header data) s = .next { s with hw := markChanged s.hw { fault with
        txn := freed
        req := back (if v.code.value < Code.memoryFault.value then .memoryFault else v.code)
          (if v.kind = .read then fillBytes s.hw.rig.global.fill v.addr.toNat v.length else []) } })

/-- A good response to a piece of a capture write: the slot has one write less outstanding, and a LANDING slot with none left
becomes COMPLETE and stops its frame timer, and the pair manager is told, who makes the pair READY where both slots are (R30,
R55; CompletedPairsBecomeReady says what slotCompleted does); the entry has one piece less outstanding, and returns with its
last (R29, R30, R152). A response that is a FAULT, and an M-timeout, do the same with the damage WRITE_FAULT added to a
FILLING or LANDING slot and the code MEMORY_FAULT; the timed-out piece stands in the slot's quarantine (R29, R152, R165,
R166). At a slot in DRAINING the result only lowers the counts, and a timed-out one raises the quarantine; the slot is FREE
once it has drained (R29, R42). A failed result's event is raised after its delivery (R165; the model's order,
notes/assumptions/14.md); in the second clause no pair record names the slot, in the others one may. The result of a read
piece lowers the pending reads of its slot, a timed-out one raising the quarantine, and puts the bytes read, or the fill
pattern, at the piece's place in the response data (R39, R88, R152). Model's own: notes/assumptions/2.md, 15.md, 36.md. -/
def Obligations.CaptureWriteResponsesLandTheFrame : Prop :=
  (∀ (header : BitVec 64) (data : List Byte) (te : TagEntry) (e : Nat) (v : Entry) (x : Eye) (i : Nat) (s : State),
    s.hw.resetAsserted = false →
    let h := header.toNat
    let m := h / 2 ^ 16 % 256
    s.hw.tag m = some te → te.state = .inFlight → te.owner = .entry e (.captureWrite x i) → te.kind = .write →
    h / 2 ^ 24 % 256 = 0 → h % 256 = 1 → s.hw.entry e = some v → v.kind = .write → v.outstanding ≠ 0 →
    (s.hw.slot x i).writes ≠ 0 →
    let last := (s.hw.slot x i).state = .landing ∧ (s.hw.slot x i).writes = 1
    let landed (r : SlotRecord) : SlotRecord :=
      if r.state = .landing ∧ r.writes = 1 then { r with writes := 0, state := .complete, frameTimer := .stopped }
      else SlotRecord.freeIfDrained { r with writes := r.writes - 1 }
    let delivered : Part := { s.hw with
      slots := s.hw.slots.set x ((s.hw.slots.get x).modify i landed)
      req :=
        if v.outstanding = 1 then
          { s.hw.req with
            table := s.hw.req.table.set e (some { v with state := .returning, outstanding := 0 })
            returning := s.hw.req.returning ++ [e] }
        else
          { s.hw.req with table := s.hw.req.table.set e (some { v with outstanding := v.outstanding - 1 }) } }
    let told := if last then slotCompleted x i delivered else delivered
    exec (.mportResponse header data) s =
      .next { s with hw := markChanged s.hw { told with txn := told.txn.tagFreed m } }) ∧
  (∀ (c : Instr) (m : Nat) (te : TagEntry) (e : Nat) (v : Entry) (x : Eye) (i elapsed : Nat) (late : Bool) (s : State),
    s.hw.resetAsserted = false →
    s.hw.tag m = some te → te.state = .inFlight → te.owner = .entry e (.captureWrite x i) → te.kind = .write →
    ((∃ (header : BitVec 64) (data : List Byte), c = .mportResponse header data ∧ m = header.toNat / 2 ^ 16 % 256 ∧
        (header.toNat / 2 ^ 24 % 256 ≠ 0 ∨ header.toNat % 256 ≠ 1) ∧ elapsed = 0 ∧ late = false) ∨
      (c = .mTimeout m ∧ te.timer = .running elapsed ∧ late = true)) →
    s.hw.entry e = some v → v.kind = .write → v.outstanding ≠ 0 → (s.hw.slot x i).writes ≠ 0 →
    let q : Part := if late = true then
      { passTime elapsed s.hw with txn := { (passTime elapsed s.hw).txn with
        tags := (passTime elapsed s.hw).txn.tags.set m (some { te with state := .quarantined, timer := .stopped }) } }
      else s.hw
    let last := (s.hw.slot x i).state = .landing ∧ (s.hw.slot x i).writes = 1
    let landed (r : SlotRecord) : SlotRecord :=
      let lowered : SlotRecord :=
        { r with writes := r.writes - 1, quarantined := r.quarantined + if late = true then 1 else 0 }
      let faulted : SlotRecord := { lowered with damage := { r.damage with writeFault := true } }
      if r.state = .landing ∧ r.writes = 1 then { faulted with state := .complete, frameTimer := .stopped }
      else if r.state = .filling ∨ r.state = .landing then faulted
      else SlotRecord.freeIfDrained lowered
    let delivered : Part := { q with
      slots := q.slots.set x ((q.slots.get x).modify i landed)
      req :=
        if v.outstanding = 1 then
          { q.req with
            table := q.req.table.set e (some { v with state := .returning, outstanding := 0, code := .memoryFault })
            returning := q.req.returning ++ [e] }
        else
          { q.req with
            table := q.req.table.set e (some { v with outstanding := v.outstanding - 1, code := .memoryFault }) } }
    let told := if last then slotCompleted x i delivered else delivered
    let event := queueRecord q.now q.take
      (.memoryFault (if late = true then .timeout else .fault) te.addr .write te.owner te.source m te.length)
      (setFlag .memoryFault (raise (if late = true then .mTimeouts else .mFaults) told))
    let freed : Part := if late = true then event else { event with txn := event.txn.tagFreed m }
    exec c s = .next { s with hw := markChanged s.hw freed }) ∧
  (∀ (c : Instr) (m : Nat) (te : TagEntry) (e : Nat) (v : Entry) (x : Eye) (i elapsed quarantined : Nat) (s : State),
    s.hw.resetAsserted = false → s.hw.report.counters.length = 20 →
    s.hw.tag m = some te → te.state = .inFlight → te.owner = .entry e (.captureWrite x i) → te.kind = .write →
    ((∃ (header : BitVec 64) (data : List Byte), c = .mportResponse header data ∧ m = header.toNat / 2 ^ 16 % 256 ∧
        (header.toNat / 2 ^ 24 % 256 ≠ 0 ∨ header.toNat % 256 ≠ 1) ∧ elapsed = 0 ∧ quarantined = 0) ∨
      (c = .mTimeout m ∧ te.timer = .running elapsed ∧ quarantined = 1)) →
    s.hw.entry e = some v → v.kind = .write → v.outstanding ≠ 0 → i < (s.hw.slots.get x).length →
    (s.hw.slot x i).writes ≠ 0 → recordOf s.hw x i = none →
    let r := (passTime elapsed s.hw).slot x i
    let after : SlotRecord := { r with writes := r.writes - 1, quarantined := r.quarantined + quarantined }
    let faulted : SlotRecord := { after with damage := { r.damage with writeFault := true } }
    ∃ t : State, exec c s = .next t ∧ t.pending = s.pending ∧
      (r.state = .filling ∨ (r.state = .landing ∧ r.writes ≠ 1) → t.hw.slot x i = faulted) ∧
      (r.state = .landing → r.writes = 1 →
        t.hw.slot x i = { faulted with state := .complete, frameTimer := .stopped }) ∧
      (r.state = .draining → t.hw.slot x i = SlotRecord.freeIfDrained after) ∧
      t.hw.entry e = some { v with
        state := if v.outstanding = 1 then .returning else v.state
        outstanding := v.outstanding - 1
        code := .memoryFault } ∧
      t.hw.report.flags.getLsbD EventFlag.memoryFault.bit = true ∧
      (quarantined = 0 → t.hw.count .mFaults = s.hw.count .mFaults + 1 ∧ t.hw.tag m = none) ∧
      (quarantined = 1 → t.hw.count .mTimeouts = s.hw.count .mTimeouts + 1 ∧
        t.hw.tag m = some { te with state := .quarantined, timer := .stopped }) ∧
      t.hw.streams = s.hw.streams ∧ t.hw.pairs.queue = s.hw.pairs.queue ∧ t.hw.rig = s.hw.rig) ∧
  ∀ (c : Instr) (m : Nat) (te : TagEntry) (e : Nat) (v : Entry) (x : Eye) (i place elapsed quarantined : Nat) (good : Bool)
    (data : List Byte) (s : State), s.hw.resetAsserted = false →
    s.hw.tag m = some te → te.state = .inFlight → te.owner = .entry e (.readPiece x i place) → te.kind = .read →
    ((∃ header : BitVec 64, c = .mportResponse header data ∧ m = header.toNat / 2 ^ 16 % 256 ∧ elapsed = 0 ∧ quarantined = 0 ∧
        data.length = te.length ∧
        (good = true ↔ header.toNat / 2 ^ 24 % 256 = 0 ∧ header.toNat % 256 = 0 ∧
          header.toNat / 2 ^ 32 % 65536 + 1 = te.length)) ∨
      (c = .mTimeout m ∧ te.timer = .running elapsed ∧ quarantined = 1 ∧ good = false)) →
    s.hw.entry e = some v → v.kind = .read → v.outstanding ≠ 0 → i < (s.hw.slots.get x).length →
    let r := (passTime elapsed s.hw).slot x i
    ∃ t : State, exec c s = .next t ∧ t.pending = s.pending ∧
      t.hw.slot x i = SlotRecord.freeIfDrained { r with reads := r.reads - 1, quarantined := r.quarantined + quarantined } ∧
      (∃ w, t.hw.entry e = some w ∧
        w = { v with
          state := if v.outstanding = 1 then .returning else v.state
          outstanding := v.outstanding - 1
          code := if good then v.code else .memoryFault
          data := w.data } ∧
        w.data.length = v.data.length ∧
        ∀ j b, v.data[j]? = some b → w.data[j]? = some (
          if j < place ∨ place + te.length ≤ j then b
          else if good then data.getD (j - place) b
          else fillByte s.hw.rig.global.fill (v.addr.toNat + j))) ∧
      (good = false → t.hw.report.flags.getLsbD EventFlag.memoryFault.bit = true) ∧
      (good = true → t.hw.report = { s.hw.report with changed := t.hw.report.changed }) ∧
      t.hw.streams = s.hw.streams ∧ t.hw.pairs.queue = s.hw.pairs.queue ∧ t.hw.rig = s.hw.rig

/-! ### Reports -/

/-- Event flags are sticky; setting one makes a status write due and drives ALERT_N from the flags enabled (R181, R183). A
record joins the tail of the queue with the next sequence number while the queue holds fewer than 16; with 16 it is lost,
counted, and REPORT_OVERFLOW is set (R184). Counters wrap at 2^32 and are raised one at a time (R182). A command that changes
what the status block shows, but for its timebase, sets the changed mark (R182; the model's reading of a change,
notes/assumptions/16.md). The flags stand in the bit order of R189. -/
def Obligations.EventsReachTheReportUnit : Prop :=
  (∀ (f : EventFlag) (p : Part),
    (setFlag f p).report.flags = p.report.flags ||| BitVec.ofNat 11 (2 ^ f.bit) ∧
    (p.report.flags.getLsbD f.bit = true → setFlag f p = p) ∧
    (p.report.flags.getLsbD f.bit = false →
      setFlag f p = { p with report := { p.report with
        flags := p.report.flags ||| BitVec.ofNat 11 (2 ^ f.bit), due := true,
        alertN := decide ((p.report.flags ||| BitVec.ofNat 11 (2 ^ f.bit)) &&& p.rig.global.alertEnables = 0) } })) ∧
  (∀ before after : Part, markChanged before after = { after with report := { after.report with
    changed := after.report.changed || decide ((statusBlock before).drop 6 ≠ (statusBlock after).drop 6) } }) ∧
  ([EventFlag.skewWarn, .skewFault, .trimSaturated, .syncLost .left, .syncLost .right, .frameLost, .pairDamaged, .readerLapsed,
    .configRejected, .memoryFault, .reportOverflow].map EventFlag.bit = [0, 1, 2, 3, 4, 5, 6, 7, 8, 9, 10]) ∧
  ∀ (stamp : Stamp) (take : Word) (body : RecordBody) (p : Part),
    (p.report.queue.length < 16 →
      queueRecord stamp take body p = { p with report := { p.report with
        queue := p.report.queue ++ [{ seq := p.report.seq, stamp := stamp, take := take, body := body }],
        seq := p.report.seq + 1 } }) ∧
    (16 ≤ p.report.queue.length → queueRecord stamp take body p = setFlag .reportOverflow (raise .recordsLost p)) ∧
    ∀ c, p.report.counters.length = 20 →
      (raise c p).count c = p.count c + 1 ∧ (∀ d, d ≠ c → (raise c p).count d = p.count d) ∧
      raise c p = { p with report := { p.report with counters := (raise c p).report.counters } }

/-- A due status write is offered when the offer is free and it is its turn: the 256 bytes of the status block as they stand,
at the report region base, both marks cleared (R183, R185). A waiting record is offered when the offer is free and it is its
turn: 32 bytes at its place in the ring, whose write index moves on and wraps at the ring size; the record stays at the head
until its result (R185). The status interval timer restarts with the interval in force, and a status that has changed becomes
due (R183). Results: that of a status write frees the offer, and a change that came while it was in flight makes the next one
due (R183); that of a record write takes the record out of the queue and counts it as written, or as lost where it is not OK
(R185). A fault or timeout of either raises its M-port counter and MEMORY_FAULT without a record (R165). Model's own:
notes/assumptions/2.md, 14.md, 17.md. -/
def Obligations.ReportWritesAreOffered : Prop :=
  (∀ s : State, s.hw.resetAsserted = false → s.hw.rig.partState = .running → s.hw.report.outstanding = none →
    s.hw.report.due = true → s.hw.report.queue = [] ∨ s.hw.report.lastOffered = .record →
    exec .statusWriteOffer s = .next { s with hw := markChanged s.hw { s.hw with
      txn := { s.hw.txn with
        injected := s.hw.txn.injected ++
          [{ owner := .statusWrite, kind := .write, addr := s.hw.rig.global.reportBase, length := 256,
             data := statusBlock s.hw, wait := 0 }] }
      report := { s.hw.report with changed := false, due := false, outstanding := some .status, lastOffered := .status } } }) ∧
  (∀ (r : ReportRecord) (rest : List ReportRecord) (s : State), s.hw.resetAsserted = false → s.hw.rig.partState = .running →
    s.hw.report.outstanding = none → s.hw.report.queue = r :: rest →
    s.hw.report.due = false ∨ s.hw.report.lastOffered = .status →
    exec .recordWriteOffer s = .next { s with hw := markChanged s.hw { s.hw with
      txn := { s.hw.txn with
        injected := s.hw.txn.injected ++
          [{ owner := .recordWrite, kind := .write,
             addr := s.hw.rig.global.reportBase + 256 + s.hw.report.ringIndex * 32, length := 32, data := r.bytes,
             wait := 0 }] }
      report := { s.hw.report with
        ringIndex :=
          if s.hw.report.ringIndex + 1 < s.hw.rig.global.ringSize then s.hw.report.ringIndex + 1 else 0,
        outstanding := some .record, lastOffered := .record } } }) ∧
  (∀ (s : State) (r : Nat), s.hw.resetAsserted = false → s.hw.report.interval = .running r →
    let q := passTime r s.hw
    exec .statusIntervalExpiry s = .next { s with hw := markChanged s.hw { q with
      report := { s.hw.report with
        interval := .running (s.hw.rig.global.statusInterval * 250000), due := s.hw.report.due || s.hw.report.changed } } }) ∧
  ∀ (c : Instr) (m : Nat) (te : TagEntry) (o : Injector) (elapsed : Nat) (good late : Bool) (s : State),
    s.hw.resetAsserted = false → s.hw.report.counters.length = 20 → s.hw.tag m = some te → te.state = .inFlight →
    te.owner = .injected o → te.kind = .write →
    ((∃ (header : BitVec 64) (data : List Byte), c = .mportResponse header data ∧ m = header.toNat / 2 ^ 16 % 256 ∧
        (good = true ↔ header.toNat / 2 ^ 24 % 256 = 0 ∧ header.toNat % 256 = 1) ∧ elapsed = 0 ∧ late = false) ∨
      (c = .mTimeout m ∧ te.timer = .running elapsed ∧ good = false ∧ late = true)) →
    ∃ t : State, exec c s = .next t ∧ t.pending = s.pending ∧
      (o = .statusWrite → t.hw.report.outstanding = none ∧ t.hw.report.queue = s.hw.report.queue ∧
        (s.hw.report.changed = true → t.hw.report.due = true) ∧
        (good = true → t.hw.report.due = (s.hw.report.due || s.hw.report.changed) ∧
          t.hw.report.flags = s.hw.report.flags ∧ t.hw.report.counters = s.hw.report.counters)) ∧
      (o = .recordWrite → t.hw.report.outstanding = none ∧ t.hw.report.queue = s.hw.report.queue.tail ∧
        (good = true → t.hw.count .recordsWritten = s.hw.count .recordsWritten + 1 ∧
          t.hw.count .recordsLost = s.hw.count .recordsLost ∧ t.hw.report.flags = s.hw.report.flags) ∧
        (good = false → t.hw.count .recordsLost = s.hw.count .recordsLost + 1 ∧
          t.hw.count .recordsWritten = s.hw.count .recordsWritten)) ∧
      (o ≠ .loadRead → good = false → t.hw.report.flags.getLsbD EventFlag.memoryFault.bit = true ∧
        t.hw.count (if late then .mTimeouts else .mFaults) = s.hw.count (if late then .mTimeouts else .mFaults) + 1) ∧
      (o ≠ .loadRead → t.hw.report.ringIndex = s.hw.report.ringIndex ∧ t.hw.report.seq = s.hw.report.seq ∧
        t.hw.streams = s.hw.streams ∧ t.hw.pairs.queue = s.hw.pairs.queue ∧ t.hw.rig = s.hw.rig ∧ t.hw.req = s.hw.req)

/-- The status block is 256 bytes with every field at its offset, little-endian, the codes as listed, and 0 in every byte
outside a field (R46, R187, R189); the newest READY pair at 0x78 is that with its stale mark clear (the model's reading of a
current record, notes/assumptions/33.md). A record is 32 bytes: its header, its kind and subkind codes and its kind fields at
their offsets (R190); the target skew of a SKEW_EVENT takes the four bytes from 0x1C (the model's choice,
notes/assumptions/37.md). A response on the P-port has its header before a READ's data, an M-port request its own before a
WRITE's data (R187). -/
def Obligations.StatusBlockAndRecordsHaveTheirSizes : Prop :=
  (∀ p : Part, p.report.counters.length = 20 →
    let b := statusBlock p
    let holds (at0 n v : Nat) : Prop := (b.drop at0).take n = leBytes n v
    let flag (v : Bool) : Nat := if v then 1 else 0
    let ready := p.pairs.queue.filter fun k => !k.stale && k.state == .ready
    let post (k : Section) : Nat := match p.post k with | .unposted => 0 | .posted => 1 | .rejected => 2
    b.length = 256 ∧ holds 0 6 p.now.toNat ∧
      holds 0x06 1 (match p.rig.partState with | .loading => 0 | .running => 1) ∧ holds 0x07 1 0 ∧
      holds 0x08 2 p.report.flags.toNat ∧ holds 0x0A 2 p.report.ringIndex ∧ holds 0x0C 4 p.take.toNat ∧
      holds 0x10 4 p.report.seq.toNat ∧
      holds 0x14 2 (post .global + 4 * post .sync + 16 * post (.eye .left) + 64 * post (.eye .right) +
        256 * post (.reader .a) + 1024 * post (.reader .b) + 4096 * post (.reader .c) + 16384 * post (.reader .d)) ∧
      holds 0x16 1 (flag p.rig.windowChange.isSome) ∧ holds 0x17 9 0 ∧
      (∀ x, let base : Nat := match x with | .left => 0x20 | .right => 0x30
        holds base 1 (match (p.acq x).state with | .absent => 0 | .acquiring => 1 | .locked => 2) ∧
        holds (base + 1) 1 (match (p.stream x).state with
          | .off => 0 | .waitingSync => 1 | .between => 2 | .open => 3 | .spill => 4) ∧
        holds (base + 2) 1 (p.eyeSettings x).slotCount ∧ holds (base + 3) 1 0 ∧
        holds (base + 4) 4 (p.stream x).frameNumber.toNat ∧
        ∀ i, i < 8 → holds (base + 8 + i) 1 (match (p.slots.get x)[i]? with
          | none => 0xFF
          | some r => match r.state with
            | .free => 0 | .filling => 1 | .landing => 2 | .complete => 3 | .paired => 4 | .draining => 5)) ∧
      (∀ r, let base : Nat := match r with | .a => 0x40 | .b => 0x4C | .c => 0x58 | .d => 0x64
        holds base 1 (match (p.reader r).state with | .unbound => 0 | .idle => 1 | .parked => 2 | .holding => 3) ∧
        holds (base + 1) 3 0 ∧
        holds (base + 4) 4 (match (p.reader r).held with | none => 0 | some h => h.number) ∧
        holds (base + 8) 4 (p.reader r).lastTaken) ∧
      holds 0x70 4 p.pairs.queue.length ∧
      holds 0x74 4 (match p.pairs.queue.head? with | none => 0 | some k => k.number) ∧
      holds 0x78 4 (match ready.getLast? with | none => 0 | some k => k.number) ∧ holds 0x7C 4 0 ∧
      holds 0x80 6 (BitVec.ofInt 48 p.skew.f).toNat ∧ holds 0x86 2 (BitVec.ofInt 16 p.skew.trim).toNat ∧
      holds 0x88 4 (match p.skew.d with | none => 0x80000000 | some d => (BitVec.ofInt 32 d).toNat) ∧
      holds 0x8C 1 (flag p.skew.warn + 2 * flag p.skew.fault) ∧ holds 0x8D 3 0 ∧
      (∀ at0 c, (at0, c) ∈ ([(0x90, .lost .truncated), (0x94, .lost .syncLost), (0x98, .lost .timedOut), (0x9C, .lost .orphaned),
        (0xA0, .lost .partnerLost), (0xA4, .lost .starved), (0xA8, .pairsFormed), (0xAC, .discarded .unframed),
        (0xB0, .discarded .overrun), (0xB4, .discarded .spill), (0xB8, .clippedBytes), (0xBC, .rejected), (0xC0, .mFaults),
        (0xC4, .mTimeouts), (0xC8, .lateResponses), (0xCC, .unknownTags), (0xD0, .recordsWritten), (0xD4, .recordsLost),
        (0xD8, .periodFaults .left), (0xDC, .periodFaults .right)] : List (Nat × Counter)) →
        holds at0 4 (p.count c).toNat) ∧
      holds 0xE0 32 0) ∧
  (∀ n v : Nat, (leBytes n v).length = n ∧ ∀ i, i < n → (leBytes n v)[i]? = some (BitVec.ofNat 8 (v / 256 ^ i))) ∧
  (∀ r : ReportRecord,
    let holds (at0 n v : Nat) : Prop := (r.bytes.drop at0).take n = leBytes n v
    let kinds (kind subkind : Nat) : Prop := holds 4 1 kind ∧ holds 5 1 subkind
    let flag (v : Bool) : Nat := if v then 1 else 0
    let eye (x : Eye) : Nat := match x with | .left => 0 | .right => 1
    let flags (d : Damage) : Nat := flag d.gap + 2 * flag d.rewrite + 4 * flag d.misaligned + 8 * flag d.writeFault
    r.bytes.length = 32 ∧ holds 0 4 r.seq.toNat ∧ holds 6 6 r.stamp.toNat ∧ holds 0x0C 4 r.take.toNat ∧
      match r.body with
      | .pairReady d n lf rf skew ls rs =>
        kinds 1 (flags d) ∧ holds 0x10 4 n ∧ holds 0x14 4 lf.toNat ∧ holds 0x18 4 rf.toNat ∧
          holds 0x1C 3 (BitVec.ofInt 24 skew).toNat ∧ holds 0x1F 1 (ls % 16 + 16 * (rs % 16))
      | .frameLost reason f n x i ended =>
        kinds 2 (match reason with
          | .truncated => 1 | .syncLost => 2 | .timedOut => 3 | .orphaned => 4 | .partnerLost => 5 | .starved => 6) ∧
          holds 0x10 4 f.toNat ∧ holds 0x14 4 (n.getD 0) ∧ holds 0x18 1 (eye x) ∧ holds 0x19 1 (i.getD 0xFF) ∧
          holds 0x1A 1 (flag ended) ∧ holds 0x1B 5 0
      | .readerEvent k who d n take o =>
        kinds 3 (match k with | .skipped => 1 | .leaseLapsed => 2 | .parkExpired => 3) ∧
          holds 0x10 1 (match who with | .a => 0 | .b => 1 | .c => 2 | .d => 3) ∧ holds 0x11 1 (flags d) ∧ holds 0x12 2 0 ∧
          holds 0x14 4 n ∧ holds 0x18 4 take.toNat ∧ holds 0x1C 4 o
      | .skewEvent k f trim d target =>
        kinds 4 (match k with | .warnEnter => 1 | .warnLeave => 2 | .faultEnter => 3 | .faultLeave => 4 | .trimSaturated => 5) ∧
          holds 0x10 6 (BitVec.ofInt 48 f).toNat ∧ holds 0x16 2 (BitVec.ofInt 16 trim).toNat ∧
          holds 0x18 4 (match d with | none => 0x80000000 | some v => (BitVec.ofInt 32 v).toNat) ∧
          holds 0x1C 4 (BitVec.ofInt 32 target).toNat
      | .syncLost x cause last reference =>
        kinds 5 1 ∧ holds 0x10 1 (eye x) ∧ holds 0x11 1 (match cause with | .periodFaults => 1 | .silence => 2) ∧
          holds 0x12 6 (match last with | none => 0 | some v => v.toNat) ∧
          holds 0x18 4 (BitVec.ofInt 32 (reference.getD 0)).toNat ∧ holds 0x1C 4 0
      | .configRejected reason k load =>
        kinds 6 (match reason with
          | .check => 1 | .range => 2 | .geometry => 3 | .band => 4 | .pool => 5 | .overlap => 6 | .reader => 7) ∧
          holds 0x10 1 (match k with
            | .global => 0 | .sync => 1 | .eye .left => 2 | .eye .right => 3 | .reader .a => 4 | .reader .b => 5
            | .reader .c => 6 | .reader .d => 7) ∧
          holds 0x11 1 (flag load) ∧ holds 0x12 14 0
      | .takeChange old new => kinds 7 0 ∧ holds 0x10 4 old.toNat ∧ holds 0x14 4 new.toNat ∧ holds 0x18 8 0
      | .memoryFault cause a k o source m n =>
        kinds 8 (match cause with | .fault => 1 | .timeout => 2) ∧ holds 0x10 5 a ∧
          holds 0x15 1 (match k with | .read => 0 | .write => 1) ∧
          holds 0x16 1 (match o with
            | .entry _ (.captureWrite _ _) => 0 | .entry _ (.readPiece _ _ _) => 1 | .entry _ .passThrough => 2
            | .injected _ => 3) ∧
          holds 0x17 1 source.toNat ∧ holds 0x18 1 m ∧
          (match o with
            | .entry _ (.captureWrite x i) => holds 0x19 1 (eye x) ∧ holds 0x1A 1 i
            | .entry _ (.readPiece x i _) => holds 0x19 1 (eye x) ∧ holds 0x1A 1 i
            | _ => holds 0x19 1 0xFF ∧ holds 0x1A 1 0xFF) ∧
          holds 0x1B 1 0 ∧ holds 0x1C 4 n) ∧
  (∀ v : Entry,
    let b := responseBytes v
    let holds (at0 n value : Nat) : Prop := (b.drop at0).take n = leBytes n value
    holds 0 1 (match v.kind with | .read => 0 | .write => 1) ∧ holds 1 1 v.source.toNat ∧ holds 2 1 v.ttag.toNat ∧
      holds 3 1 (match v.code with
        | .done => 0x00 | .filled => 0x01 | .damaged => 0x02 | .discarded => 0x10 | .noPair => 0x20 | .rejected => 0x30
        | .memoryFault => 0x40) ∧
      holds 4 2 (v.length - 1) ∧ holds 6 2 0 ∧ b.drop 8 = (match v.kind with | .read => v.data | .write => [])) ∧
  ∀ o : MOut,
    let b := mportRequestBytes o
    let holds (at0 n value : Nat) : Prop := (b.drop at0).take n = leBytes n value
    holds 0 1 (match o.kind with | .read => 0 | .write => 1) ∧ holds 1 1 o.source.toNat ∧ holds 2 1 o.tag ∧ holds 3 1 0 ∧
      holds 4 2 (o.length - 1) ∧ holds 6 2 0 ∧ holds 8 5 o.addr.toNat ∧ holds 13 3 0 ∧
      b.drop 16 = (match o.kind with | .read => [] | .write => o.data)

/-! ### Invariants -/

/-- What the machine keeps holds after reset: capacities, ALERT_N, the SYNC settings and both geometries within their checks,
the trim value within its bounds, one request on the output for one OFFERED tag; the GLOBAL and READER settings within their
ranges, the capture windows and pools placed, the regions apart; PRDY as its mode says; and the waiting requests whole.
Model's own: notes/assumptions/9.md, 24.md, 33.md. -/
def Obligations.ResetKeepsTheRules : Prop :=
  State.reset.Inv ∧ ∀ k, (Part.reset k).Inv ∧ (Part.reset k).RigSound ∧ (Part.reset k).PrdyDriven ∧ (Part.reset k).IntakeWhole

/-- Every step keeps each of these. `Part.Inv`: the queues and tables stay within the capacities the spec gives them (R142,
R143, R158, R80, R182, R184), ALERT_N is low exactly while an enabled flag is set (R181), the SYNC settings in force pass the
checks of R125 and both geometries those of R96, the trim value stays within the bounds in force (R133), and a request stands
on the M-port output exactly under the one OFFERED tag (R158, R162). `Part.RigSound`: the GLOBAL and READER settings in force
lie in their ranges (R67, R90, R175), enabled readers have distinct source tags (R90), each eye's capture window and pool are
placed and the pool holds its frames (R44), and the rig table, capture windows, pools, pair windows and report region do not
overlap, except that the window in force may meet the report region while a window change waits (R176). `Part.PrdyDriven`:
PRDY is deasserted in OFF, asserted exactly during a pulse in PULSE, and in LEVEL exactly while a pair waits for the PRDY
reader (R63 to R65). And every step keeps the waiting requests whole, as long as the commands that wait are well formed. The
rules of FREE slots (R42), of slots named once (R49) and of holder counts (R73) are no part of it. Model's own:
notes/assumptions/9.md, 24.md, 33.md. -/
def Obligations.EveryStepKeepsTheRules : Prop :=
  (∀ s t : State, s.Inv → step s = .next t → t.Inv) ∧
  (∀ s t : State, s.hw.RigSound → step s = .next t → t.hw.RigSound) ∧
  (∀ s t : State, s.hw.PrdyDriven → step s = .next t → t.hw.PrdyDriven) ∧
  ∀ s t : State, s.hw.IntakeWhole → (∀ c ∈ s.pending, c.wellFormed = true) → step s = .next t → t.hw.IntakeWhole

/-- A command that finds nothing to act on changes nothing (the model's choice, notes/assumptions/1.md, 8.md): a stopped
timer, an empty queue, a notice or a request of another kind or class at the head, an issue during the quiet time or with a
request on the output or with none to issue, and an offer of the report unit while the part is LOADING, with a request
outstanding, with nothing of its kind waiting, or when it is the other kind's turn (R185). Model's own:
notes/assumptions/6.md, 7.md. -/
def Obligations.CommandsWithoutOccasionChangeNothing : Prop :=
  ∀ s : State,
    (s.hw.resetAsserted = false → exec .resetNRelease s = .next s) ∧
    (s.hw.txn.quiet = .stopped → exec .resetQuietTimeEnd s = .next s) ∧
    (∀ x time, pulseTaken x time s.hw = true → exec (.fsyncPulse x time) s = .next s) ∧
    (∀ x, (s.hw.acq x).lossTimer = .stopped → exec (.syncLossTimerExpiry x) s = .next s) ∧
    (∀ x, s.hw.sync.streamNotices.get x = [] →
      exec (.frameStart x) s = .next s ∧ exec (.lockGained x) s = .next s ∧ exec (.lockLost x) s = .next s) ∧
    (∀ x, s.hw.sync.skewNotices.get x = [] →
      exec (.skewPulseHandover x) s = .next s ∧ exec (.skewLockNotice x) s = .next s ∧
        exec (.skewDepartureNotice x) s = .next s) ∧
    (s.hw.skew.sender.timer = .stopped → exec .trimWordEnd s = .next s ∧ exec .trimGapEnd s = .next s) ∧
    (s.hw.req.intake = [] ∨ unusedEntry s.hw = none →
      ∀ c ∈ [Instr.captureWrite, .captureRead, .pairRead, .rigWrite, .checkWordWrite, .eventClearWord, .passThrough,
        .refusedRequest], exec c s = .next s) ∧
    (s.hw.txn.output = none → exec .mportAccept s = .next s) ∧
    (∀ m, s.hw.tag m = none → exec (.mTimeout m) s = .next s) ∧
    (∀ x i, (s.hw.slot x i).frameTimer = .stopped → exec (.frameTimerExpiry x i) s = .next s) ∧
    (∀ x i, s.hw.matchTimer x i = .stopped → exec (.matchTimerExpiry x i) s = .next s) ∧
    (∀ r, (s.hw.reader r).lease = .stopped → exec (.leaseExpiry r) s = .next s) ∧
    (∀ e, (∀ k ∈ s.hw.readers.parkList, k.entry ≠ e) → exec (.parkTimerExpiry e) s = .next s) ∧
    (s.hw.pairs.prdyPulse = .stopped → exec .prdyPulseEnd s = .next s) ∧
    (s.hw.report.interval = .stopped → exec .statusIntervalExpiry s = .next s) ∧
    (s.hw.report.due = false ∨ s.hw.report.outstanding ≠ none → exec .statusWriteOffer s = .next s) ∧
    (s.hw.report.queue = [] ∨ s.hw.report.outstanding ≠ none → exec .recordWriteOffer s = .next s) ∧
    (s.hw.rig.partState = .loading → exec .statusWriteOffer s = .next s ∧ exec .recordWriteOffer s = .next s) ∧
    (s.hw.report.queue ≠ [] → s.hw.report.lastOffered = .status → exec .statusWriteOffer s = .next s) ∧
    (s.hw.report.due = true → s.hw.report.lastOffered = .record → exec .recordWriteOffer s = .next s) ∧
    (∀ x n rest, s.hw.sync.streamNotices.get x = n :: rest →
      ((∀ stamp, n ≠ .frameStart stamp) → exec (.frameStart x) s = .next s) ∧
      (n ≠ .lockGained → exec (.lockGained x) s = .next s) ∧ (n ≠ .lockLost → exec (.lockLost x) s = .next s)) ∧
    (∀ x n rest, s.hw.sync.skewNotices.get x = n :: rest →
      ((∀ stamp outcome reference, n ≠ .pulse stamp outcome reference) → exec (.skewPulseHandover x) s = .next s) ∧
      (n ≠ .lock → exec (.skewLockNotice x) s = .next s) ∧ (n ≠ .departure → exec (.skewDepartureNotice x) s = .next s)) ∧
    (∀ q, s.hw.req.intake.head? = some q →
      let isOf (cls : ReqClass) : Prop := ∃ base, classify s.hw q = some (cls, base)
      let rigWrite (covers : Nat → Prop) : Prop :=
        q.kind = .write ∧ ∃ base, classify s.hw q = some (.rig, base) ∧ covers (q.addr.toNat - base)
      (¬(q.kind = .write ∧ ∃ x, isOf (.capture x)) → exec .captureWrite s = .next s) ∧
      (¬(q.kind = .read ∧ ∃ x, isOf (.capture x)) → exec .captureRead s = .next s) ∧
      (¬(q.kind = .read ∧ isOf .pair) → exec .pairRead s = .next s) ∧
      (¬rigWrite (fun _ => True) → exec .rigWrite s = .next s) ∧
      (¬rigWrite (fun o => ∃ k, touchesCheck o q.length k = true) → exec .checkWordWrite s = .next s) ∧
      (¬rigWrite (fun o => o < 4096 ∧ 4092 < o + q.length) → exec .eventClearWord s = .next s) ∧
      (¬(isOf .other ∨ (q.kind = .read ∧ isOf .rig)) → exec .passThrough s = .next s) ∧
      (isRefused s.hw q = false → exec .refusedRequest s = .next s)) ∧
    (s.hw.skew.sender.state ≠ .sending → exec .trimWordEnd s = .next s) ∧
    (s.hw.skew.sender.state ≠ .gap → exec .trimGapEnd s = .next s) ∧
    (s.hw.txn.quiet ≠ .stopped ∨ s.hw.txn.output ≠ none ∨
        (s.hw.txn.choice = none ∧ s.hw.txn.issue = [] ∧ s.hw.txn.injected = []) →
      exec .arbiterIssue s = .next s) ∧
    (∀ m te, s.hw.tag m = some te → te.state ≠ .inFlight ∨ te.timer = .stopped → exec (.mTimeout m) s = .next s) ∧
    (32 ≤ s.hw.req.intake.length → ∀ header data, exec (.requestAccept header data) s = .next s) ∧
    (s.hw.req.returning = [] → exec .responseAccept s = .next s)
end

