-- ==== Sys2Proof/Laws/State.lean ====
section
/-! SUPPORT. What each update of the part leaves in each field, and what reading after writing gives. -/

namespace Sys2Proof.Machine

/-! ### Things held per eye, per reader, per section -/

@[simp] theorem PerEye.get_set {α : Type} (p : PerEye α) (x y : Eye) (v : α) :
    (p.set x v).get y = if x = y then v else p.get y := by cases x <;> cases y <;> rfl

@[simp] theorem PerEye.get_map {α β : Type} (f : α → β) (p : PerEye α) (x : Eye) : (p.map f).get x = f (p.get x) := by
  cases x <;> rfl

theorem PerEye.set_get {α : Type} (p : PerEye α) (x : Eye) : p.set x (p.get x) = p := by cases x <;> rfl

theorem PerEye.set_set {α : Type} (p : PerEye α) (x : Eye) (v w : α) : (p.set x v).set x w = p.set x w := by
  cases x <;> rfl

@[simp] theorem PerReader.get_set {α : Type} (p : PerReader α) (r q : ReaderId) (v : α) :
    (p.set r v).get q = if r = q then v else p.get q := by cases r <;> cases q <;> rfl

@[simp] theorem PerReader.get_map {α β : Type} (f : α → β) (p : PerReader α) (r : ReaderId) :
    (p.map f).get r = f (p.get r) := by cases r <;> rfl

@[simp] theorem Shadow.get_set (s : Shadow) (k j : Section) (v : SectionShadow) :
    (s.set k v).get j = if k = j then v else s.get j := by
  cases k <;> cases j <;> simp [Shadow.set, Shadow.get]

@[simp] theorem Eye.other_ne (x : Eye) : x.other ≠ x := by cases x <;> decide

@[simp] theorem Eye.ne_other (x : Eye) : x ≠ x.other := by cases x <;> decide

/-! ### One block changed: every field after it -/

@[simp] theorem Part.onSync_resetAsserted (p : Part) (f : SyncUnit → SyncUnit) : (p.onSync f).resetAsserted = p.resetAsserted := rfl
@[simp] theorem Part.onSync_sync (p : Part) (f : SyncUnit → SyncUnit) : (p.onSync f).sync = f p.sync := rfl
@[simp] theorem Part.onSync_streams (p : Part) (f : SyncUnit → SyncUnit) : (p.onSync f).streams = p.streams := rfl
@[simp] theorem Part.onSync_slots (p : Part) (f : SyncUnit → SyncUnit) : (p.onSync f).slots = p.slots := rfl
@[simp] theorem Part.onSync_pairs (p : Part) (f : SyncUnit → SyncUnit) : (p.onSync f).pairs = p.pairs := rfl
@[simp] theorem Part.onSync_readers (p : Part) (f : SyncUnit → SyncUnit) : (p.onSync f).readers = p.readers := rfl
@[simp] theorem Part.onSync_req (p : Part) (f : SyncUnit → SyncUnit) : (p.onSync f).req = p.req := rfl
@[simp] theorem Part.onSync_txn (p : Part) (f : SyncUnit → SyncUnit) : (p.onSync f).txn = p.txn := rfl
@[simp] theorem Part.onSync_skew (p : Part) (f : SyncUnit → SyncUnit) : (p.onSync f).skew = p.skew := rfl
@[simp] theorem Part.onSync_rig (p : Part) (f : SyncUnit → SyncUnit) : (p.onSync f).rig = p.rig := rfl
@[simp] theorem Part.onSync_report (p : Part) (f : SyncUnit → SyncUnit) : (p.onSync f).report = p.report := rfl

@[simp] theorem Part.onStream_resetAsserted (p : Part) (x : Eye) (f : StreamCtx → StreamCtx) : (p.onStream x f).resetAsserted = p.resetAsserted := rfl
@[simp] theorem Part.onStream_sync (p : Part) (x : Eye) (f : StreamCtx → StreamCtx) : (p.onStream x f).sync = p.sync := rfl
@[simp] theorem Part.onStream_streams (p : Part) (x : Eye) (f : StreamCtx → StreamCtx) : (p.onStream x f).streams = p.streams.set x (f (p.streams.get x)) := rfl
@[simp] theorem Part.onStream_slots (p : Part) (x : Eye) (f : StreamCtx → StreamCtx) : (p.onStream x f).slots = p.slots := rfl
@[simp] theorem Part.onStream_pairs (p : Part) (x : Eye) (f : StreamCtx → StreamCtx) : (p.onStream x f).pairs = p.pairs := rfl
@[simp] theorem Part.onStream_readers (p : Part) (x : Eye) (f : StreamCtx → StreamCtx) : (p.onStream x f).readers = p.readers := rfl
@[simp] theorem Part.onStream_req (p : Part) (x : Eye) (f : StreamCtx → StreamCtx) : (p.onStream x f).req = p.req := rfl
@[simp] theorem Part.onStream_txn (p : Part) (x : Eye) (f : StreamCtx → StreamCtx) : (p.onStream x f).txn = p.txn := rfl
@[simp] theorem Part.onStream_skew (p : Part) (x : Eye) (f : StreamCtx → StreamCtx) : (p.onStream x f).skew = p.skew := rfl
@[simp] theorem Part.onStream_rig (p : Part) (x : Eye) (f : StreamCtx → StreamCtx) : (p.onStream x f).rig = p.rig := rfl
@[simp] theorem Part.onStream_report (p : Part) (x : Eye) (f : StreamCtx → StreamCtx) : (p.onStream x f).report = p.report := rfl

@[simp] theorem Part.onSlots_resetAsserted (p : Part) (x : Eye) (f : List SlotRecord → List SlotRecord) : (p.onSlots x f).resetAsserted = p.resetAsserted := rfl
@[simp] theorem Part.onSlots_sync (p : Part) (x : Eye) (f : List SlotRecord → List SlotRecord) : (p.onSlots x f).sync = p.sync := rfl
@[simp] theorem Part.onSlots_streams (p : Part) (x : Eye) (f : List SlotRecord → List SlotRecord) : (p.onSlots x f).streams = p.streams := rfl
@[simp] theorem Part.onSlots_slots (p : Part) (x : Eye) (f : List SlotRecord → List SlotRecord) : (p.onSlots x f).slots = p.slots.set x (f (p.slots.get x)) := rfl
@[simp] theorem Part.onSlots_pairs (p : Part) (x : Eye) (f : List SlotRecord → List SlotRecord) : (p.onSlots x f).pairs = p.pairs := rfl
@[simp] theorem Part.onSlots_readers (p : Part) (x : Eye) (f : List SlotRecord → List SlotRecord) : (p.onSlots x f).readers = p.readers := rfl
@[simp] theorem Part.onSlots_req (p : Part) (x : Eye) (f : List SlotRecord → List SlotRecord) : (p.onSlots x f).req = p.req := rfl
@[simp] theorem Part.onSlots_txn (p : Part) (x : Eye) (f : List SlotRecord → List SlotRecord) : (p.onSlots x f).txn = p.txn := rfl
@[simp] theorem Part.onSlots_skew (p : Part) (x : Eye) (f : List SlotRecord → List SlotRecord) : (p.onSlots x f).skew = p.skew := rfl
@[simp] theorem Part.onSlots_rig (p : Part) (x : Eye) (f : List SlotRecord → List SlotRecord) : (p.onSlots x f).rig = p.rig := rfl
@[simp] theorem Part.onSlots_report (p : Part) (x : Eye) (f : List SlotRecord → List SlotRecord) : (p.onSlots x f).report = p.report := rfl

@[simp] theorem Part.onPairs_resetAsserted (p : Part) (f : PairManager → PairManager) : (p.onPairs f).resetAsserted = p.resetAsserted := rfl
@[simp] theorem Part.onPairs_sync (p : Part) (f : PairManager → PairManager) : (p.onPairs f).sync = p.sync := rfl
@[simp] theorem Part.onPairs_streams (p : Part) (f : PairManager → PairManager) : (p.onPairs f).streams = p.streams := rfl
@[simp] theorem Part.onPairs_slots (p : Part) (f : PairManager → PairManager) : (p.onPairs f).slots = p.slots := rfl
@[simp] theorem Part.onPairs_pairs (p : Part) (f : PairManager → PairManager) : (p.onPairs f).pairs = f p.pairs := rfl
@[simp] theorem Part.onPairs_readers (p : Part) (f : PairManager → PairManager) : (p.onPairs f).readers = p.readers := rfl
@[simp] theorem Part.onPairs_req (p : Part) (f : PairManager → PairManager) : (p.onPairs f).req = p.req := rfl
@[simp] theorem Part.onPairs_txn (p : Part) (f : PairManager → PairManager) : (p.onPairs f).txn = p.txn := rfl
@[simp] theorem Part.onPairs_skew (p : Part) (f : PairManager → PairManager) : (p.onPairs f).skew = p.skew := rfl
@[simp] theorem Part.onPairs_rig (p : Part) (f : PairManager → PairManager) : (p.onPairs f).rig = p.rig := rfl
@[simp] theorem Part.onPairs_report (p : Part) (f : PairManager → PairManager) : (p.onPairs f).report = p.report := rfl

@[simp] theorem Part.onReaders_resetAsserted (p : Part) (f : ReaderUnit → ReaderUnit) : (p.onReaders f).resetAsserted = p.resetAsserted := rfl
@[simp] theorem Part.onReaders_sync (p : Part) (f : ReaderUnit → ReaderUnit) : (p.onReaders f).sync = p.sync := rfl
@[simp] theorem Part.onReaders_streams (p : Part) (f : ReaderUnit → ReaderUnit) : (p.onReaders f).streams = p.streams := rfl
@[simp] theorem Part.onReaders_slots (p : Part) (f : ReaderUnit → ReaderUnit) : (p.onReaders f).slots = p.slots := rfl
@[simp] theorem Part.onReaders_pairs (p : Part) (f : ReaderUnit → ReaderUnit) : (p.onReaders f).pairs = p.pairs := rfl
@[simp] theorem Part.onReaders_readers (p : Part) (f : ReaderUnit → ReaderUnit) : (p.onReaders f).readers = f p.readers := rfl
@[simp] theorem Part.onReaders_req (p : Part) (f : ReaderUnit → ReaderUnit) : (p.onReaders f).req = p.req := rfl
@[simp] theorem Part.onReaders_txn (p : Part) (f : ReaderUnit → ReaderUnit) : (p.onReaders f).txn = p.txn := rfl
@[simp] theorem Part.onReaders_skew (p : Part) (f : ReaderUnit → ReaderUnit) : (p.onReaders f).skew = p.skew := rfl
@[simp] theorem Part.onReaders_rig (p : Part) (f : ReaderUnit → ReaderUnit) : (p.onReaders f).rig = p.rig := rfl
@[simp] theorem Part.onReaders_report (p : Part) (f : ReaderUnit → ReaderUnit) : (p.onReaders f).report = p.report := rfl

@[simp] theorem Part.onReq_resetAsserted (p : Part) (f : RequestPath → RequestPath) : (p.onReq f).resetAsserted = p.resetAsserted := rfl
@[simp] theorem Part.onReq_sync (p : Part) (f : RequestPath → RequestPath) : (p.onReq f).sync = p.sync := rfl
@[simp] theorem Part.onReq_streams (p : Part) (f : RequestPath → RequestPath) : (p.onReq f).streams = p.streams := rfl
@[simp] theorem Part.onReq_slots (p : Part) (f : RequestPath → RequestPath) : (p.onReq f).slots = p.slots := rfl
@[simp] theorem Part.onReq_pairs (p : Part) (f : RequestPath → RequestPath) : (p.onReq f).pairs = p.pairs := rfl
@[simp] theorem Part.onReq_readers (p : Part) (f : RequestPath → RequestPath) : (p.onReq f).readers = p.readers := rfl
@[simp] theorem Part.onReq_req (p : Part) (f : RequestPath → RequestPath) : (p.onReq f).req = f p.req := rfl
@[simp] theorem Part.onReq_txn (p : Part) (f : RequestPath → RequestPath) : (p.onReq f).txn = p.txn := rfl
@[simp] theorem Part.onReq_skew (p : Part) (f : RequestPath → RequestPath) : (p.onReq f).skew = p.skew := rfl
@[simp] theorem Part.onReq_rig (p : Part) (f : RequestPath → RequestPath) : (p.onReq f).rig = p.rig := rfl
@[simp] theorem Part.onReq_report (p : Part) (f : RequestPath → RequestPath) : (p.onReq f).report = p.report := rfl

@[simp] theorem Part.onTxn_resetAsserted (p : Part) (f : TxnUnit → TxnUnit) : (p.onTxn f).resetAsserted = p.resetAsserted := rfl
@[simp] theorem Part.onTxn_sync (p : Part) (f : TxnUnit → TxnUnit) : (p.onTxn f).sync = p.sync := rfl
@[simp] theorem Part.onTxn_streams (p : Part) (f : TxnUnit → TxnUnit) : (p.onTxn f).streams = p.streams := rfl
@[simp] theorem Part.onTxn_slots (p : Part) (f : TxnUnit → TxnUnit) : (p.onTxn f).slots = p.slots := rfl
@[simp] theorem Part.onTxn_pairs (p : Part) (f : TxnUnit → TxnUnit) : (p.onTxn f).pairs = p.pairs := rfl
@[simp] theorem Part.onTxn_readers (p : Part) (f : TxnUnit → TxnUnit) : (p.onTxn f).readers = p.readers := rfl
@[simp] theorem Part.onTxn_req (p : Part) (f : TxnUnit → TxnUnit) : (p.onTxn f).req = p.req := rfl
@[simp] theorem Part.onTxn_txn (p : Part) (f : TxnUnit → TxnUnit) : (p.onTxn f).txn = f p.txn := rfl
@[simp] theorem Part.onTxn_skew (p : Part) (f : TxnUnit → TxnUnit) : (p.onTxn f).skew = p.skew := rfl
@[simp] theorem Part.onTxn_rig (p : Part) (f : TxnUnit → TxnUnit) : (p.onTxn f).rig = p.rig := rfl
@[simp] theorem Part.onTxn_report (p : Part) (f : TxnUnit → TxnUnit) : (p.onTxn f).report = p.report := rfl

@[simp] theorem Part.onSkew_resetAsserted (p : Part) (f : SkewUnit → SkewUnit) : (p.onSkew f).resetAsserted = p.resetAsserted := rfl
@[simp] theorem Part.onSkew_sync (p : Part) (f : SkewUnit → SkewUnit) : (p.onSkew f).sync = p.sync := rfl
@[simp] theorem Part.onSkew_streams (p : Part) (f : SkewUnit → SkewUnit) : (p.onSkew f).streams = p.streams := rfl
@[simp] theorem Part.onSkew_slots (p : Part) (f : SkewUnit → SkewUnit) : (p.onSkew f).slots = p.slots := rfl
@[simp] theorem Part.onSkew_pairs (p : Part) (f : SkewUnit → SkewUnit) : (p.onSkew f).pairs = p.pairs := rfl
@[simp] theorem Part.onSkew_readers (p : Part) (f : SkewUnit → SkewUnit) : (p.onSkew f).readers = p.readers := rfl
@[simp] theorem Part.onSkew_req (p : Part) (f : SkewUnit → SkewUnit) : (p.onSkew f).req = p.req := rfl
@[simp] theorem Part.onSkew_txn (p : Part) (f : SkewUnit → SkewUnit) : (p.onSkew f).txn = p.txn := rfl
@[simp] theorem Part.onSkew_skew (p : Part) (f : SkewUnit → SkewUnit) : (p.onSkew f).skew = f p.skew := rfl
@[simp] theorem Part.onSkew_rig (p : Part) (f : SkewUnit → SkewUnit) : (p.onSkew f).rig = p.rig := rfl
@[simp] theorem Part.onSkew_report (p : Part) (f : SkewUnit → SkewUnit) : (p.onSkew f).report = p.report := rfl

@[simp] theorem Part.onRig_resetAsserted (p : Part) (f : RigUnit → RigUnit) : (p.onRig f).resetAsserted = p.resetAsserted := rfl
@[simp] theorem Part.onRig_sync (p : Part) (f : RigUnit → RigUnit) : (p.onRig f).sync = p.sync := rfl
@[simp] theorem Part.onRig_streams (p : Part) (f : RigUnit → RigUnit) : (p.onRig f).streams = p.streams := rfl
@[simp] theorem Part.onRig_slots (p : Part) (f : RigUnit → RigUnit) : (p.onRig f).slots = p.slots := rfl
@[simp] theorem Part.onRig_pairs (p : Part) (f : RigUnit → RigUnit) : (p.onRig f).pairs = p.pairs := rfl
@[simp] theorem Part.onRig_readers (p : Part) (f : RigUnit → RigUnit) : (p.onRig f).readers = p.readers := rfl
@[simp] theorem Part.onRig_req (p : Part) (f : RigUnit → RigUnit) : (p.onRig f).req = p.req := rfl
@[simp] theorem Part.onRig_txn (p : Part) (f : RigUnit → RigUnit) : (p.onRig f).txn = p.txn := rfl
@[simp] theorem Part.onRig_skew (p : Part) (f : RigUnit → RigUnit) : (p.onRig f).skew = p.skew := rfl
@[simp] theorem Part.onRig_rig (p : Part) (f : RigUnit → RigUnit) : (p.onRig f).rig = f p.rig := rfl
@[simp] theorem Part.onRig_report (p : Part) (f : RigUnit → RigUnit) : (p.onRig f).report = p.report := rfl

@[simp] theorem Part.onReport_resetAsserted (p : Part) (f : ReportUnit → ReportUnit) : (p.onReport f).resetAsserted = p.resetAsserted := rfl
@[simp] theorem Part.onReport_sync (p : Part) (f : ReportUnit → ReportUnit) : (p.onReport f).sync = p.sync := rfl
@[simp] theorem Part.onReport_streams (p : Part) (f : ReportUnit → ReportUnit) : (p.onReport f).streams = p.streams := rfl
@[simp] theorem Part.onReport_slots (p : Part) (f : ReportUnit → ReportUnit) : (p.onReport f).slots = p.slots := rfl
@[simp] theorem Part.onReport_pairs (p : Part) (f : ReportUnit → ReportUnit) : (p.onReport f).pairs = p.pairs := rfl
@[simp] theorem Part.onReport_readers (p : Part) (f : ReportUnit → ReportUnit) : (p.onReport f).readers = p.readers := rfl
@[simp] theorem Part.onReport_req (p : Part) (f : ReportUnit → ReportUnit) : (p.onReport f).req = p.req := rfl
@[simp] theorem Part.onReport_txn (p : Part) (f : ReportUnit → ReportUnit) : (p.onReport f).txn = p.txn := rfl
@[simp] theorem Part.onReport_skew (p : Part) (f : ReportUnit → ReportUnit) : (p.onReport f).skew = p.skew := rfl
@[simp] theorem Part.onReport_rig (p : Part) (f : ReportUnit → ReportUnit) : (p.onReport f).rig = p.rig := rfl
@[simp] theorem Part.onReport_report (p : Part) (f : ReportUnit → ReportUnit) : (p.onReport f).report = f p.report := rfl

/-! ### One record changed: the fields of the other blocks -/

@[simp] theorem Part.onSlot_resetAsserted (p : Part) (x : Eye) (i : Nat) (f : SlotRecord → SlotRecord) : (p.onSlot x i f).resetAsserted = p.resetAsserted := rfl
@[simp] theorem Part.onSlot_sync (p : Part) (x : Eye) (i : Nat) (f : SlotRecord → SlotRecord) : (p.onSlot x i f).sync = p.sync := rfl
@[simp] theorem Part.onSlot_streams (p : Part) (x : Eye) (i : Nat) (f : SlotRecord → SlotRecord) : (p.onSlot x i f).streams = p.streams := rfl
@[simp] theorem Part.onSlot_pairs (p : Part) (x : Eye) (i : Nat) (f : SlotRecord → SlotRecord) : (p.onSlot x i f).pairs = p.pairs := rfl
@[simp] theorem Part.onSlot_readers (p : Part) (x : Eye) (i : Nat) (f : SlotRecord → SlotRecord) : (p.onSlot x i f).readers = p.readers := rfl
@[simp] theorem Part.onSlot_req (p : Part) (x : Eye) (i : Nat) (f : SlotRecord → SlotRecord) : (p.onSlot x i f).req = p.req := rfl
@[simp] theorem Part.onSlot_txn (p : Part) (x : Eye) (i : Nat) (f : SlotRecord → SlotRecord) : (p.onSlot x i f).txn = p.txn := rfl
@[simp] theorem Part.onSlot_skew (p : Part) (x : Eye) (i : Nat) (f : SlotRecord → SlotRecord) : (p.onSlot x i f).skew = p.skew := rfl
@[simp] theorem Part.onSlot_rig (p : Part) (x : Eye) (i : Nat) (f : SlotRecord → SlotRecord) : (p.onSlot x i f).rig = p.rig := rfl
@[simp] theorem Part.onSlot_report (p : Part) (x : Eye) (i : Nat) (f : SlotRecord → SlotRecord) : (p.onSlot x i f).report = p.report := rfl

@[simp] theorem Part.onReader_resetAsserted (p : Part) (r : ReaderId) (f : ReaderCtx → ReaderCtx) : (p.onReader r f).resetAsserted = p.resetAsserted := rfl
@[simp] theorem Part.onReader_sync (p : Part) (r : ReaderId) (f : ReaderCtx → ReaderCtx) : (p.onReader r f).sync = p.sync := rfl
@[simp] theorem Part.onReader_streams (p : Part) (r : ReaderId) (f : ReaderCtx → ReaderCtx) : (p.onReader r f).streams = p.streams := rfl
@[simp] theorem Part.onReader_slots (p : Part) (r : ReaderId) (f : ReaderCtx → ReaderCtx) : (p.onReader r f).slots = p.slots := rfl
@[simp] theorem Part.onReader_pairs (p : Part) (r : ReaderId) (f : ReaderCtx → ReaderCtx) : (p.onReader r f).pairs = p.pairs := rfl
@[simp] theorem Part.onReader_req (p : Part) (r : ReaderId) (f : ReaderCtx → ReaderCtx) : (p.onReader r f).req = p.req := rfl
@[simp] theorem Part.onReader_txn (p : Part) (r : ReaderId) (f : ReaderCtx → ReaderCtx) : (p.onReader r f).txn = p.txn := rfl
@[simp] theorem Part.onReader_skew (p : Part) (r : ReaderId) (f : ReaderCtx → ReaderCtx) : (p.onReader r f).skew = p.skew := rfl
@[simp] theorem Part.onReader_rig (p : Part) (r : ReaderId) (f : ReaderCtx → ReaderCtx) : (p.onReader r f).rig = p.rig := rfl
@[simp] theorem Part.onReader_report (p : Part) (r : ReaderId) (f : ReaderCtx → ReaderCtx) : (p.onReader r f).report = p.report := rfl

@[simp] theorem Part.onAcq_resetAsserted (p : Part) (x : Eye) (f : AcqCtx → AcqCtx) : (p.onAcq x f).resetAsserted = p.resetAsserted := rfl
@[simp] theorem Part.onAcq_streams (p : Part) (x : Eye) (f : AcqCtx → AcqCtx) : (p.onAcq x f).streams = p.streams := rfl
@[simp] theorem Part.onAcq_slots (p : Part) (x : Eye) (f : AcqCtx → AcqCtx) : (p.onAcq x f).slots = p.slots := rfl
@[simp] theorem Part.onAcq_pairs (p : Part) (x : Eye) (f : AcqCtx → AcqCtx) : (p.onAcq x f).pairs = p.pairs := rfl
@[simp] theorem Part.onAcq_readers (p : Part) (x : Eye) (f : AcqCtx → AcqCtx) : (p.onAcq x f).readers = p.readers := rfl
@[simp] theorem Part.onAcq_req (p : Part) (x : Eye) (f : AcqCtx → AcqCtx) : (p.onAcq x f).req = p.req := rfl
@[simp] theorem Part.onAcq_txn (p : Part) (x : Eye) (f : AcqCtx → AcqCtx) : (p.onAcq x f).txn = p.txn := rfl
@[simp] theorem Part.onAcq_skew (p : Part) (x : Eye) (f : AcqCtx → AcqCtx) : (p.onAcq x f).skew = p.skew := rfl
@[simp] theorem Part.onAcq_rig (p : Part) (x : Eye) (f : AcqCtx → AcqCtx) : (p.onAcq x f).rig = p.rig := rfl
@[simp] theorem Part.onAcq_report (p : Part) (x : Eye) (f : AcqCtx → AcqCtx) : (p.onAcq x f).report = p.report := rfl

@[simp] theorem Part.setMatchTimer_resetAsserted (p : Part) (x : Eye) (i : Nat) (t : Timer) : (p.setMatchTimer x i t).resetAsserted = p.resetAsserted := rfl
@[simp] theorem Part.setMatchTimer_sync (p : Part) (x : Eye) (i : Nat) (t : Timer) : (p.setMatchTimer x i t).sync = p.sync := rfl
@[simp] theorem Part.setMatchTimer_streams (p : Part) (x : Eye) (i : Nat) (t : Timer) : (p.setMatchTimer x i t).streams = p.streams := rfl
@[simp] theorem Part.setMatchTimer_slots (p : Part) (x : Eye) (i : Nat) (t : Timer) : (p.setMatchTimer x i t).slots = p.slots := rfl
@[simp] theorem Part.setMatchTimer_readers (p : Part) (x : Eye) (i : Nat) (t : Timer) : (p.setMatchTimer x i t).readers = p.readers := rfl
@[simp] theorem Part.setMatchTimer_req (p : Part) (x : Eye) (i : Nat) (t : Timer) : (p.setMatchTimer x i t).req = p.req := rfl
@[simp] theorem Part.setMatchTimer_txn (p : Part) (x : Eye) (i : Nat) (t : Timer) : (p.setMatchTimer x i t).txn = p.txn := rfl
@[simp] theorem Part.setMatchTimer_skew (p : Part) (x : Eye) (i : Nat) (t : Timer) : (p.setMatchTimer x i t).skew = p.skew := rfl
@[simp] theorem Part.setMatchTimer_rig (p : Part) (x : Eye) (i : Nat) (t : Timer) : (p.setMatchTimer x i t).rig = p.rig := rfl
@[simp] theorem Part.setMatchTimer_report (p : Part) (x : Eye) (i : Nat) (t : Timer) : (p.setMatchTimer x i t).report = p.report := rfl

@[simp] theorem Part.setEntry_resetAsserted (p : Part) (e : Nat) (v : Option Entry) : (p.setEntry e v).resetAsserted = p.resetAsserted := rfl
@[simp] theorem Part.setEntry_sync (p : Part) (e : Nat) (v : Option Entry) : (p.setEntry e v).sync = p.sync := rfl
@[simp] theorem Part.setEntry_streams (p : Part) (e : Nat) (v : Option Entry) : (p.setEntry e v).streams = p.streams := rfl
@[simp] theorem Part.setEntry_slots (p : Part) (e : Nat) (v : Option Entry) : (p.setEntry e v).slots = p.slots := rfl
@[simp] theorem Part.setEntry_pairs (p : Part) (e : Nat) (v : Option Entry) : (p.setEntry e v).pairs = p.pairs := rfl
@[simp] theorem Part.setEntry_readers (p : Part) (e : Nat) (v : Option Entry) : (p.setEntry e v).readers = p.readers := rfl
@[simp] theorem Part.setEntry_txn (p : Part) (e : Nat) (v : Option Entry) : (p.setEntry e v).txn = p.txn := rfl
@[simp] theorem Part.setEntry_skew (p : Part) (e : Nat) (v : Option Entry) : (p.setEntry e v).skew = p.skew := rfl
@[simp] theorem Part.setEntry_rig (p : Part) (e : Nat) (v : Option Entry) : (p.setEntry e v).rig = p.rig := rfl
@[simp] theorem Part.setEntry_report (p : Part) (e : Nat) (v : Option Entry) : (p.setEntry e v).report = p.report := rfl

@[simp] theorem Part.onEntry_resetAsserted (p : Part) (e : Nat) (f : Entry → Entry) : (p.onEntry e f).resetAsserted = p.resetAsserted := rfl
@[simp] theorem Part.onEntry_sync (p : Part) (e : Nat) (f : Entry → Entry) : (p.onEntry e f).sync = p.sync := rfl
@[simp] theorem Part.onEntry_streams (p : Part) (e : Nat) (f : Entry → Entry) : (p.onEntry e f).streams = p.streams := rfl
@[simp] theorem Part.onEntry_slots (p : Part) (e : Nat) (f : Entry → Entry) : (p.onEntry e f).slots = p.slots := rfl
@[simp] theorem Part.onEntry_pairs (p : Part) (e : Nat) (f : Entry → Entry) : (p.onEntry e f).pairs = p.pairs := rfl
@[simp] theorem Part.onEntry_readers (p : Part) (e : Nat) (f : Entry → Entry) : (p.onEntry e f).readers = p.readers := rfl
@[simp] theorem Part.onEntry_txn (p : Part) (e : Nat) (f : Entry → Entry) : (p.onEntry e f).txn = p.txn := rfl
@[simp] theorem Part.onEntry_skew (p : Part) (e : Nat) (f : Entry → Entry) : (p.onEntry e f).skew = p.skew := rfl
@[simp] theorem Part.onEntry_rig (p : Part) (e : Nat) (f : Entry → Entry) : (p.onEntry e f).rig = p.rig := rfl
@[simp] theorem Part.onEntry_report (p : Part) (e : Nat) (f : Entry → Entry) : (p.onEntry e f).report = p.report := rfl

@[simp] theorem Part.setTag_resetAsserted (p : Part) (t : Nat) (v : Option TagEntry) : (p.setTag t v).resetAsserted = p.resetAsserted := rfl
@[simp] theorem Part.setTag_sync (p : Part) (t : Nat) (v : Option TagEntry) : (p.setTag t v).sync = p.sync := rfl
@[simp] theorem Part.setTag_streams (p : Part) (t : Nat) (v : Option TagEntry) : (p.setTag t v).streams = p.streams := rfl
@[simp] theorem Part.setTag_slots (p : Part) (t : Nat) (v : Option TagEntry) : (p.setTag t v).slots = p.slots := rfl
@[simp] theorem Part.setTag_pairs (p : Part) (t : Nat) (v : Option TagEntry) : (p.setTag t v).pairs = p.pairs := rfl
@[simp] theorem Part.setTag_readers (p : Part) (t : Nat) (v : Option TagEntry) : (p.setTag t v).readers = p.readers := rfl
@[simp] theorem Part.setTag_req (p : Part) (t : Nat) (v : Option TagEntry) : (p.setTag t v).req = p.req := rfl
@[simp] theorem Part.setTag_skew (p : Part) (t : Nat) (v : Option TagEntry) : (p.setTag t v).skew = p.skew := rfl
@[simp] theorem Part.setTag_rig (p : Part) (t : Nat) (v : Option TagEntry) : (p.setTag t v).rig = p.rig := rfl
@[simp] theorem Part.setTag_report (p : Part) (t : Nat) (v : Option TagEntry) : (p.setTag t v).report = p.report := rfl

@[simp] theorem Part.onSection_resetAsserted (p : Part) (k : Section) (f : SectionShadow → SectionShadow) : (p.onSection k f).resetAsserted = p.resetAsserted := rfl
@[simp] theorem Part.onSection_sync (p : Part) (k : Section) (f : SectionShadow → SectionShadow) : (p.onSection k f).sync = p.sync := rfl
@[simp] theorem Part.onSection_streams (p : Part) (k : Section) (f : SectionShadow → SectionShadow) : (p.onSection k f).streams = p.streams := rfl
@[simp] theorem Part.onSection_slots (p : Part) (k : Section) (f : SectionShadow → SectionShadow) : (p.onSection k f).slots = p.slots := rfl
@[simp] theorem Part.onSection_pairs (p : Part) (k : Section) (f : SectionShadow → SectionShadow) : (p.onSection k f).pairs = p.pairs := rfl
@[simp] theorem Part.onSection_readers (p : Part) (k : Section) (f : SectionShadow → SectionShadow) : (p.onSection k f).readers = p.readers := rfl
@[simp] theorem Part.onSection_req (p : Part) (k : Section) (f : SectionShadow → SectionShadow) : (p.onSection k f).req = p.req := rfl
@[simp] theorem Part.onSection_txn (p : Part) (k : Section) (f : SectionShadow → SectionShadow) : (p.onSection k f).txn = p.txn := rfl
@[simp] theorem Part.onSection_skew (p : Part) (k : Section) (f : SectionShadow → SectionShadow) : (p.onSection k f).skew = p.skew := rfl
@[simp] theorem Part.onSection_report (p : Part) (k : Section) (f : SectionShadow → SectionShadow) : (p.onSection k f).report = p.report := rfl

@[simp] theorem Part.setPost_resetAsserted (p : Part) (k : Section) (v : PostState) : (p.setPost k v).resetAsserted = p.resetAsserted := rfl
@[simp] theorem Part.setPost_sync (p : Part) (k : Section) (v : PostState) : (p.setPost k v).sync = p.sync := rfl
@[simp] theorem Part.setPost_streams (p : Part) (k : Section) (v : PostState) : (p.setPost k v).streams = p.streams := rfl
@[simp] theorem Part.setPost_slots (p : Part) (k : Section) (v : PostState) : (p.setPost k v).slots = p.slots := rfl
@[simp] theorem Part.setPost_pairs (p : Part) (k : Section) (v : PostState) : (p.setPost k v).pairs = p.pairs := rfl
@[simp] theorem Part.setPost_readers (p : Part) (k : Section) (v : PostState) : (p.setPost k v).readers = p.readers := rfl
@[simp] theorem Part.setPost_req (p : Part) (k : Section) (v : PostState) : (p.setPost k v).req = p.req := rfl
@[simp] theorem Part.setPost_txn (p : Part) (k : Section) (v : PostState) : (p.setPost k v).txn = p.txn := rfl
@[simp] theorem Part.setPost_skew (p : Part) (k : Section) (v : PostState) : (p.setPost k v).skew = p.skew := rfl
@[simp] theorem Part.setPost_report (p : Part) (k : Section) (v : PostState) : (p.setPost k v).report = p.report := rfl

@[simp] theorem Part.tellStream_resetAsserted (p : Part) (x : Eye) (n : StreamNotice) : (p.tellStream x n).resetAsserted = p.resetAsserted := rfl
@[simp] theorem Part.tellStream_streams (p : Part) (x : Eye) (n : StreamNotice) : (p.tellStream x n).streams = p.streams := rfl
@[simp] theorem Part.tellStream_slots (p : Part) (x : Eye) (n : StreamNotice) : (p.tellStream x n).slots = p.slots := rfl
@[simp] theorem Part.tellStream_pairs (p : Part) (x : Eye) (n : StreamNotice) : (p.tellStream x n).pairs = p.pairs := rfl
@[simp] theorem Part.tellStream_readers (p : Part) (x : Eye) (n : StreamNotice) : (p.tellStream x n).readers = p.readers := rfl
@[simp] theorem Part.tellStream_req (p : Part) (x : Eye) (n : StreamNotice) : (p.tellStream x n).req = p.req := rfl
@[simp] theorem Part.tellStream_txn (p : Part) (x : Eye) (n : StreamNotice) : (p.tellStream x n).txn = p.txn := rfl
@[simp] theorem Part.tellStream_skew (p : Part) (x : Eye) (n : StreamNotice) : (p.tellStream x n).skew = p.skew := rfl
@[simp] theorem Part.tellStream_rig (p : Part) (x : Eye) (n : StreamNotice) : (p.tellStream x n).rig = p.rig := rfl
@[simp] theorem Part.tellStream_report (p : Part) (x : Eye) (n : StreamNotice) : (p.tellStream x n).report = p.report := rfl

@[simp] theorem Part.tellSkew_resetAsserted (p : Part) (x : Eye) (n : SkewNotice) : (p.tellSkew x n).resetAsserted = p.resetAsserted := rfl
@[simp] theorem Part.tellSkew_streams (p : Part) (x : Eye) (n : SkewNotice) : (p.tellSkew x n).streams = p.streams := rfl
@[simp] theorem Part.tellSkew_slots (p : Part) (x : Eye) (n : SkewNotice) : (p.tellSkew x n).slots = p.slots := rfl
@[simp] theorem Part.tellSkew_pairs (p : Part) (x : Eye) (n : SkewNotice) : (p.tellSkew x n).pairs = p.pairs := rfl
@[simp] theorem Part.tellSkew_readers (p : Part) (x : Eye) (n : SkewNotice) : (p.tellSkew x n).readers = p.readers := rfl
@[simp] theorem Part.tellSkew_req (p : Part) (x : Eye) (n : SkewNotice) : (p.tellSkew x n).req = p.req := rfl
@[simp] theorem Part.tellSkew_txn (p : Part) (x : Eye) (n : SkewNotice) : (p.tellSkew x n).txn = p.txn := rfl
@[simp] theorem Part.tellSkew_skew (p : Part) (x : Eye) (n : SkewNotice) : (p.tellSkew x n).skew = p.skew := rfl
@[simp] theorem Part.tellSkew_rig (p : Part) (x : Eye) (n : SkewNotice) : (p.tellSkew x n).rig = p.rig := rfl
@[simp] theorem Part.tellSkew_report (p : Part) (x : Eye) (n : SkewNotice) : (p.tellSkew x n).report = p.report := rfl

/-! ### One record changed: its own block -/

@[simp] theorem Part.onSlot_slots (p : Part) (x : Eye) (i : Nat) (f : SlotRecord → SlotRecord) :
    (p.onSlot x i f).slots = p.slots.set x ((p.slots.get x).modify i f) := rfl

@[simp] theorem Part.onReader_readers (p : Part) (r : ReaderId) (f : ReaderCtx → ReaderCtx) :
    (p.onReader r f).readers = { p.readers with ctx := p.readers.ctx.set r (f (p.readers.ctx.get r)) } := rfl

@[simp] theorem Part.onAcq_sync (p : Part) (x : Eye) (f : AcqCtx → AcqCtx) :
    (p.onAcq x f).sync = { p.sync with acq := p.sync.acq.set x (f (p.sync.acq.get x)) } := rfl

@[simp] theorem Part.setMatchTimer_pairs (p : Part) (x : Eye) (i : Nat) (t : Timer) :
    (p.setMatchTimer x i t).pairs =
      { p.pairs with matchTimers := p.pairs.matchTimers.set x ((p.pairs.matchTimers.get x).set i t) } := rfl

@[simp] theorem Part.setEntry_req (p : Part) (e : Nat) (v : Option Entry) :
    (p.setEntry e v).req = { p.req with table := p.req.table.set e v } := rfl

@[simp] theorem Part.onEntry_req (p : Part) (e : Nat) (f : Entry → Entry) :
    (p.onEntry e f).req = { p.req with table := p.req.table.modify e (Option.map f) } := rfl

@[simp] theorem Part.setTag_txn (p : Part) (t : Nat) (v : Option TagEntry) :
    (p.setTag t v).txn = { p.txn with tags := p.txn.tags.set t v } := rfl

@[simp] theorem Part.onSection_rig (p : Part) (k : Section) (f : SectionShadow → SectionShadow) :
    (p.onSection k f).rig = { p.rig with shadow := p.rig.shadow.set k (f (p.rig.shadow.get k)) } := rfl

@[simp] theorem Part.setPost_rig (p : Part) (k : Section) (v : PostState) :
    (p.setPost k v).rig =
      { p.rig with shadow := p.rig.shadow.set k { p.rig.shadow.get k with post := v } } := rfl

@[simp] theorem Part.tellStream_sync (p : Part) (x : Eye) (n : StreamNotice) :
    (p.tellStream x n).sync =
      { p.sync with streamNotices := p.sync.streamNotices.set x (p.sync.streamNotices.get x ++ [n]) } := rfl

@[simp] theorem Part.tellSkew_sync (p : Part) (x : Eye) (n : SkewNotice) :
    (p.tellSkew x n).sync =
      { p.sync with skewNotices := p.sync.skewNotices.set x (p.sync.skewNotices.get x ++ [n]) } := rfl

end Sys2Proof.Machine
end

