-- ==== Sys2Proof/Laws/Commands.lean ====
section
/-! SUPPORT. What running a command gives, said once: outside reset, and while RESET_N is asserted; and what the shared operations
leave alone. -/

namespace Sys2Proof.Machine

theorem whenRunning_running (f : Part → Part) (s : State) (h : s.hw.resetAsserted = false) :
    whenRunning f s = .next { s with hw := markChanged s.hw (f s.hw) } := by
  unfold whenRunning
  simp [h]

theorem whenRunning_reset (f : Part → Part) (s : State) (h : s.hw.resetAsserted = true) : whenRunning f s = .next s := by
  unfold whenRunning
  simp [h]

/-- A command of the part always answers a next state, and the waiting commands stay as they are. -/
theorem whenRunning_next (f : Part → Part) (s : State) :
    whenRunning f s = .next { s with hw := if s.hw.resetAsserted then s.hw else markChanged s.hw (f s.hw) } := rfl

/-- The changed mark is all that the marking changes. -/
theorem markChanged_report (a b : Part) :
    (markChanged a b).report = { b.report with changed := b.report.changed || decide (shownBytes a ≠ shownBytes b) } := rfl

theorem onExpiry_running (t : Timer) (r : Nat) (f : Part → Part) (p : Part) (h : t = .running r) :
    onExpiry t f p = f (passTime r p) := by
  subst h
  rfl

theorem onExpiry_stopped (t : Timer) (f : Part → Part) (p : Part) (h : t = .stopped) : onExpiry t f p = p := by
  subst h
  rfl

/-! ### The passing of time leaves alone everything but the timebase, the pulse marks and the timers -/

theorem passTime_of_reset (n : Nat) (p : Part) (h : p.resetAsserted = true) : passTime n p = p := by
  unfold passTime
  simp [h]

@[simp] theorem passTime_resetAsserted (n : Nat) (p : Part) : (passTime n p).resetAsserted = p.resetAsserted := by
  unfold passTime
  split <;> rfl

@[simp] theorem passTime_streams (n : Nat) (p : Part) : (passTime n p).streams = p.streams := by unfold passTime; split <;> rfl

@[simp] theorem passTime_req (n : Nat) (p : Part) : (passTime n p).req = p.req := by unfold passTime; split <;> rfl

@[simp] theorem passTime_rig (n : Nat) (p : Part) : (passTime n p).rig = p.rig := by unfold passTime; split <;> rfl

@[simp] theorem passTime_queue (n : Nat) (p : Part) : (passTime n p).pairs.queue = p.pairs.queue := by
  unfold passTime; split <;> rfl

@[simp] theorem passTime_flags (n : Nat) (p : Part) : (passTime n p).report.flags = p.report.flags := by
  unfold passTime; split <;> rfl

@[simp] theorem passTime_counters (n : Nat) (p : Part) : (passTime n p).report.counters = p.report.counters := by
  unfold passTime; split <;> rfl

@[simp] theorem passTime_records (n : Nat) (p : Part) : (passTime n p).report.queue = p.report.queue := by
  unfold passTime; split <;> rfl

/-- The timebase counts up by the ticks that pass, modulo 2^48 (R109). -/
theorem passTime_timebase (n : Nat) (p : Part) (h : p.resetAsserted = false) :
    (passTime n p).sync.timebase = p.sync.timebase + BitVec.ofNat 48 n := by
  unfold passTime
  simp [h]

/-- Time passed to a reading stands at that reading (R109, R110). -/
theorem passTime_until (time : Stamp) (p : Part) (h : p.resetAsserted = false) :
    (passTime (ticksUntil p time) p).sync.timebase = time := by
  rw [passTime_timebase _ _ h]
  unfold ticksUntil Part.now
  rw [BitVec.ofNat_toNat, BitVec.setWidth_eq, BitVec.add_comm, BitVec.sub_add_cancel]

@[simp] theorem passTime_acq (n : Nat) (p : Part) (x : Eye) :
    (passTime n p).acq x =
      if p.resetAsserted then p.acq x else { p.acq x with lossTimer := (p.acq x).lossTimer.passes n } := by
  unfold passTime Part.acq
  split
  · rfl
  · simp

end Sys2Proof.Machine
end

