-- ==== Sys2Proof/Laws/Moves.lean ====
section
/-! SUPPORT. What the operations of the reader unit, the pair manager and the slot tables can change: a property that survives
the elementary moves of these blocks survives every operation built from them. -/

namespace Sys2Proof.Machine

/-- A property of both branches is one of the whole. -/
theorem keeps_ite {I : Part → Prop} {c : Prop} [Decidable c] {a b : Part} (ha : I a) (hb : I b) : I (if c then a else b) := by
  split
  · exact ha
  · exact hb

/-- The elementary moves of everything that an announcement, a release or a retirement brings about. -/
structure FreeMoves (I : Part → Prop) : Prop where
  pairs : ∀ p queue number timers, I p →
    I (p.onPairs fun u => { u with queue := queue, nextNumber := number, matchTimers := timers })
  prdy : ∀ p, I p → I (evaluatePrdy p)
  ready : ∀ p, I p → I (prdyOnReady p)
  slots : ∀ p x f, I p → I (p.onSlots x f)
  ctx : ∀ p (f : PerReader ReaderCtx → PerReader ReaderCtx), I p → I (p.onReaders fun u => { u with ctx := f u.ctx })
  park : ∀ p (l : List ParkedRead), (l.length ≤ p.readers.parkList.length ∨ l.length ≤ Config.parkPlaces) → I p →
    I (p.onReaders fun u => { u with parkList := l })
  table : ∀ p (t : List (Option Entry)), t.length = p.req.table.length → I p → I (p.onReq fun u => { u with table := t })
  returning : ∀ p (l : List Nat), I p → I (p.onReq fun u => { u with returning := l })
  issue : ∀ p (l : List (List Piece)), I p → I (p.onTxn fun u => { u with issue := l })
  count : ∀ p c n, I p → I (raiseBy c n p)
  record : ∀ p stamp take body, I p → I (queueRecord stamp take body p)
  flag : ∀ p f, I p → I (setFlag f p)
  post : ∀ p k v, I p → I (p.setPost k v)
  readerSettings : ∀ p r v, validateReader p r (p.staged (.reader r)) = .ok v → I p →
    I (p.onRig fun u => { u with reader := u.reader.set r v })
  window : ∀ p w, p.rig.windowChange = some w → I p →
    I (p.onRig fun u => { u with global := { u.global with windowBase := w.base, layout := w.layout }, windowChange := none })

/-- The moves of a property `I` that rests on the pair queue and on the last-taken numbers: where these change, the weaker `J` is
left, and an evaluation of PRDY mends it. -/
structure ReaderMoves (J I : Part → Prop) : Prop where
  free : FreeMoves J
  weaken : ∀ p, I p → J p
  settle : ∀ p, J p → I (evaluatePrdy p)
  ready : ∀ p, J p → I (prdyOnReady p)
  setMatchTimer : ∀ p x i t, I p → I (p.setMatchTimer x i t)
  onHolders : ∀ p k f, I p → I (onHolders k f p)
  link : ∀ p q number, q.state = .forming → I p →
    I (p.onPairs fun u => { u with queue := u.queue ++ [q], nextNumber := number })
  unlink : ∀ p q, q.state = .forming → I p → I (p.onPairs fun u => { u with queue := u.queue.filter fun r => r != q })
  ripen : ∀ p q k, q.state = .forming → k.stale = true → I p →
    I (p.onPairs fun u => { u with queue := updateFirst (fun r => r == q) (fun _ => k) u.queue })
  slots : ∀ p x f, I p → I (p.onSlots x f)
  ctx : ∀ p (f : PerReader ReaderCtx → PerReader ReaderCtx), (∀ c r, ((f c).get r).lastTaken = (c.get r).lastTaken) → I p →
    I (p.onReaders fun u => { u with ctx := f u.ctx })
  park : ∀ p (l : List ParkedRead), (l.length ≤ p.readers.parkList.length ∨ l.length ≤ Config.parkPlaces) → I p →
    I (p.onReaders fun u => { u with parkList := l })
  table : ∀ p (t : List (Option Entry)), t.length = p.req.table.length → I p → I (p.onReq fun u => { u with table := t })
  returning : ∀ p (l : List Nat), I p → I (p.onReq fun u => { u with returning := l })
  issue : ∀ p (l : List (List Piece)), I p → I (p.onTxn fun u => { u with issue := l })
  count : ∀ p c n, I p → I (raiseBy c n p)
  record : ∀ p stamp take body, I p → I (queueRecord stamp take body p)
  flag : ∀ p f, I p → I (setFlag f p)
  post : ∀ p k v, I p → I (p.setPost k v)
  readerSettings : ∀ p r v, validateReader p r (p.staged (.reader r)) = .ok v → I p →
    I (p.onRig fun u => { u with reader := u.reader.set r v })
  window : ∀ p w, p.rig.windowChange = some w → I p →
    I (p.onRig fun u => { u with global := { u.global with windowBase := w.base, layout := w.layout }, windowChange := none })

theorem FreeMoves.onReader {I : Part → Prop} (m : FreeMoves I) (p : Part) (r : ReaderId) (f : ReaderCtx → ReaderCtx) (h : I p) :
    I (p.onReader r f) := m.ctx p (fun c => c.set r (f (c.get r))) h

/-- A property that rests on neither is its own weaker one. -/
theorem FreeMoves.moves {I : Part → Prop} (m : FreeMoves I) : ReaderMoves I I where
  free := m
  weaken _ h := h
  settle := m.prdy
  ready := m.ready
  setMatchTimer p _ _ _ h := m.pairs p _ _ _ h
  onHolders p _ _ h := m.pairs p _ _ _ h
  link p _ _ _ h := m.pairs p _ _ _ h
  unlink p _ _ h := m.pairs p _ _ _ h
  ripen p _ _ _ _ h := m.pairs p _ _ _ h
  slots := m.slots
  ctx p f _ h := m.ctx p f h
  park := m.park
  table := m.table
  returning := m.returning
  issue := m.issue
  count := m.count
  record := m.record
  flag := m.flag
  post := m.post
  readerSettings := m.readerSettings
  window := m.window

/-- The same with the one move that an abandonment makes at a capture stream (R20). -/
structure FrameMoves (J I : Part → Prop) : Prop extends ReaderMoves J I where
  abandoned : ∀ p x i, I p → I (p.onStream x (StreamCtx.abandoned i))

namespace ReaderMoves

variable {J I : Part → Prop} (m : ReaderMoves J I)
include m

/-! ### Records of one block -/

theorem onSlot (p : Part) (x : Eye) (i : Nat) (f : SlotRecord → SlotRecord) (h : I p) : I (p.onSlot x i f) := m.slots p x _ h

theorem onReader (p : Part) (r : ReaderId) (f : ReaderCtx → ReaderCtx) (hf : ∀ c, (f c).lastTaken = c.lastTaken) (h : I p) :
    I (p.onReader r f) := by
  refine m.ctx p (fun c => c.set r (f (c.get r))) (fun c k => ?_) h
  rw [PerReader.get_set]
  split
  · rename_i hk
    subst hk
    exact hf _
  · rfl

theorem setEntry (p : Part) (e : Nat) (v : Option Entry) (h : I p) : I (p.setEntry e v) :=
  m.table p (p.req.table.set e v) (by simp) h

theorem onEntry (p : Part) (e : Nat) (f : Entry → Entry) (h : I p) : I (p.onEntry e f) :=
  m.table p (p.req.table.modify e (Option.map f)) (by simp) h

theorem raise (p : Part) (c : Counter) (h : I p) : I (raise c p) := m.count p c 1 h

theorem queueRecordNow (p : Part) (b : RecordBody) (h : I p) : I (queueRecordNow b p) := m.record p _ _ _ h

theorem finishEntry (p : Part) (e : Nat) (c : Code) (d : List Byte) (h : I p) : I (finishEntry e c d p) :=
  m.returning _ _ (m.onEntry p e _ h)

theorem answerAtOnce (p : Part) (e : Nat) (c : Code) (h : I p) : I (answerAtOnce e c p) := by
  unfold Machine.answerAtOnce
  split
  · exact h
  · exact m.finishEntry p _ _ _ h

theorem handOn (p : Part) (e : Nat) (c : Code) (d : List Byte) (l : List Piece) (h : I p) : I (handOn e c d l p) :=
  m.issue _ _ (m.onEntry p e _ h)

/-! ### The pair manager -/

theorem evaluatePrdy (p : Part) (h : I p) : I (evaluatePrdy p) := m.settle _ (m.weaken _ h)

theorem prdyOnReady (p : Part) (h : I p) : I (prdyOnReady p) := m.ready _ (m.weaken _ h)

omit m in
theorem foldl {α : Type} (f : Part → α → Part) (hf : ∀ p a, I p → I (f p a)) (l : List α) (p : Part) (h : I p) :
    I (l.foldl f p) := by
  induction l generalizing p with
  | nil => exact h
  | cons a as ih => exact ih _ (hf p a h)

theorem retireSlots (p : Part) (r : PairRecord) (h : I p) : I (retireSlots p r) := m.onSlot _ _ _ _ (m.onSlot _ _ _ _ h)

omit m in
theorem staying_of_none (p : Part) (l : List PairRecord) (h : retiring p l = []) : staying p l = l := by
  induction l with
  | nil => rfl
  | cons r rs ih =>
    unfold retiring at h
    unfold staying
    split
    · rename_i hr
      simp [hr] at h
    · rename_i hr
      simp only [hr, Bool.false_eq_true, if_false] at h
      rw [ih h]

theorem evaluateRetirement (p : Part) (h : I p) : I (evaluateRetirement p) := by
  unfold Machine.evaluateRetirement
  dsimp only
  split
  · rename_i hn
    have hnil : retiring p p.pairs.queue = [] := by simpa using hn
    rw [hnil]
    show I (p.onPairs fun q => { q with queue := staying p q.queue })
    have : (p.onPairs fun q => { q with queue := staying p q.queue }) = p := by
      unfold Part.onPairs
      dsimp only
      rw [staying_of_none p _ hnil]
    rw [this]
    exact h
  · refine m.settle _ (ReaderMoves.foldl _ (fun q r hq => ?_) _ _ (m.free.pairs p _ _ _ (m.weaken _ h)))
    exact m.free.slots _ _ _ (m.free.slots _ _ _ hq)

theorem slotOpened (p : Part) (x : Eye) (i : Nat) (h : I p) : I (slotOpened x i p) := by
  unfold Machine.slotOpened
  split
  · exact m.onSlot _ _ _ _ (m.onSlot _ _ _ _ (m.link _ _ _ rfl (m.setMatchTimer _ _ _ _ h)))
  · exact m.setMatchTimer _ _ _ _ h

/-! ### The reader unit -/

theorem rejectSection (p : Part) (k : Section) (r : RejectReason) (l : Bool) (h : I p) : I (rejectSection k r l p) :=
  m.queueRecordNow _ _ (m.flag _ _ (m.post _ _ _ h))

theorem checkWindow (p : Part) (h : I p) : I (checkWindow p) := by
  unfold Machine.checkWindow
  split
  · exact h
  · split
    · exact h
    · exact m.window _ _ (by assumption) h

theorem putReader (p : Part) (r : ReaderId) (v : ReaderSettings) (hv : validateReader p r (p.staged (.reader r)) = .ok v)
    (h : I p) : I (putReader r v p) :=
  m.evaluateRetirement _ (m.settle _ (m.free.onReader _ _ _ (m.weaken _ (m.post _ _ _ (m.readerSettings _ _ _ hv h)))))

theorem latchReader (p : Part) (r : ReaderId) (h : I p) : I (latchReader r p) := by
  unfold Machine.latchReader
  split
  · exact m.rejectSection _ _ _ _ h
  · exact m.putReader _ _ _ (by assumption) h

theorem latchReaderIfPosted (p : Part) (r : ReaderId) (h : I p) : I (latchReaderIfPosted r p) := by
  unfold Machine.latchReaderIfPosted
  split
  · exact m.latchReader _ _ h
  · exact h

theorem countReads (p : Part) (q : PairRecord) (l : List Piece) (h : I p) : I (countReads q l p) :=
  m.onSlot _ _ _ _ (m.onSlot _ _ _ _ h)

theorem translateRead (p : Part) (q : PairRecord) (e o n : Nat) (h : I p) : I (translateRead q e o n p) := by
  unfold Machine.translateRead
  split
  · exact h
  · dsimp only
    split
    · exact m.finishEntry _ _ _ _ h
    · exact m.handOn _ _ _ _ _ (m.countReads _ _ _ h)

theorem refuseRead (p : Part) (e : Nat) (h : I p) : I (refuseRead e p) := m.raise _ _ (m.answerAtOnce _ _ _ h)

theorem skipPair (p : Part) (r : ReaderId) (q : PairRecord) (h : I p) : I (skipPair r q p) :=
  m.settle _ (m.free.record _ _ _ _ (m.free.onReader _ _ _ (m.weaken _ h)))

theorem chooseEvery (r : ReaderId) (l : List PairRecord) (p : Part) (h : I p) : I (chooseEvery r l p).1 := by
  induction l generalizing p with
  | nil => exact h
  | cons q qs ih =>
    unfold Machine.chooseEvery
    split
    · exact ih p h
    · split
      · exact h
      · split
        · exact ih _ (m.skipPair _ _ _ h)
        · exact h

theorem choosePair (p : Part) (r : ReaderId) (h : I p) : I (choosePair r p).1 := by
  unfold Machine.choosePair
  split
  · exact m.chooseEvery _ _ _ h
  · exact h

theorem acceptTake (p : Part) (r : ReaderId) (q : PairRecord) (h : I p) : I (acceptTake r q p) :=
  m.evaluateRetirement _ (m.settle _ (m.free.onReader _ _ _ (m.weaken _ (m.onHolders _ _ _ h))))

theorem attemptTake (p : Part) (r : ReaderId) (h : I p) : I (attemptTake r p).1 := by
  have hc := m.choosePair p r h
  unfold Machine.attemptTake
  split <;> rename_i heq <;> rw [heq] at hc
  · split
    · exact m.acceptTake _ _ _ hc
    · exact hc
  · exact hc

theorem release (p : Part) (r : ReaderId) (b : Bool) (h : I p) : I (release r b p) := by
  unfold Machine.release
  split
  · exact h
  · refine m.evaluateRetirement _ (m.onHolders _ _ _ (m.checkWindow _ ?_))
    split
    · exact m.latchReaderIfPosted _ _ (m.onReader _ _ _ (fun _ => rfl) h)
    · exact m.onReader _ _ _ (fun _ => rfl) h

theorem boundRead (p : Part) (r : ReaderId) (e o n : Nat) (h : I p) : I (boundRead r e o n p) := by
  unfold Machine.boundRead
  split
  · exact m.refuseRead _ _ h
  · split
    · exact m.refuseRead _ _ h
    · dsimp only
      split
      · exact m.release _ _ _ (m.translateRead _ _ _ _ _ h)
      · exact m.translateRead _ _ _ _ _ h

theorem holdRead (p : Part) (r : ReaderId) (e o n : Nat) (h : I p) : I (holdRead r e o n p) :=
  m.boundRead _ _ _ _ _ (m.onReader _ _ _ (fun _ => rfl) h)

theorem takenRead (p : Part) (r : ReaderId) (e o n : Nat) (h : I p) : I (takenRead r e o n p) := by
  unfold Machine.takenRead
  refine m.boundRead _ _ _ _ _ ?_
  repeat' split
  all_goals first
    | exact m.onReader _ _ _ (fun _ => rfl) h
    | exact h

theorem parkRead (p : Part) (r : ReaderId) (e o n : Nat) (room : parkRoom p = true) (h : I p) : I (parkRead r e o n p) := by
  refine m.onEntry _ _ _ (m.onReader _ _ _ (fun _ => rfl) (m.park p _ (Or.inr ?_) h))
  simp [parkRoom] at room ⊢
  omega

theorem failedTake (p : Part) (r : ReaderId) (e o n : Nat) (h : I p) : I (failedTake r e o n p) := by
  unfold Machine.failedTake
  split
  · rename_i hc
    simp at hc
    exact m.parkRead _ _ _ _ _ hc.2 h
  · exact m.latchReaderIfPosted _ _ (m.answerAtOnce _ _ _ h)

theorem takeRead (p : Part) (r : ReaderId) (e o n : Nat) (h : I p) : I (takeRead r e o n p) := by
  have ht := m.attemptTake p r h
  unfold Machine.takeRead
  split <;> rename_i heq <;> rw [heq] at ht
  · exact m.takenRead _ _ _ _ _ ht
  · exact m.failedTake _ _ _ _ _ ht

theorem readerRead (p : Part) (r : ReaderId) (e o n : Nat) (h : I p) : I (readerRead r e o n p) := by
  unfold Machine.readerRead
  split
  · exact m.takeRead _ _ _ _ _ h
  · split
    · exact m.takeRead _ _ _ _ _ (m.release _ _ _ h)
    · exact m.holdRead _ _ _ _ _ h
  · split
    · rename_i hroom
      exact m.parkRead _ _ _ _ _ hroom h
    · exact m.answerAtOnce _ _ _ h
  · exact m.refuseRead _ _ h

theorem readerUnitRead (p : Part) (e : Nat) (h : I p) : I (readerUnitRead e p) := by
  unfold Machine.readerUnitRead
  split
  · exact h
  · split
    · exact m.refuseRead _ _ h
    · exact m.readerRead _ _ _ _ _ h

theorem removeParked (p : Part) (e : Nat) (h : I p) : I (removeParked e p) :=
  m.park p _ (Or.inl (List.length_filter_le _ _)) h

theorem backToParked (p : Part) (r : ReaderId) (h : I p) : I (backToParked r p) := m.onReader _ _ _ (fun _ => rfl) h

theorem processParkedReads (r : ReaderId) (l : List ParkedRead) (p : Part) (h : I p) : I (processParkedReads r l p) := by
  induction l generalizing p with
  | nil => exact h
  | cons k ks ih =>
    unfold Machine.processParkedReads
    split
    · have ht := m.attemptTake p r h
      split <;> rename_i heq <;> rw [heq] at ht
      · exact ih _ (m.takenRead _ _ _ _ _ (m.removeParked _ _ ht))
      · exact m.backToParked _ _ ht
    · exact ih _ (m.readerRead _ _ _ _ _ (m.removeParked _ _ h))

theorem attemptParked (p : Part) (r : ReaderId) (h : I p) : I (attemptParked r p) := by
  unfold Machine.attemptParked
  split
  · have ht := m.attemptTake p r h
    split <;> rename_i heq <;> rw [heq] at ht
    · exact m.processParkedReads _ _ _ ht
    · exact ht
  · exact h

theorem announceReady (p : Part) (h : I p) : I (announceReady p) := ReaderMoves.foldl _ (fun _ r hp => m.attemptParked _ r hp) _ _ h

theorem announceRemoval (p : Part) (h : I p) : I (announceRemoval p) := by
  refine ReaderMoves.foldl _ (fun q r hp => ?_) _ _ h
  split
  · exact m.attemptParked _ _ hp
  · exact hp

theorem leaseLapses (p : Part) (r : ReaderId) (h : I p) : I (leaseLapses r p) := by
  unfold Machine.leaseLapses
  split
  · exact h
  · exact m.queueRecordNow _ _ (m.flag _ _ (m.release _ _ _ h))

theorem parkLapses (p : Part) (k : ParkedRead) (h : I p) : I (parkLapses k p) := by
  have h2 := m.queueRecordNow _ (.readerEvent .parkExpired k.reader Damage.none 0 0 k.offset)
    (m.answerAtOnce _ k.entry .noPair (m.removeParked p k.entry h))
  unfold Machine.parkLapses
  dsimp only
  split
  · exact m.checkWindow _ (m.latchReaderIfPosted _ _ (m.onReader _ _ _ (fun _ => rfl) h2))
  · exact h2

/-! ### Readiness and results at a slot -/

theorem pairReadyEvents (p : Part) (q : PairRecord) (h : I p) : I (pairReadyEvents q p) := by
  unfold Machine.pairReadyEvents
  dsimp only
  split
  · exact m.flag _ _ (m.raise _ _ (m.record _ _ _ _ h))
  · exact m.raise _ _ (m.record _ _ _ _ h)

theorem makeReady (p : Part) (q : PairRecord) (hq : q.state = .forming) (h : I p) : I (makeReady q p) := by
  unfold Machine.makeReady
  refine m.evaluateRetirement _ ?_
  split
  · refine m.ready _ (m.free.moves.announceReady _ (m.free.moves.pairReadyEvents _ _ ?_))
    exact m.free.slots _ _ _ (m.free.slots _ _ _ (m.free.pairs _ _ _ _ (m.weaken _ h)))
  · rename_i hs
    refine m.pairReadyEvents _ _ (m.onSlot _ _ _ _ (m.onSlot _ _ _ _ (m.ripen _ _ _ hq ?_ h)))
    simpa [PairRecord.isCurrent] using hs

theorem slotCompleted (p : Part) (x : Eye) (i : Nat) (h : I p) : I (slotCompleted x i p) := by
  unfold Machine.slotCompleted
  split
  · exact h
  · split
    · rename_i hc
      exact m.makeReady _ _ hc.1 h
    · exact h

theorem completeLanding (p : Part) (x : Eye) (i : Nat) (h : I p) : I (completeLanding x i p) :=
  m.slotCompleted _ _ _ (m.onSlot _ _ _ _ h)

theorem endReached (p : Part) (x : Eye) (i : Nat) (h : I p) : I (endReached x i p) := by
  unfold Machine.endReached
  split
  · dsimp only
    split
    · exact m.completeLanding _ _ _ (m.onSlot _ _ _ _ h)
    · exact m.onSlot _ _ _ _ (m.onSlot _ _ _ _ h)
  · exact h

theorem slotWriteResult (p : Part) (x : Eye) (i : Nat) (r : MResult) (h : I p) : I (slotWriteResult x i r p) := by
  unfold Machine.slotWriteResult
  dsimp only
  split
  · exact m.completeLanding _ _ _ (m.onSlot _ _ _ _ h)
  · exact m.onSlot _ _ _ _ h

theorem slotResult (p : Part) (role : Role) (r : MResult) (h : I p) : I (slotResult role r p) := by
  unfold Machine.slotResult
  split
  · exact m.slotWriteResult _ _ _ _ h
  · exact m.onSlot _ _ _ _ h
  · exact h

theorem entryResult (p : Part) (e place length : Nat) (r : MResult) (h : I p) : I (entryResult e place length r p) := by
  unfold Machine.entryResult
  split
  · exact h
  · split
    · exact h
    · dsimp only
      split
      · exact m.finishEntry _ _ _ _ h
      · exact m.onEntry _ _ _ h

theorem frameLost (p : Part) (x : Eye) (reason : LostReason) (frame : Word) (stamp : Stamp) (pair : Option Nat)
    (take : Option Word) (slot : Option Nat) (ended : Bool) (h : I p) :
    I (frameLost x reason frame stamp pair take slot ended p) :=
  m.record _ _ _ _ (m.raise _ _ (m.flag _ _ h))

theorem grantSlot (p : Part) (x : Eye) (i : Nat) (frame : Word) (stamp : Stamp) (g : Geometry) (h : I p) :
    I (grantSlot x i frame stamp g p) := m.slotOpened _ _ _ (m.onSlot _ _ _ _ h)

theorem requestSlot (p : Part) (x : Eye) (frame : Word) (stamp : Stamp) (g : Geometry) (h : I p) :
    I (requestSlot x frame stamp g p).1 := by
  unfold Machine.requestSlot
  split
  · exact m.grantSlot _ _ _ _ _ _ h
  · dsimp only
    split
    · exact m.grantSlot _ _ _ _ _ _ (m.evaluateRetirement _ h)
    · exact m.frameLost _ _ _ _ _ _ _ _ _ (m.evaluateRetirement _ h)

end ReaderMoves

namespace FrameMoves

variable {J I : Part → Prop} (m : FrameMoves J I)
include m

theorem abandonBy (notice : Part → Part) (hn : ∀ p, I p → I (notice p)) (p : Part) (x : Eye) (i : Nat) (r : LostReason)
    (h : I p) : I (abandonBy notice x i r p) := by
  have h1 := m.onSlot p x i (fun r => { r with state := .draining, frameTimer := .stopped }) h
  unfold Machine.abandonBy
  dsimp only
  split
  · refine m.onSlot _ _ _ _ (m.frameLost _ _ _ _ _ _ _ _ _ (hn _ ?_))
    split
    · exact m.abandoned _ _ _ h1
    · exact h1
  · exact h

theorem abandonPartner (p : Part) (x : Eye) (i : Nat) (h : I p) : I (abandonPartner x i p) :=
  m.abandonBy _ (fun _ hp => m.evaluateRetirement _ (m.setMatchTimer _ _ _ _ hp)) _ _ _ _ h

theorem removeRecord (p : Part) (q : PairRecord) (x : Eye) (hq : q.state = .forming) (h : I p) : I (removeRecord q x p) := by
  unfold Machine.removeRecord
  dsimp only
  split
  · exact m.announceRemoval _ (m.abandonPartner _ _ _ (m.unlink _ _ hq h))
  · exact m.abandonPartner _ _ _ (m.unlink _ _ hq h)

theorem abandonNotice (p : Part) (x : Eye) (i : Nat) (h : I p) : I (abandonNotice x i p) := by
  have h1 := m.setMatchTimer p x i .stopped h
  unfold Machine.abandonNotice
  dsimp only
  split
  · exact m.evaluateRetirement _ h1
  · split
    · rename_i hc
      exact m.evaluateRetirement _ (m.removeRecord _ _ _ hc h1)
    · exact m.evaluateRetirement _ h1

theorem abandon (p : Part) (x : Eye) (i : Nat) (r : LostReason) (h : I p) : I (abandon x i r p) :=
  m.abandonBy _ (fun _ hp => m.abandonNotice _ _ _ hp) _ _ _ _ h

end FrameMoves

end Sys2Proof.Machine
end

