-- ==== Sys2Proof/Laws/Invariant.lean ====
section
/-! SUPPORT. The operations keep the invariant of the part. -/

namespace Sys2Proof.Machine

/-- Everything the invariant reads. -/
def Part.watched (p : Part) :=
  (p.req.intake.length, p.req.table.length, p.txn.tags, p.txn.output.map MOut.tag, p.readers.parkList.length,
    p.report.queue.length, p.report.counters.length, p.report.flags, p.report.alertN, p.rig.global.alertEnables, p.rig.sync,
    p.rig.eye, p.skew.trim)

theorem OneOffered_iff (p : Part) :
    p.OneOffered ↔ ∀ t, (∃ te, p.tag t = some te ∧ te.state = .offered) ↔ p.txn.output.map MOut.tag = some t := by
  unfold Part.OneOffered
  simp [Option.map_eq_some_iff]

/-- The invariant rests on what it reads alone. -/
theorem Part.Inv.same {p q : Part} (h : p.Inv) (e : q.watched = p.watched) : q.Inv := by
  simp only [Part.watched, Prod.mk.injEq] at e
  obtain ⟨e1, e2, e3, e4, e5, e6, e7, e8, e9, e10, e11, e12, e13⟩ := e
  refine ⟨⟨?_, ?_, ?_, ?_, ?_, ?_⟩, ?_, ⟨?_, ?_, ?_⟩, ?_, ?_⟩
  · rw [e1]; exact h.sized.intake
  · rw [e2]; exact h.sized.table
  · rw [e3]; exact h.sized.tags
  · rw [e5]; exact h.sized.park
  · rw [e6]; exact h.sized.records
  · rw [e7]; exact h.sized.counters
  · unfold Part.AlertDriven; rw [e8, e9, e10]; exact h.alert
  · rw [e11]; exact h.settings.sync
  · unfold Part.eyeSettings; rw [e12]; exact h.settings.left
  · unfold Part.eyeSettings; rw [e12]; exact h.settings.right
  · unfold Part.TrimBounded; rw [e11, e13]; exact h.trim
  · have ho := h.offered
    rw [OneOffered_iff] at ho ⊢
    unfold Part.tag at ho ⊢
    rw [e3, e4]
    exact ho

theorem inv_raiseBy (p : Part) (c : Counter) (n : Nat) (h : p.Inv) : (raiseBy c n p).Inv :=
  h.same (by simp [Part.watched, raiseBy])

theorem inv_changeFlags (p : Part) (v : BitVec 11) (h : p.Inv) : (changeFlags v p).Inv := by
  unfold changeFlags
  split
  · exact h
  · exact ⟨⟨h.sized.intake, h.sized.table, h.sized.tags, h.sized.park, h.sized.records, h.sized.counters⟩, rfl,
      ⟨h.settings.sync, h.settings.left, h.settings.right⟩, h.trim, h.offered⟩

theorem inv_setFlag (p : Part) (f : EventFlag) (h : p.Inv) : (setFlag f p).Inv := inv_changeFlags p _ h

theorem inv_queueRecord (p : Part) (stamp : Stamp) (take : Word) (b : RecordBody) (h : p.Inv) :
    (queueRecord stamp take b p).Inv := by
  unfold queueRecord
  split
  · rename_i hl
    refine ⟨⟨h.sized.intake, h.sized.table, h.sized.tags, h.sized.park, ?_, h.sized.counters⟩, h.alert,
      ⟨h.settings.sync, h.settings.left, h.settings.right⟩, h.trim, h.offered⟩
    simp [Config.reportDepth] at hl ⊢
    omega
  · exact inv_setFlag _ _ (inv_raiseBy _ _ _ h)

/-- The invariant survives every announcement, release, retirement and abandonment. -/
theorem invFree : FreeMoves Part.Inv where
  pairs _ _ _ _ h := h.same rfl
  prdy _ h := by unfold evaluatePrdy; split <;> exact h.same rfl
  ready _ h := by unfold prdyOnReady evaluatePrdy; split <;> (try split) <;> exact h.same rfl
  slots _ _ _ h := h.same rfl
  ctx _ _ h := h.same rfl
  park p l hl h := by
    refine ⟨⟨h.sized.intake, h.sized.table, h.sized.tags, ?_, h.sized.records, h.sized.counters⟩, h.alert,
      ⟨h.settings.sync, h.settings.left, h.settings.right⟩, h.trim, h.offered⟩
    have := h.sized.park
    simp only [Part.onReaders_readers]
    omega
  table p t ht h := h.same (by simp [Part.watched, ht])
  returning _ _ h := h.same rfl
  issue _ _ h := h.same rfl
  count p c n h := inv_raiseBy p c n h
  record p s t b h := inv_queueRecord p s t b h
  flag p f h := inv_setFlag p f h
  post _ _ _ h := h.same rfl
  readerSettings _ _ _ _ h := h.same rfl
  window _ _ _ h := h.same rfl

theorem invMoves : FrameMoves Part.Inv Part.Inv := { invFree.moves with abandoned := fun _ _ _ h => h.same rfl }

/-! ### The passing of time and the changed mark -/

theorem tag_passTime (p : Part) (n t : Nat) (h : p.resetAsserted = false) :
    (passTime n p).tag t = (p.tag t).map fun e => { e with timer := e.timer.passes n } := by
  unfold passTime
  simp only [h, Bool.false_eq_true, if_false, Part.tag, List.getD_eq_getElem?_getD, List.getElem?_map]
  cases p.txn.tags[t]? <;> rfl

theorem inv_passTime (p : Part) (n : Nat) (h : p.Inv) : (passTime n p).Inv := by
  cases hr : p.resetAsserted
  · have ho : (passTime n p).OneOffered := by
      intro t
      rw [tag_passTime p n t hr]
      have h1 : (passTime n p).txn.output = p.txn.output := by unfold passTime; simp [hr]
      rw [h1, ← h.offered t]
      constructor
      · rintro ⟨te, h2, h3⟩
        obtain ⟨a, ha, rfl⟩ := Option.map_eq_some_iff.mp h2
        exact ⟨a, ha, h3⟩
      · rintro ⟨te, h2, h3⟩
        exact ⟨{ te with timer := te.timer.passes n }, by rw [h2]; rfl, h3⟩
    unfold passTime at ho ⊢
    simp only [hr, Bool.false_eq_true, if_false] at ho ⊢
    exact ⟨⟨h.sized.intake, h.sized.table, by simpa using h.sized.tags, by simpa using h.sized.park, h.sized.records,
      h.sized.counters⟩, h.alert, ⟨h.settings.sync, h.settings.left, h.settings.right⟩, h.trim, ho⟩
  · unfold passTime
    simpa [hr] using h

theorem inv_onExpiry (t : Timer) (f : Part → Part) (hf : ∀ p, p.Inv → (f p).Inv) (p : Part) (h : p.Inv) :
    (onExpiry t f p).Inv := by
  unfold onExpiry
  split
  · exact h
  · exact hf _ (inv_passTime _ _ h)

theorem inv_markChanged (a b : Part) (h : b.Inv) : (markChanged a b).Inv := h.same rfl

/-! ### Moves of the skew unit that leave the trim value alone -/

/-- The moves of a reader layer, and those of the skew unit that leave the trim value as it is. -/
structure SkewMoves (J I : Part → Prop) : Prop extends ReaderMoves J I where
  skew : ∀ p f, (f p.skew).trim = p.skew.trim → I p → I (p.onSkew f)

namespace SkewMoves

variable {J I : Part → Prop} (m : SkewMoves J I)
include m

theorem skewEvent (p : Part) (k : SkewEventKind) (h : I p) : I (skewEvent k p) := m.queueRecordNow _ _ h

theorem limitEvents (a b c d : Bool) (p : Part) (h : I p) : I (limitEvents a b c d p) := by
  unfold Machine.limitEvents
  cases a <;> cases b <;> cases c <;> cases d <;>
    first
    | exact h
    | exact m.flag _ _ (m.skewEvent _ _ h)
    | exact m.skewEvent _ _ h
    | exact m.flag _ _ (m.skewEvent _ _ (m.flag _ _ (m.skewEvent _ _ h)))
    | exact m.skewEvent _ _ (m.flag _ _ (m.skewEvent _ _ h))
    | exact m.skewEvent _ _ (m.skewEvent _ _ h)

theorem judgeLimits (p : Part) (h : I p) : I (judgeLimits p) := m.limitEvents _ _ _ _ _ (m.skew _ _ rfl h)

theorem judgeIfMeasured (p : Part) (h : I p) : I (judgeIfMeasured p) := by
  unfold Machine.judgeIfMeasured
  split
  · exact m.judgeLimits _ h
  · exact h

theorem startTrimWord (p : Part) (h : I p) : I (startTrimWord p) := m.skew _ _ rfl h

theorem tellSender (p : Part) (h : I p) : I (tellSender p) := by
  unfold Machine.tellSender
  split
  · exact m.startTrimWord _ h
  · exact m.skew _ _ rfl h
  · exact m.skew _ _ rfl h

theorem judgeSaturation (p : Part) (h : I p) : I (judgeSaturation p) := by
  unfold Machine.judgeSaturation
  dsimp only
  split
  · split
    · exact m.flag _ _ (m.skewEvent _ _ (m.skew _ _ rfl h))
    · exact m.skew _ _ rfl h
  · exact m.skew _ _ rfl h

end SkewMoves

theorem invSkewMoves : SkewMoves Part.Inv Part.Inv :=
  { invMoves.toReaderMoves with
    skew := fun p f hf h => h.same (by simp [Part.watched, hf]) }

/-! ### The invariant in parts: what a latch breaks and mends -/

/-- The invariant without ALERT_N, the SYNC settings and the trim value. -/
structure Part.Core (p : Part) : Prop where
  sized : p.Sized
  left : (p.eyeSettings .left).Sound
  right : (p.eyeSettings .right).Sound
  offered : p.OneOffered

theorem Part.Inv.core {p : Part} (h : p.Inv) : p.Core := ⟨h.sized, h.settings.left, h.settings.right, h.offered⟩

/-- The rest of the invariant. -/
theorem Part.Core.inv {p : Part} (h : p.Core) (ha : p.AlertDriven) (hs : syncInRange p.rig.sync = true)
    (ht : p.TrimBounded) : p.Inv := ⟨h.sized, ha, ⟨hs, h.left, h.right⟩, ht, h.offered⟩

/-- Everything the core reads. -/
def Part.coreWatched (p : Part) :=
  (p.req.intake.length, p.req.table.length, p.txn.tags, p.txn.output.map MOut.tag, p.readers.parkList.length,
    p.report.queue.length, p.report.counters.length, p.rig.eye)

theorem Part.Core.same {p q : Part} (h : p.Core) (e : q.coreWatched = p.coreWatched) : q.Core := by
  simp only [Part.coreWatched, Prod.mk.injEq] at e
  obtain ⟨e1, e2, e3, e4, e5, e6, e7, e12⟩ := e
  refine ⟨⟨?_, ?_, ?_, ?_, ?_, ?_⟩, ?_, ?_, ?_⟩
  · rw [e1]; exact h.sized.intake
  · rw [e2]; exact h.sized.table
  · rw [e3]; exact h.sized.tags
  · rw [e5]; exact h.sized.park
  · rw [e6]; exact h.sized.records
  · rw [e7]; exact h.sized.counters
  · unfold Part.eyeSettings; rw [e12]; exact h.left
  · unfold Part.eyeSettings; rw [e12]; exact h.right
  · have ho := h.offered
    rw [OneOffered_iff] at ho ⊢
    unfold Part.tag at ho ⊢
    rw [e3, e4]
    exact ho

theorem core_changeFlags (p : Part) (v : BitVec 11) (h : p.Core) : (changeFlags v p).Core := by
  unfold changeFlags
  split
  · exact h
  · exact h.same rfl

theorem coreFree : FreeMoves Part.Core where
  pairs _ _ _ _ h := h.same rfl
  prdy _ h := by unfold evaluatePrdy; split <;> exact h.same rfl
  ready _ h := by unfold prdyOnReady evaluatePrdy; split <;> (try split) <;> exact h.same rfl
  slots _ _ _ h := h.same rfl
  ctx _ _ h := h.same rfl
  park p l hl h := by
    refine ⟨⟨h.sized.intake, h.sized.table, h.sized.tags, ?_, h.sized.records, h.sized.counters⟩, h.left, h.right, h.offered⟩
    have := h.sized.park
    simp only [Part.onReaders_readers]
    omega
  table p t ht h := h.same (by simp [Part.coreWatched, ht])
  returning _ _ h := h.same rfl
  issue _ _ h := h.same rfl
  count p c n h := h.same (by simp [Part.coreWatched, raiseBy])
  record p s t b h := by
    unfold queueRecord
    split
    · rename_i hl
      refine ⟨⟨h.sized.intake, h.sized.table, h.sized.tags, h.sized.park, ?_, h.sized.counters⟩, h.left, h.right, h.offered⟩
      simp [Config.reportDepth] at hl ⊢
      omega
    · exact core_changeFlags _ _ (h.same (by simp [Part.coreWatched, raise, raiseBy]))
  flag p f h := core_changeFlags p _ h
  post _ _ _ h := h.same rfl
  readerSettings _ _ _ _ h := h.same rfl
  window _ _ _ h := h.same rfl

theorem coreMoves : SkewMoves Part.Core Part.Core :=
  { (coreFree).moves with skew := fun _ _ _ h => h.same rfl }

theorem alert_changeFlags (p : Part) (v : BitVec 11) (h : p.AlertDriven) : (changeFlags v p).AlertDriven := by
  unfold changeFlags
  split
  · exact h
  · rfl

theorem alertFree : FreeMoves Part.AlertDriven where
  pairs _ _ _ _ h := h
  prdy _ h := by unfold evaluatePrdy; split <;> exact h
  ready _ h := by unfold prdyOnReady evaluatePrdy; split <;> (try split) <;> exact h
  slots _ _ _ h := h
  ctx _ _ h := h
  park _ _ _ h := h
  table _ _ _ h := h
  returning _ _ h := h
  issue _ _ h := h
  count _ _ _ h := h
  record p s t b h := by
    unfold queueRecord
    split
    · exact h
    · exact alert_changeFlags _ _ h
  flag p f h := alert_changeFlags p _ h
  post _ _ _ h := h
  readerSettings _ _ _ _ h := h
  window _ _ _ h := h

theorem alertMoves : SkewMoves Part.AlertDriven Part.AlertDriven :=
  { (alertFree).moves with skew := fun _ _ _ h => h }

/-- The SYNC settings and the trim value stay what they are. -/
def trimAs (y : SyncSettings) (t : Int) (p : Part) : Prop := p.rig.sync = y ∧ p.skew.trim = t

theorem trim_changeFlags (y : SyncSettings) (t : Int) (p : Part) (v : BitVec 11) (h : trimAs y t p) :
    trimAs y t (changeFlags v p) := by
  unfold changeFlags
  split <;> exact h

theorem trimFree (y : SyncSettings) (t : Int) : FreeMoves (trimAs y t) where
  pairs _ _ _ _ h := h
  prdy _ h := by unfold evaluatePrdy; split <;> exact h
  ready _ h := by unfold prdyOnReady evaluatePrdy; split <;> (try split) <;> exact h
  slots _ _ _ h := h
  ctx _ _ h := h
  park _ _ _ h := h
  table _ _ _ h := h
  returning _ _ h := h
  issue _ _ h := h
  count _ _ _ h := h
  record p s tk b h := by
    unfold queueRecord
    split
    · exact h
    · exact trim_changeFlags _ _ _ _ h
  flag p f h := trim_changeFlags _ _ p _ h
  post _ _ _ h := h
  readerSettings _ _ _ _ h := h
  window _ _ _ h := h

theorem trimMoves (y : SyncSettings) (t : Int) : SkewMoves (trimAs y t) (trimAs y t) :=
  { (trimFree y t).moves with skew := fun _ _ hf h => ⟨h.1, hf.trans h.2⟩ }

/-! ### Latches -/

theorem inv_onStream (p : Part) (x : Eye) (f : StreamCtx → StreamCtx) (h : p.Inv) : (p.onStream x f).Inv := h.same rfl

theorem inv_onSync (p : Part) (f : SyncUnit → SyncUnit) (h : p.Inv) : (p.onSync f).Inv := h.same rfl

theorem inv_onAcq (p : Part) (x : Eye) (f : AcqCtx → AcqCtx) (h : p.Inv) : (p.onAcq x f).Inv := h.same rfl

theorem inv_restartLossTimer (x : Eye) (p : Part) (h : p.Inv) : (restartLossTimer x p).Inv := h.same rfl

theorem inv_handOver (x : Eye) (s : Stamp) (o : PulseOutcome) (p : Part) (h : p.Inv) : (handOver x s o p).Inv := h.same rfl

theorem inv_tell (p : Part) (x : Eye) (n : StreamNotice) (k : SkewNotice) (h : p.Inv) :
    ((p.tellStream x n).tellSkew x k).Inv := h.same rfl

/-- A take change: PRDY is evaluated at its end. -/
theorem SkewMoves.takeChange {J I : Part → Prop} (m : SkewMoves J I) (hs : ∀ p x f, J p → J (p.onStream x f)) (old : Word)
    (p : Part) (h : J p) : I (takeChange old p) := by
  unfold Machine.takeChange
  exact m.queueRecordNow _ _ (m.settle _ (m.free.ctx _ _ (hs _ _ _ (hs _ _ _ (m.free.pairs _ _ _ _
    (m.free.moves.evaluateRetirement _ (m.free.pairs _ _ _ _ h)))))))

/-- A property that rests on neither PRDY nor the ring index nor the due mark passes through a GLOBAL latch, but for ALERT_N. -/
theorem SkewMoves.globalOnLatch {I : Part → Prop} (m : SkewMoves I I) (hs : ∀ p x f, I p → I (p.onStream x f))
    (hp : ∀ p, I p → I (p.onPairs fun u => { u with prdy := false, prdyPulse := .stopped }))
    (hr : ∀ p, I p → I (p.onReport fun u => { u with ringIndex := 0, due := true })) (ha : ∀ p, I p → I (evaluateAlert p))
    (old : GlobalSettings) (b : Bool) (p : Part) (h : I p) : I (globalOnLatch old b p) := by
  unfold Machine.globalOnLatch
  refine ha _ ?_
  unfold reportOnLatch
  have h0 : I (if b = true ∧ old.take ≠ p.take then Machine.takeChange old.take p else p) := by
    split
    · exact m.takeChange hs _ _ h
    · exact h
  have h1 : I (prdyOnLatch old p.rig.global (if b = true ∧ old.take ≠ p.take then Machine.takeChange old.take p else p)) := by
    unfold prdyOnLatch
    split
    · exact m.evaluatePrdy _ h0
    · exact m.evaluatePrdy _ (hp _ h0)
  split
  · exact h1
  · exact hr _ h1

theorem inv_latchGlobal (b : Bool) (p : Part) (h : p.Inv) : (latchGlobal b p).Inv := by
  unfold latchGlobal
  split
  · exact invMoves.rejectSection _ _ _ _ h
  · rename_i g hg
    refine Part.Core.inv ?_ rfl ?_ ?_
    · exact coreMoves.globalOnLatch (fun _ _ _ h => h.same rfl) (fun _ h => h.same rfl) (fun _ h => h.same rfl)
        (fun _ h => h.same rfl) _ _ _
        (h.core.same rfl)
    all_goals
      have ht := (trimMoves p.rig.sync p.skew.trim).globalOnLatch (fun _ _ _ h => h) (fun _ h => h) (fun _ h => h)
        (fun _ h => h)
        p.rig.global b
        ((p.onRig fun u => { u with global := latchedGlobal p g, windowChange := latchedWindow p g }).setPost .global .unposted)
        ⟨rfl, rfl⟩
    · rw [ht.1]; exact h.settings.sync
    · unfold Part.TrimBounded; rw [ht.1, ht.2]; exact h.trim

theorem syncInRange_trim (y : SyncSettings) (h : syncInRange y = true) :
    y.trimMin ≤ y.trimMax ∧ y.trimMin ≤ y.trimStart ∧ y.trimStart ≤ y.trimMax := by
  simp [syncInRange] at h
  tauto

theorem parseSync_inRange (ws : List Word) (y : SyncSettings) (h : parseSync ws = some y) : syncInRange y = true := by
  unfold parseSync at h
  split at h
  · split at h
    · dsimp only at h
      split at h
      · rename_i hc
        cases h
        exact hc.2
      · cases h
    · cases h
  · cases h

theorem clampTrim_bounds (x a b : Int) (h : a ≤ b) : a ≤ clampTrim x a b ∧ clampTrim x a b ≤ b := by
  unfold clampTrim
  split
  · omega
  · split <;> omega

/-- A property that survives any move of the skew unit passes through a telling of the sender. -/
theorem trim_moveTrim (t : Int) (p : Part) : (moveTrim t p).skew.trim = t ∧ (moveTrim t p).rig.sync = p.rig.sync := by
  unfold moveTrim
  split
  · rename_i h
    exact ⟨h.symm, rfl⟩
  · have h := (trimMoves p.rig.sync t).tellSender (p.onSkew fun u => { u with trim := t }) ⟨rfl, rfl⟩
    exact ⟨h.2, h.1⟩

theorem core_moveTrim (t : Int) (p : Part) (h : p.Core) : (moveTrim t p).Core := by
  unfold moveTrim
  split
  · exact h
  · exact coreMoves.tellSender _ (h.same rfl)

theorem alert_moveTrim (t : Int) (p : Part) (h : p.AlertDriven) : (moveTrim t p).AlertDriven := by
  unfold moveTrim
  split
  · exact h
  · exact alertMoves.tellSender _ h

theorem inv_moveTrim (t : Int) (p : Part) (h : p.Inv) (hb : p.rig.sync.trimMin ≤ t ∧ t ≤ p.rig.sync.trimMax) :
    (moveTrim t p).Inv := by
  have ht := trim_moveTrim t p
  refine (core_moveTrim t p h.core).inv (alert_moveTrim t p h.alert) ?_ ?_
  · rw [ht.2]; exact h.settings.sync
  · unfold Part.TrimBounded; rw [ht.1, ht.2]; exact hb

theorem SkewMoves.rejudge {J I : Part → Prop} (m : SkewMoves J I) (old : SyncSettings) (p : Part) (h : I p) :
    I (rejudge old p) := by
  unfold Machine.rejudge
  refine m.judgeIfMeasured _ ?_
  split
  · exact h
  · exact m.skew _ _ rfl h

theorem latchedTrim_bounds (old y : SyncSettings) (t : Int) (h : syncInRange y = true) :
    y.trimMin ≤ latchedTrim old y t ∧ latchedTrim old y t ≤ y.trimMax := by
  have hb := syncInRange_trim y h
  unfold latchedTrim
  split
  · exact clampTrim_bounds _ _ _ hb.1
  · exact hb.2

/-- A SYNC latch mends the trim bound that the new settings may break. -/
theorem inv_skewOnLatch (old : SyncSettings) (p : Part) (hc : p.Core) (ha : p.AlertDriven)
    (hs : syncInRange p.rig.sync = true) : (skewOnLatch old p).Inv ∧ (skewOnLoadLatch old p).Inv := by
  have k1 := coreMoves.rejudge old p hc
  have k2 := alertMoves.rejudge old p ha
  have k3 : (rejudge old p).rig.sync = p.rig.sync := ((trimMoves p.rig.sync p.skew.trim).rejudge old p ⟨rfl, rfl⟩).1
  have hb := latchedTrim_bounds old p.rig.sync (rejudge old p).skew.trim hs
  have hstay : trimStays old p.rig.sync (rejudge old p).skew.trim = true → (rejudge old p).Inv := by
    intro h
    simp only [trimStays, decide_eq_true_eq] at h
    refine k1.inv k2 (by rw [k3]; exact hs) ?_
    have hcl := clampTrim_bounds (rejudge old p).skew.trim _ _ (syncInRange_trim _ hs).1
    rw [h.2] at hcl
    unfold Part.TrimBounded
    rw [k3]
    exact hcl
  have k4 : (clearSaturation (rejudge old p)).rig.sync = p.rig.sync := k3
  constructor
  · unfold skewOnLatch
    dsimp only
    split
    · exact hstay (by assumption)
    · have ht := trim_moveTrim (latchedTrim old p.rig.sync (rejudge old p).skew.trim) (clearSaturation (rejudge old p))
      have hc2 : (clearSaturation (rejudge old p)).Core := k1.same rfl
      have ha2 : (clearSaturation (rejudge old p)).AlertDriven := k2
      refine (core_moveTrim _ _ hc2).inv (alert_moveTrim _ _ ha2) ?_ ?_
      · rw [ht.2, k4]; exact hs
      · unfold Part.TrimBounded; rw [ht.1, ht.2, k4]; exact hb
  · unfold skewOnLoadLatch
    dsimp only
    split
    · exact hstay (by assumption)
    · refine Part.Core.inv (Part.Core.same (p := rejudge old p) k1 rfl) k2 ?_ ?_
      · simpa [k4] using hs
      · simpa [Part.TrimBounded, k4] using hb

theorem inv_latchSync (b : Bool) (p : Part) (h : p.Inv) : (latchSync b p).Inv := by
  unfold latchSync
  split
  · exact invMoves.rejectSection _ _ _ _ h
  · rename_i y hy
    have hr : syncInRange y = true := by
      unfold validateSync at hy
      split at hy
      · cases hy
      · rename_i z hz
        cases hy
        exact parseSync_inRange _ _ hz
    have hi := inv_skewOnLatch p.rig.sync ((p.onRig fun u => { u with sync := y }).setPost .sync .unposted)
      (h.core.same rfl) h.alert hr
    dsimp only
    split
    · exact hi.2
    · exact hi.1

end Sys2Proof.Machine
end

