-- ==== Sys2Proof/Laws/InvariantSteps.lean ====
section
/-! SUPPORT. The work of every command keeps the invariant of the part, block by block. -/

namespace Sys2Proof.Machine

/-! ### EYE latches and capture streams -/

theorem parseEye_inRange (ws : List Word) (e : EyeSettings) (h : parseEye ws = some e) : geometryInRange e.geom = true := by
  unfold parseEye at h
  split at h
  · split at h
    · dsimp only at h
      split at h
      · rename_i hc
        cases h
        exact hc.2.1
      · cases h
    · cases h
  · cases h

theorem validateEye_sound (p : Part) (x : Eye) (ws : List Word) (e : EyeSettings) (h : validateEye p x ws = .ok e) :
    e.Sound := by
  unfold validateEye at h
  split at h
  · cases h
  · rename_i v hv
    have hr := parseEye_inRange _ _ hv
    split at h
    · cases h
    · rename_i hg
      split at h
      · cases h
      · rename_i hb
        split at h
        · cases h
        · split at h
          · cases h
          · cases h
            exact ⟨hr, by simpa using hg, by simpa using hb⟩

theorem inv_putEye (x : Eye) (e : EyeSettings) (he : e.Sound) (p : Part) (h : p.Inv) : (putEye x e p).Inv := by
  have h1 : ((p.onRig fun u => { u with eye := u.eye.set x e }).setPost (.eye x) .unposted).Inv := by
    refine ⟨⟨h.sized.intake, h.sized.table, h.sized.tags, h.sized.park, h.sized.records, h.sized.counters⟩, h.alert, ?_,
      h.trim, h.offered⟩
    have hl := h.settings.left
    have hr := h.settings.right
    cases x
    · exact ⟨h.settings.sync, he, hr⟩
    · exact ⟨h.settings.sync, hl, he⟩
  unfold putEye
  dsimp only
  split
  · exact h1
  · exact invMoves.slots _ _ _ h1

theorem inv_latchEye (x : Eye) (p : Part) (h : p.Inv) : (latchEye x p).1.Inv := by
  unfold latchEye
  split
  · exact invMoves.rejectSection _ _ _ _ h
  · rename_i e he
    exact inv_putEye x e (validateEye_sound _ _ _ _ he) p h

theorem inv_latchEyeIdle (x : Eye) (p : Part) (h : p.Inv) : (latchEyeIdle x p).Inv := by
  have h1 := inv_latchEye x p h
  unfold latchEyeIdle
  split <;> rename_i heq <;> rw [heq] at h1
  · exact h1
  · exact inv_onStream _ _ _ h1

theorem inv_settleCursor (x : Eye) (i c : Nat) (p : Part) (h : p.Inv) : (settleCursor x i c p).Inv := by
  unfold settleCursor
  dsimp only
  split
  · exact inv_onStream _ _ _ (invMoves.endReached _ _ _ (inv_onStream _ _ _ h))
  · exact inv_onStream _ _ _ h

theorem inv_discardWrite (r : DiscardReason) (e : Nat) (p : Part) (h : p.Inv) : (discardWrite r e p).Inv :=
  invMoves.raise _ _ (invMoves.answerAtOnce _ _ _ h)

theorem inv_forwardWrite (x : Eye) (i : Nat) (w : CaptureWrite) (p : Part) (h : p.Inv) : (forwardWrite x i w p).Inv := by
  have h1 : (countOverrun (p.stream x).geom w (raiseBy .clippedBytes (clippedBytes (cutOf p x i w)) p)).Inv := by
    unfold countOverrun
    split
    · exact invMoves.raise _ _ (inv_raiseBy _ _ _ h)
    · exact inv_raiseBy _ _ _ h
  unfold forwardWrite
  dsimp only
  split
  · exact invMoves.answerAtOnce _ _ _ h1
  · exact invMoves.handOn _ _ _ _ _ (invMoves.onSlot _ _ _ _ h1)

theorem inv_judgeOpen (x : Eye) (i : Nat) (w : CaptureWrite) (p : Part) (h : p.Inv) : (judgeOpen x i w p).Inv := by
  unfold judgeOpen
  dsimp only
  split
  · exact inv_settleCursor _ _ _ _ (invMoves.raise _ _ (invMoves.answerAtOnce _ _ _ (invMoves.onSlot _ _ _ _ h)))
  · split
    · exact inv_settleCursor _ _ _ _ (inv_discardWrite _ _ _ (invMoves.onSlot _ _ _ _ h))
    · exact inv_settleCursor _ _ _ _ (inv_forwardWrite _ _ _ _ (invMoves.onSlot _ _ _ _ h))

theorem inv_streamWrite (x : Eye) (w : CaptureWrite) (p : Part) (h : p.Inv) : (streamWrite x w p).Inv := by
  unfold streamWrite
  split
  · exact inv_judgeOpen _ _ _ _ h
  all_goals exact inv_discardWrite _ _ _ h

theorem inv_dropOpenFrame (x : Eye) (r : LostReason) (p : Part) (h : p.Inv) : (dropOpenFrame x r p).Inv := by
  unfold dropOpenFrame
  split
  · exact inv_onStream _ _ _ (invMoves.abandon _ _ _ _ h)
  · exact h

theorem inv_openFrame (x : Eye) (stamp : Stamp) (p : Part) (h : p.Inv) : (openFrame x stamp p).Inv := by
  have h1 := invMoves.requestSlot (numberFrame x p) x ((numberFrame x p).stream x).frameNumber stamp
    ((numberFrame x p).stream x).geom (inv_onStream _ _ _ h)
  unfold openFrame placeFrame
  dsimp only
  split
  · exact inv_onStream _ _ _ h1
  · exact inv_onStream _ _ _ h1

theorem inv_frameStartLatch (x : Eye) (p : Part) (h : p.Inv) : (frameStartLatch x p).1.Inv := by
  have h1 := inv_latchEye x p h
  unfold frameStartLatch
  split
  · exact h1
  · exact h

theorem inv_takeFrameStart (x : Eye) (stamp : Stamp) (p : Part) (h : p.Inv) : (takeFrameStart x stamp p).Inv := by
  have h1 := inv_dropOpenFrame x .truncated _ (inv_frameStartLatch x p h)
  unfold takeFrameStart
  dsimp only
  split
  · exact inv_onStream _ _ _ h1
  · exact inv_openFrame _ _ _ h1

theorem inv_frameStart (x : Eye) (p : Part) (h : p.Inv) : (frameStart x p).Inv := by
  unfold frameStart
  split
  · split
    · exact inv_onSync _ _ h
    · exact inv_takeFrameStart _ _ _ (inv_onSync _ _ h)
  · exact h

theorem inv_lockGained (x : Eye) (p : Part) (h : p.Inv) : (lockGained x p).Inv := by
  unfold lockGained
  split
  · exact inv_onStream _ _ _ (inv_onSync _ _ h)
  · exact h

theorem inv_streamDeparture (x : Eye) (p : Part) (h : p.Inv) : (streamDeparture x p).Inv := by
  unfold streamDeparture
  split
  · exact h
  · have h1 := inv_onStream (dropOpenFrame x .syncLost p) x (fun c => { c with state := .waitingSync, completed := false })
      (inv_dropOpenFrame _ _ _ h)
    unfold enterWaitingSync
    dsimp only
    split
    · exact inv_latchEyeIdle _ _ h1
    · exact h1

theorem inv_lockLost (x : Eye) (p : Part) (h : p.Inv) : (lockLost x p).Inv := by
  unfold lockLost
  split
  · exact inv_streamDeparture _ _ (inv_onSync _ _ h)
  · exact h

/-! ### The skew unit -/

theorem inv_onSkew (p : Part) (f : SkewUnit → SkewUnit) (hf : (f p.skew).trim = p.skew.trim) (h : p.Inv) : (p.onSkew f).Inv :=
  invSkewMoves.skew p f hf h

theorem inv_trimUpdate (p : Part) (h : p.Inv) : (trimUpdate p).Inv :=
  invSkewMoves.judgeSaturation _ (inv_moveTrim _ _ h (clampTrim_bounds _ _ _ (syncInRange_trim _ h.settings.sync).1))

theorem inv_takeSample (d : Int) (p : Part) (h : p.Inv) : (takeSample d p).Inv := by
  have h1 := invSkewMoves.judgeLimits _ (inv_onSkew p (fun u =>
    { u with d := some d, f := filtered u.seed u.f d p.rig.sync.filterShift, seed := false, sampleCount := u.sampleCount + 1 })
    rfl h)
  unfold takeSample
  dsimp only
  split
  · exact inv_onSkew _ _ rfl (inv_trimUpdate _ h1)
  · exact h1

theorem inv_skewPulseHandover (x : Eye) (p : Part) (h : p.Inv) : (skewPulseHandover x p).Inv := by
  unfold skewPulseHandover
  split
  · have h1 : (dropSkewNotice x p).Inv := inv_onSync _ _ h
    unfold takePulse
    split
    · unfold acceptedPulse
      split
      · exact inv_takeSample _ _ (inv_onSkew _ _ rfl h1)
      · exact inv_onSkew _ _ rfl h1
    · exact h1
    · exact h1
  · exact h

theorem inv_skewLockNotice (x : Eye) (p : Part) (h : p.Inv) : (skewLockNotice x p).Inv := by
  unfold skewLockNotice
  split
  · exact inv_onSkew _ _ rfl (inv_onSync _ _ h)
  · exact h

theorem inv_skewDepartureNotice (x : Eye) (p : Part) (h : p.Inv) : (skewDepartureNotice x p).Inv := by
  unfold skewDepartureNotice
  split
  · exact inv_onSkew _ _ rfl (inv_onSync _ _ h)
  · exact h

theorem inv_trimWordEnd (p : Part) (h : p.Inv) : (trimWordEnd p).Inv := by
  unfold trimWordEnd
  split
  · exact inv_onExpiry _ _ (fun _ hp => inv_onSkew _ _ rfl hp) _ h
  · exact h
  · exact h

theorem inv_endTrimGap (p : Part) (h : p.Inv) : (endTrimGap p).Inv := by
  have h1 : (p.onSkew fun u => { u with sender := { u.sender with state := .idle, pending := false, timer := .stopped } }).Inv :=
    inv_onSkew _ _ rfl h
  unfold endTrimGap
  dsimp only
  split
  · exact invSkewMoves.startTrimWord _ h1
  · exact h1

theorem inv_trimGapEnd (p : Part) (h : p.Inv) : (trimGapEnd p).Inv := by
  unfold trimGapEnd
  split
  · exact inv_onExpiry _ _ inv_endTrimGap _ h
  · exact h
  · exact h

/-! ### The rig unit -/

theorem inv_onSection (p : Part) (k : Section) (f : SectionShadow → SectionShadow) (h : p.Inv) : (p.onSection k f).Inv :=
  h.same rfl

theorem inv_onEverySection (p : Part) (f : Section → SectionShadow → SectionShadow) (h : p.Inv) : (p.onEverySection f).Inv :=
  ReaderMoves.foldl _ (fun _ _ hp => inv_onSection _ _ _ hp) _ _ h

theorem inv_latchIfDue (k : Section) (p : Part) (h : p.Inv) : (latchIfDue k p).Inv := by
  unfold latchIfDue
  split
  · exact inv_latchGlobal _ _ h
  · exact inv_latchSync _ _ h
  · split
    · exact inv_latchEyeIdle _ _ h
    · exact h
  · split
    · exact invMoves.latchReader _ _ h
    · exact h

theorem inv_treatSection (o n : Nat) (p : Part) (k : Section) (h : p.Inv) : (treatSection o n p k).Inv := by
  unfold treatSection
  split
  · unfold postSection
    split
    · exact inv_latchIfDue _ _ (invMoves.post _ _ _ h)
    · exact invMoves.rejectSection _ _ _ _ h
  · split
    · exact invMoves.post _ _ _ h
    · exact h

theorem inv_rigUnitWrite (o : Nat) (data : List Byte) (p : Part) (h : p.Inv) : (rigUnitWrite o data p).Inv := by
  have h1 : (treatSections o data.length (writeShadow o data p)).Inv := by
    have h0 := inv_onEverySection p (SectionShadow.write (p.rig.partState == .loading) o data) h
    unfold treatSections
    split
    · exact h0
    · exact ReaderMoves.foldl _ (fun _ _ hp => inv_treatSection _ _ _ _ hp) _ _ h0
  unfold rigUnitWrite clearEvents
  split
  · exact inv_changeFlags _ _ h1
  · exact h1

theorem inv_offerInjected (o : Injector) (k : Kind) (a n : Nat) (d : List Byte) (p : Part) (h : p.Inv) :
    (offerInjected o k a n d p).Inv := h.same rfl

theorem inv_offerLoadRead (k : Nat) (p : Part) (h : p.Inv) : (offerLoadRead k p).Inv := h.same rfl

theorem inv_latchAtLoadEnd (k : Section) (p : Part) (h : p.Inv) : (latchAtLoadEnd k p).Inv := by
  unfold latchAtLoadEnd
  split
  · exact inv_latchGlobal _ _ h
  · exact inv_latchSync _ _ h
  · exact inv_latchEyeIdle _ _ h
  · exact invMoves.latchReader _ _ h

theorem inv_loadSection (p : Part) (k : Section) (h : p.Inv) : (loadSection p k).Inv := by
  unfold loadSection
  split
  · exact invMoves.rejectSection _ _ _ _ h
  · split
    · exact inv_latchAtLoadEnd _ _ h
    · exact invMoves.rejectSection _ _ _ _ h

theorem inv_sendTrimStart (p : Part) (h : p.Inv) : (sendTrimStart p).Inv := by
  have hb := syncInRange_trim _ h.settings.sync
  refine invSkewMoves.startTrimWord _ ?_
  exact ⟨⟨h.sized.intake, h.sized.table, h.sized.tags, h.sized.park, h.sized.records, h.sized.counters⟩, h.alert,
    ⟨h.settings.sync, h.settings.left, h.settings.right⟩, hb.2, h.offered⟩

theorem inv_becomeRunning (p : Part) (h : p.Inv) : (becomeRunning p).Inv := h.same rfl

theorem inv_endLoad (p : Part) (h : p.Inv) : (endLoad p).Inv := by
  have h1 : (Section.all.foldl loadSection p).Inv := ReaderMoves.foldl loadSection (fun q k hp => inv_loadSection q k hp) _ p h
  exact inv_becomeRunning _ (inv_sendTrimStart _ (inv_onEverySection _ (fun _ => SectionShadow.clearMarks) h1))

theorem inv_loadReadResult (r : MResult) (p : Part) (h : p.Inv) : (loadReadResult r p).Inv := by
  have h1 := inv_onEverySection p (SectionShadow.load (p.rig.loadIndex * Config.loadReadBytes) r) h
  unfold loadReadResult
  dsimp only
  split
  · exact inv_offerLoadRead _ _ h1
  · exact inv_endLoad _ h1

/-! ### The request path -/

theorem inv_passOn (e : Nat) (q : Request) (p : Part) (h : p.Inv) : (passOn e q p).Inv := invMoves.handOn _ _ _ _ _ h

theorem inv_toOwner (e : Nat) (q : Request) (c : ReqClass) (o : Nat) (p : Part) (h : p.Inv) : (toOwner e q c o p).Inv := by
  unfold toOwner
  split
  · exact inv_streamWrite _ _ _ h
  · exact invMoves.raise _ _ (invMoves.answerAtOnce _ _ _ h)
  · exact invMoves.readerUnitRead _ _ h
  · exact inv_passOn _ _ _ (inv_rigUnitWrite _ _ _ h)
  · exact inv_passOn _ _ _ h
  · exact inv_passOn _ _ _ h
  · exact h
  · exact h

theorem inv_refuseRequest (e : Nat) (q : Request) (p : Part) (h : p.Inv) : (refuseRequest e q p).Inv :=
  invMoves.raise _ _ (invMoves.answerAtOnce _ _ _ (invMoves.setEntry _ _ _ h))

theorem inv_handleRequest (e : Nat) (q : Request) (p : Part) (h : p.Inv) : (handleRequest e q p).Inv := by
  unfold handleRequest
  split
  · exact inv_toOwner _ _ _ _ _ (invMoves.setEntry _ _ _ h)
  · exact inv_refuseRequest _ _ _ h
  · exact inv_refuseRequest _ _ _ h

theorem inv_popIntake (p : Part) (h : p.Inv) : (popIntake p).Inv := by
  refine ⟨⟨?_, h.sized.table, h.sized.tags, h.sized.park, h.sized.records, h.sized.counters⟩, h.alert,
    ⟨h.settings.sync, h.settings.left, h.settings.right⟩, h.trim, h.offered⟩
  have := h.sized.intake
  simp [popIntake] at this ⊢
  omega

theorem inv_handleHead (row : Part → Request → Bool) (p : Part) (h : p.Inv) : (handleHead row p).Inv := by
  unfold handleHead
  split
  · split
    · exact inv_handleRequest _ _ _ (inv_popIntake _ h)
    · exact h
  · exact h

theorem inv_acceptRequest (q : Request) (p : Part) (h : p.Inv) : (acceptRequest q p).Inv := by
  unfold acceptRequest
  split
  · rename_i hl
    refine ⟨⟨?_, h.sized.table, h.sized.tags, h.sized.park, h.sized.records, h.sized.counters⟩, h.alert,
      ⟨h.settings.sync, h.settings.left, h.settings.right⟩, h.trim, h.offered⟩
    simp [Config.intakeDepth] at hl ⊢
    omega
  · exact h

theorem inv_acceptResponse (p : Part) (h : p.Inv) : (acceptResponse p).Inv := by
  unfold acceptResponse
  split
  · exact invMoves.returning _ _ (invMoves.setEntry _ _ _ h)
  · exact h

/-! ### The sync unit -/

theorem inv_departLocked (x : Eye) (c : LossCause) (a : Option Stamp) (r : Option Int) (s : Stamp) (p : Part) (h : p.Inv) :
    (departLocked x c a r s p).Inv := inv_queueRecord _ _ _ _ (inv_setFlag _ _ (inv_onSync _ _ (inv_onSync _ _ h)))

theorem inv_pulseInAbsent (x : Eye) (s : Stamp) (p : Part) (h : p.Inv) : (pulseInAbsent x s p).Inv :=
  inv_handOver _ _ _ _ (inv_restartLossTimer _ _ (inv_onAcq _ _ _ h))

theorem inv_pulseInAcquiring (x : Eye) (l s : Stamp) (p : Part) (h : p.Inv) : (pulseInAcquiring x l s p).Inv := by
  have h1 := inv_restartLossTimer x p h
  unfold pulseInAcquiring
  dsimp only
  refine inv_handOver _ _ _ _ ?_
  exact keeps_ite (I := Part.Inv) (inv_tell _ _ _ _ (inv_onAcq _ _ _ h1)) (inv_onAcq _ _ _ h1)

theorem inv_acceptPulse (x : Eye) (s : Stamp) (d : Int) (p : Part) (h : p.Inv) : (acceptPulse x s d p).Inv := h.same rfl

theorem inv_periodFault (x : Eye) (s : Stamp) (p : Part) (h : p.Inv) : (periodFault x s p).Inv := by
  have h1 := inv_raiseBy _ (.periodFaults x) 1 (inv_restartLossTimer x p h)
  unfold periodFault
  refine inv_handOver _ _ _ _ ?_
  split
  · exact inv_onAcq _ _ _ h1
  · exact inv_departLocked _ _ _ _ _ _ (inv_onAcq _ _ _ (inv_onAcq _ _ _ h1))

theorem inv_judgePulse (x : Eye) (s : Stamp) (p : Part) (h : p.Inv) : (judgePulse x s p).Inv := by
  unfold judgePulse
  dsimp only
  split
  · exact inv_pulseInAbsent _ _ _ h
  · split
    · exact inv_pulseInAcquiring _ _ _ _ h
    · exact inv_pulseInAbsent _ _ _ h
  · split
    · unfold pulseInLocked
      dsimp only
      split
      · exact inv_acceptPulse _ _ _ _ h
      · exact inv_periodFault _ _ _ h
    · exact inv_pulseInAbsent _ _ _ h

theorem inv_fsyncPulse (x : Eye) (t : Stamp) (p : Part) (h : p.Inv) : (fsyncPulse x t p).Inv := by
  unfold fsyncPulse
  split
  · exact h
  · exact inv_judgePulse _ _ _ (inv_onSync _ _ (inv_passTime _ _ h))

theorem inv_syncLossTimerExpiry (x : Eye) (p : Part) (h : p.Inv) : (syncLossTimerExpiry x p).Inv := by
  refine inv_onExpiry _ _ (fun q hq => ?_) _ h
  unfold loseSync
  dsimp only
  split
  · exact inv_departLocked _ _ _ _ _ _ (inv_onSync _ _ hq)
  · exact inv_onSync _ _ hq

/-! ### The report unit -/

theorem inv_statusWriteOffer (p : Part) (h : p.Inv) : (statusWriteOffer p).Inv := by
  unfold statusWriteOffer
  split
  · exact h.same rfl
  · exact h

theorem inv_recordWriteOffer (p : Part) (h : p.Inv) : (recordWriteOffer p).Inv := by
  unfold recordWriteOffer
  split
  · split
    · exact h.same rfl
    · exact h
  · exact h

theorem inv_statusIntervalExpiry (p : Part) (h : p.Inv) : (statusIntervalExpiry p).Inv :=
  inv_onExpiry _ restartInterval (fun _ hq => hq.same rfl) _ h

theorem inv_recordResult (r : MResult) (p : Part) (h : p.Inv) : (recordResult r p).Inv := by
  refine inv_raiseBy _ _ _ ?_
  refine ⟨⟨h.sized.intake, h.sized.table, h.sized.tags, h.sized.park, ?_, h.sized.counters⟩, h.alert,
    ⟨h.settings.sync, h.settings.left, h.settings.right⟩, h.trim, h.offered⟩
  have := h.sized.records
  simp at this ⊢
  omega

/-! ### The transaction unit -/

theorem firstIndex_lt {α : Type} (test : α → Bool) (l : List α) (i : Nat) (h : firstIndex test l = some i) :
    i < l.length ∧ ∃ a, l[i]? = some a ∧ test a = true := by
  induction l generalizing i with
  | nil => cases h
  | cons a as ih =>
    unfold firstIndex at h
    split at h
    · cases h
      exact ⟨by simp, a, by simp, by assumption⟩
    · obtain ⟨j, hj, rfl⟩ := Option.map_eq_some_iff.mp h
      obtain ⟨h1, b, h2, h3⟩ := ih j hj
      exact ⟨by simp; omega, b, by simpa using h2, h3⟩

theorem inv_deliverResult (te : TagEntry) (r : MResult) (p : Part) (h : p.Inv) : (deliverResult te r p).Inv := by
  unfold deliverResult
  split
  · exact invMoves.slotResult _ _ _ (invMoves.entryResult _ _ _ _ _ h)
  · unfold injectedResult
    split
    · exact h.same rfl
    · exact inv_recordResult _ _ h
    · exact inv_loadReadResult _ _ h

theorem inv_resultEvent (t : Nat) (te : TagEntry) (r : MResult) (p : Part) (h : p.Inv) : (resultEvent t te r p).Inv := by
  have hm : ∀ c, (memoryFaultEvent c t te p).Inv := by
    intro c
    unfold memoryFaultEvent
    dsimp only
    split
    · exact inv_setFlag _ _ (inv_raiseBy _ _ _ h)
    · exact inv_queueRecord _ _ _ _ (inv_setFlag _ _ (inv_raiseBy _ _ _ h))
  unfold resultEvent
  split
  · exact h
  · exact hm _
  · exact hm _

theorem inv_takeResult (t : Nat) (te : TagEntry) (r : MResult) (p : Part) (h : p.Inv) : (takeResult t te r p).Inv := by
  unfold takeResult
  split
  · exact inv_deliverResult _ _ _ (inv_resultEvent _ _ _ _ h)
  · exact inv_resultEvent _ _ _ _ (inv_deliverResult _ _ _ h)

/-- The tags and the output stay what they are. -/
def tagsAs (tags : List (Option TagEntry)) (output : Option MOut) (p : Part) : Prop :=
  p.txn.tags = tags ∧ p.txn.output = output

section
variable {a : List (Option TagEntry)} {b : Option MOut}

theorem tags_changeFlags (p : Part) (v : BitVec 11) (h : tagsAs a b p) : tagsAs a b (changeFlags v p) := by
  unfold changeFlags
  split <;> exact h

theorem tagFree : FreeMoves (tagsAs a b) where
  pairs _ _ _ _ h := h
  prdy _ h := by unfold evaluatePrdy; split <;> exact h
  ready _ h := by unfold prdyOnReady evaluatePrdy; split <;> (try split) <;> exact h
  slots _ _ _ h := h
  ctx _ _ h := h
  park _ _ _ h := h
  table _ _ _ h := h
  returning _ _ h := h
  issue _ _ h := h
  count _ _ _ h := h
  record p s tk b h := by
    unfold queueRecord
    split
    · exact h
    · exact tags_changeFlags _ _ h
  flag p f h := tags_changeFlags p _ h
  post _ _ _ h := h
  readerSettings _ _ _ _ h := h
  window _ _ _ h := h

theorem tagMoves : SkewMoves (tagsAs a b) (tagsAs a b) := { tagFree.moves with skew := fun _ _ _ h => h }

theorem tags_onEverySection (p : Part) (f : Section → SectionShadow → SectionShadow) (h : tagsAs a b p) :
    tagsAs a b (p.onEverySection f) := by
  exact ReaderMoves.foldl (I := tagsAs a b) (fun q k => q.onSection k (f k)) (fun _ _ hp => hp) Section.all p h

theorem tags_becomeRunning (p : Part) (h : tagsAs a b p) : tagsAs a b (becomeRunning p) := h

theorem tags_sendTrimStart (p : Part) (h : tagsAs a b p) : tagsAs a b (sendTrimStart p) := h

theorem tags_offerLoadRead (k : Nat) (p : Part) (h : tagsAs a b p) : tagsAs a b (offerLoadRead k p) := h

theorem tags_loadSection (q : Part) (k : Section) (hk : ∀ p, tagsAs a b p → tagsAs a b (latchAtLoadEnd k p))
    (hp : tagsAs a b q) : tagsAs a b (loadSection q k) := by
  unfold loadSection
  split
  · exact tagMoves.rejectSection _ _ _ _ hp
  · split
    · exact hk _ hp
    · exact tagMoves.rejectSection _ _ _ _ hp

theorem tags_moveTrim (t : Int) (p : Part) (h : tagsAs a b p) : tagsAs a b (moveTrim t p) := by
  unfold moveTrim
  split
  · exact h
  · exact tagMoves.tellSender _ h

theorem tags_latchAtLoadEnd (k : Section) (p : Part) (h : tagsAs a b p) : tagsAs a b (latchAtLoadEnd k p) := by
  unfold latchAtLoadEnd
  split
  · unfold latchGlobal
    split
    · exact tagMoves.rejectSection _ _ _ _ h
    · exact tagMoves.globalOnLatch (fun _ _ _ h => h) (fun _ h => h) (fun _ h => h) (fun _ h => h) _ _ _ h
  · unfold latchSync
    split
    · exact tagMoves.rejectSection _ _ _ _ h
    · dsimp only
      split
      · unfold skewOnLoadLatch
        dsimp only
        split
        · exact tagMoves.rejudge _ _ h
        · exact tagMoves.rejudge _ _ h
      · unfold skewOnLatch
        dsimp only
        split
        · exact tagMoves.rejudge _ _ h
        · exact tags_moveTrim _ _ (tagMoves.rejudge _ _ h)
  · rename_i x
    have h1 : tagsAs a b (latchEye x p).1 := by
      unfold latchEye
      split
      · exact tagMoves.rejectSection _ _ _ _ h
      · unfold putEye
        dsimp only
        split <;> exact h
    unfold latchEyeIdle
    split <;> rename_i heq <;> rw [heq] at h1 <;> exact h1
  · exact tagMoves.latchReader _ _ h

theorem tags_loadReadResult (r : MResult) (p : Part) (h : tagsAs a b p) : tagsAs a b (loadReadResult r p) := by
  have h1 := tags_onEverySection p (SectionShadow.load (p.rig.loadIndex * Config.loadReadBytes) r) h
  unfold loadReadResult
  dsimp only
  split
  · exact tags_offerLoadRead _ _ h1
  · unfold endLoad
    exact tags_becomeRunning _ (tags_sendTrimStart _ (tags_onEverySection _ (fun _ => SectionShadow.clearMarks)
      (ReaderMoves.foldl (I := tagsAs a b) loadSection (fun q k hp => tags_loadSection q k (tags_latchAtLoadEnd k) hp) _ _ h1)))

theorem tags_takeResult (t : Nat) (te : TagEntry) (r : MResult) (p : Part) (h : tagsAs a b p) :
    tagsAs a b (takeResult t te r p) := by
  have hd : ∀ q, tagsAs a b q → tagsAs a b (deliverResult te r q) := by
    intro q hq
    unfold deliverResult
    split
    · exact tagMoves.slotResult _ _ _ (tagMoves.entryResult _ _ _ _ _ hq)
    · unfold injectedResult
      split
      · exact hq
      · exact hq
      · exact tags_loadReadResult _ _ hq
  have he : ∀ q, tagsAs a b q → tagsAs a b (resultEvent t te r q) := by
    have hm : ∀ c q, tagsAs a b q → tagsAs a b (memoryFaultEvent c t te q) := by
      intro c q hq
      unfold memoryFaultEvent
      dsimp only
      split
      · exact tagMoves.flag _ _ (tagMoves.raise _ _ hq)
      · exact tagMoves.record _ _ _ _ (tagMoves.flag _ _ (tagMoves.raise _ _ hq))
    intro q hq
    unfold resultEvent
    split
    · exact hq
    · exact hm _ _ hq
    · exact hm _ _ hq
  unfold takeResult
  split
  · exact hd _ (he _ h)
  · exact he _ (hd _ h)

end

/-- Setting a tag that is not OFFERED to something that is not OFFERED. -/
theorem inv_setTag (p : Part) (t : Nat) (v : Option TagEntry) (h : p.Inv)
    (hold : ∀ te, p.tag t = some te → te.state ≠ .offered) (hnew : ∀ te, v = some te → te.state ≠ .offered) :
    (p.setTag t v).Inv := by
  refine ⟨⟨h.sized.intake, h.sized.table, by simpa using h.sized.tags, h.sized.park, h.sized.records, h.sized.counters⟩,
    h.alert, ⟨h.settings.sync, h.settings.left, h.settings.right⟩, h.trim, ?_⟩
  intro u
  have ho := h.offered u
  by_cases hu : u = t
  · subst hu
    constructor
    · rintro ⟨te, h1, h2⟩
      exfalso
      unfold Part.tag at h1
      simp only [Part.setTag_txn, List.getD_eq_getElem?_getD, List.getElem?_set] at h1
      split at h1
      · split at h1
        · exact hnew te (by simpa using h1) h2
        · simp at h1
      · contradiction
    · intro h1
      obtain ⟨te, h2, h3⟩ := ho.mpr h1
      exact absurd h3 (hold te h2)
  · have : (p.setTag t v).tag u = p.tag u := by
      unfold Part.tag
      simp only [Part.setTag_txn, List.getD_eq_getElem?_getD, List.getElem?_set]
      simp [Ne.symm hu]
    rw [this]
    exact ho

theorem tagFreed_watched (t : Nat) (u : TxnUnit) :
    (u.tagFreed t).tags = u.tags.set t none ∧ (u.tagFreed t).output = u.output ∧ (u.tagFreed t).issue = u.issue ∧
      (u.tagFreed t).injected = u.injected ∧ (u.tagFreed t).quiet = u.quiet := by
  unfold TxnUnit.tagFreed
  split <;> exact ⟨rfl, rfl, rfl, rfl, rfl⟩

/-- A tag that is not OFFERED becomes FREE. -/
theorem inv_tagFreed (p : Part) (t : Nat) (h : p.Inv) (hold : ∀ te, p.tag t = some te → te.state ≠ .offered) :
    (p.onTxn (TxnUnit.tagFreed t)).Inv := by
  refine (inv_setTag p t none h hold (by simp)).same ?_
  have hw := tagFreed_watched t p.txn
  simp [Part.watched, hw.1, hw.2.1]

theorem inv_takeResponse (m : MResponse) (p : Part) (h : p.Inv) : (takeResponse m p).Inv := by
  unfold takeResponse
  split
  · exact inv_raiseBy _ _ _ h
  · rename_i te hte
    split
    · exact inv_raiseBy _ _ _ h
    · rename_i hst
      have ht := tags_takeResult (a := p.txn.tags) (b := p.txn.output) m.tag te (formResult te m) p ⟨rfl, rfl⟩
      refine inv_tagFreed _ _ (inv_takeResult _ _ _ _ h) ?_
      intro te2 h2
      unfold Part.tag at h2 hte
      rw [ht.1, hte] at h2
      cases h2
      rw [hst]
      decide
    · rename_i hst
      unfold lateResponse
      dsimp only
      have h1 : (raise .lateResponses p).Inv := inv_raiseBy _ _ _ h
      have key : ∀ q : Part, q.Inv → q.txn.tags = p.txn.tags → (q.onTxn (TxnUnit.tagFreed m.tag)).Inv := by
        intro q hq htq
        refine inv_tagFreed _ _ hq ?_
        intro te2 h2
        unfold Part.tag at h2 hte
        rw [htq, hte] at h2
        cases h2
        rw [hst]
        decide
      split
      · exact key _ (invMoves.onSlot _ _ _ SlotRecord.lateResponse h1) rfl
      · exact key _ h1 rfl

theorem inv_mTimeoutExpiry (t : Nat) (p : Part) (h : p.Inv) : (mTimeoutExpiry t p).Inv := by
  unfold mTimeoutExpiry
  split
  · exact h
  · rename_i te hte
    split
    · rename_i hst
      unfold onExpiry
      split
      · exact h
      · rename_i r hr
        unfold tagTimesOut
        refine inv_takeResult _ _ _ _ (inv_setTag _ _ _ (inv_passTime _ _ h) ?_ ?_)
        · intro te2 h2
          cases hra : p.resetAsserted
          · rw [tag_passTime _ _ _ hra, hte] at h2
            cases h2
            show te.state ≠ .offered
            rw [hst]
            decide
          · unfold passTime at h2
            rw [hra] at h2
            simp only [if_true] at h2
            rw [hte] at h2
            cases h2
            rw [hst]
            decide
        · intro te2 h2
          cases h2
          exact TagState.noConfusion
    · exact h
    · exact h

/-- The tag that the next request takes is FREE. -/
theorem tagToTake_free (u : TxnUnit) (t : Nat) (h : tagToTake u = some t) : u.tags[t]? = some none := by
  have hfree : freeTag u = some t → u.tags[t]? = some none := by
    intro hf
    obtain ⟨_, w, hw, hn⟩ := firstIndex_lt _ _ _ hf
    cases w
    · exact hw
    · cases hn
  unfold tagToTake at h
  split at h
  · split at h
    · rename_i hc
      cases h
      simpa [TxnUnit.isFree] using hc
    · exact hfree h
  · exact hfree h

theorem inv_arbiterIssue (p : Part) (h : p.Inv) : (arbiterIssue p).Inv := by
  have key : ∀ u : TxnUnit, u.tags = p.txn.tags → u.output = p.txn.output → (p.onTxn fun _ => u).Inv := by
    intro u h1 h2
    exact h.same (by simp [Part.watched, h1, h2])
  have put : p.txn.output = none → ∀ t, tagToTake p.txn = some t → ∀ (o : Owner) (k : Kind) (s : BitVec 6) (a n : Nat)
      (d : List Byte) (v : TxnUnit), v.tags = (putOnOutput t o k s a n d p.txn).tags →
      v.output = (putOnOutput t o k s a n d p.txn).output → (p.onTxn fun _ => v).Inv := by
    intro hout t ht o k s a n d v hv1 hv2
    have hlt : t < p.txn.tags.length := List.getElem?_eq_some_iff.mp (tagToTake_free _ _ ht) |>.1
    refine ⟨⟨h.sized.intake, h.sized.table, ?_, h.sized.park, h.sized.records, h.sized.counters⟩,
      h.alert, ⟨h.settings.sync, h.settings.left, h.settings.right⟩, h.trim, ?_⟩
    · simp only [Part.onTxn_txn, hv1, putOnOutput]
      simpa using h.sized.tags
    · intro x
      unfold Part.tag
      simp only [Part.onTxn_txn, hv1, hv2, putOnOutput, List.getD_eq_getElem?_getD, List.getElem?_set]
      have hox := h.offered x
      by_cases hx : t = x
      · subst hx
        simp [hlt]
      · unfold Part.tag at hox
        rw [hout, List.getD_eq_getElem?_getD] at hox
        simp only [hx, if_false]
        rw [hox]
        simp [hx]
  show (p.onTxn fun _ => arbiterStep p.txn).Inv
  unfold arbiterStep
  split
  · exact key _ rfl rfl
  · rename_i hq
    have hout : p.txn.output = none := by
      cases ho : p.txn.output
      · rfl
      · simp [ho] at hq
    split
    · exact key _ rfl rfl
    · exact key _ rfl rfl
    · rename_i t _ ht
      unfold issuePiece
      split
      · exact put hout t ht _ _ _ _ _ _ _ rfl rfl
      · exact put hout t ht _ _ _ _ _ _ _ rfl rfl
      · exact key _ rfl rfl
      · exact key _ rfl rfl
    · rename_i t _ ht
      unfold issueInjected
      split
      · exact put hout t ht _ _ _ _ _ _ _ rfl rfl
      · exact key _ rfl rfl

theorem inv_mportAccept (p : Part) (h : p.Inv) : (mportAccept p).Inv := by
  unfold mportAccept
  split
  · rename_i o ho
    refine ⟨⟨h.sized.intake, h.sized.table, by simpa [acceptOutput] using h.sized.tags, h.sized.park, h.sized.records,
      h.sized.counters⟩, h.alert, ⟨h.settings.sync, h.settings.left, h.settings.right⟩, h.trim, ?_⟩
    intro x
    have hox := h.offered x
    unfold Part.tag at hox ⊢
    rw [ho, List.getD_eq_getElem?_getD] at hox
    simp only [acceptOutput, Part.onTxn_txn, List.getD_eq_getElem?_getD, List.getElem?_modify]
    constructor
    · rintro ⟨te, h1, h2⟩
      exfalso
      by_cases hx : o.tag = x
      · simp only [hx, if_true] at h1
        cases hg : p.txn.tags[x]? with
        | none => rw [hg] at h1; simp at h1
        | some w =>
          rw [hg] at h1
          cases w with
          | none => simp at h1
          | some w =>
            simp at h1
            rw [← h1] at h2
            cases h2
      · simp only [hx, if_false] at h1
        have : (p.txn.tags[x]?).getD none = some te := by simpa using h1
        obtain ⟨o2, h3, h4⟩ := hox.mp ⟨te, this, h2⟩
        cases h3
        exact hx h4
    · rintro ⟨o2, h1, _⟩
      cases h1
  · exact h

/-! ### Reset -/

theorem inv_reset (k : BitVec 3) : (Part.reset k).Inv := by
  refine ⟨⟨by simp [Part.reset, RequestPath.reset], by simp [Part.reset, RequestPath.reset], by simp [Part.reset, TxnUnit.reset],
    by simp [Part.reset, ReaderUnit.reset], by simp [Part.reset, ReportUnit.reset], by simp [Part.reset, ReportUnit.reset]⟩, ?_,
    ⟨?_, ?_, ?_⟩, ?_, ?_⟩
  · show true = alertLevel 0 0
    decide
  · show syncInRange SyncSettings.default = true
    decide
  · show (EyeSettings.default .left).Sound
    unfold EyeSettings.Sound
    decide
  · show (EyeSettings.default .right).Sound
    unfold EyeSettings.Sound
    decide
  · show SyncSettings.default.trimMin ≤ 0 ∧ (0 : Int) ≤ SyncSettings.default.trimMax
    decide
  · intro t
    constructor
    · rintro ⟨te, h1, _⟩
      exfalso
      simp only [Part.tag, Part.reset, TxnUnit.reset, List.getD_eq_getElem?_getD, List.getElem?_replicate] at h1
      split at h1 <;> cases h1
    · rintro ⟨o, h1, _⟩
      cases h1

theorem inv_releaseReset (p : Part) (h : p.Inv) : (releaseReset p).Inv := h.same rfl

theorem inv_whenRunning (f : Part → Part) (hf : ∀ p, p.Inv → (f p).Inv) (s t : State) (h : s.hw.Inv)
    (ht : whenRunning f s = .next t) : t.hw.Inv := by
  unfold whenRunning at ht
  cases ht
  dsimp only
  split
  · exact h
  · exact inv_markChanged _ _ (hf _ h)

end Sys2Proof.Machine
end

