-- ==== Sys2Proof/Laws/Effects.lean ====
section
/-! SUPPORT. What each shared operation does, said once: the fields it leaves alone, and its result where it is short. -/

namespace Sys2Proof.Machine

/-! ### Operations of one block: the other blocks stay as they are -/

@[simp] theorem evaluateAlert_resetAsserted (p : Part) : (evaluateAlert p).resetAsserted = p.resetAsserted := by rfl
@[simp] theorem evaluateAlert_sync (p : Part) : (evaluateAlert p).sync = p.sync := by rfl
@[simp] theorem evaluateAlert_streams (p : Part) : (evaluateAlert p).streams = p.streams := by rfl
@[simp] theorem evaluateAlert_slots (p : Part) : (evaluateAlert p).slots = p.slots := by rfl
@[simp] theorem evaluateAlert_pairs (p : Part) : (evaluateAlert p).pairs = p.pairs := by rfl
@[simp] theorem evaluateAlert_readers (p : Part) : (evaluateAlert p).readers = p.readers := by rfl
@[simp] theorem evaluateAlert_req (p : Part) : (evaluateAlert p).req = p.req := by rfl
@[simp] theorem evaluateAlert_txn (p : Part) : (evaluateAlert p).txn = p.txn := by rfl
@[simp] theorem evaluateAlert_skew (p : Part) : (evaluateAlert p).skew = p.skew := by rfl
@[simp] theorem evaluateAlert_rig (p : Part) : (evaluateAlert p).rig = p.rig := by rfl

@[simp] theorem changeFlags_resetAsserted (v : BitVec 11) (p : Part) : (changeFlags v p).resetAsserted = p.resetAsserted := by unfold changeFlags; split <;> rfl
@[simp] theorem changeFlags_sync (v : BitVec 11) (p : Part) : (changeFlags v p).sync = p.sync := by unfold changeFlags; split <;> rfl
@[simp] theorem changeFlags_streams (v : BitVec 11) (p : Part) : (changeFlags v p).streams = p.streams := by unfold changeFlags; split <;> rfl
@[simp] theorem changeFlags_slots (v : BitVec 11) (p : Part) : (changeFlags v p).slots = p.slots := by unfold changeFlags; split <;> rfl
@[simp] theorem changeFlags_pairs (v : BitVec 11) (p : Part) : (changeFlags v p).pairs = p.pairs := by unfold changeFlags; split <;> rfl
@[simp] theorem changeFlags_readers (v : BitVec 11) (p : Part) : (changeFlags v p).readers = p.readers := by unfold changeFlags; split <;> rfl
@[simp] theorem changeFlags_req (v : BitVec 11) (p : Part) : (changeFlags v p).req = p.req := by unfold changeFlags; split <;> rfl
@[simp] theorem changeFlags_txn (v : BitVec 11) (p : Part) : (changeFlags v p).txn = p.txn := by unfold changeFlags; split <;> rfl
@[simp] theorem changeFlags_skew (v : BitVec 11) (p : Part) : (changeFlags v p).skew = p.skew := by unfold changeFlags; split <;> rfl
@[simp] theorem changeFlags_rig (v : BitVec 11) (p : Part) : (changeFlags v p).rig = p.rig := by unfold changeFlags; split <;> rfl

@[simp] theorem setFlag_resetAsserted (e : EventFlag) (p : Part) : (setFlag e p).resetAsserted = p.resetAsserted := by unfold setFlag; simp
@[simp] theorem setFlag_sync (e : EventFlag) (p : Part) : (setFlag e p).sync = p.sync := by unfold setFlag; simp
@[simp] theorem setFlag_streams (e : EventFlag) (p : Part) : (setFlag e p).streams = p.streams := by unfold setFlag; simp
@[simp] theorem setFlag_slots (e : EventFlag) (p : Part) : (setFlag e p).slots = p.slots := by unfold setFlag; simp
@[simp] theorem setFlag_pairs (e : EventFlag) (p : Part) : (setFlag e p).pairs = p.pairs := by unfold setFlag; simp
@[simp] theorem setFlag_readers (e : EventFlag) (p : Part) : (setFlag e p).readers = p.readers := by unfold setFlag; simp
@[simp] theorem setFlag_req (e : EventFlag) (p : Part) : (setFlag e p).req = p.req := by unfold setFlag; simp
@[simp] theorem setFlag_txn (e : EventFlag) (p : Part) : (setFlag e p).txn = p.txn := by unfold setFlag; simp
@[simp] theorem setFlag_skew (e : EventFlag) (p : Part) : (setFlag e p).skew = p.skew := by unfold setFlag; simp
@[simp] theorem setFlag_rig (e : EventFlag) (p : Part) : (setFlag e p).rig = p.rig := by unfold setFlag; simp

@[simp] theorem clearFlags_resetAsserted (v : BitVec 11) (p : Part) : (clearFlags v p).resetAsserted = p.resetAsserted := by unfold clearFlags; simp
@[simp] theorem clearFlags_sync (v : BitVec 11) (p : Part) : (clearFlags v p).sync = p.sync := by unfold clearFlags; simp
@[simp] theorem clearFlags_streams (v : BitVec 11) (p : Part) : (clearFlags v p).streams = p.streams := by unfold clearFlags; simp
@[simp] theorem clearFlags_slots (v : BitVec 11) (p : Part) : (clearFlags v p).slots = p.slots := by unfold clearFlags; simp
@[simp] theorem clearFlags_pairs (v : BitVec 11) (p : Part) : (clearFlags v p).pairs = p.pairs := by unfold clearFlags; simp
@[simp] theorem clearFlags_readers (v : BitVec 11) (p : Part) : (clearFlags v p).readers = p.readers := by unfold clearFlags; simp
@[simp] theorem clearFlags_req (v : BitVec 11) (p : Part) : (clearFlags v p).req = p.req := by unfold clearFlags; simp
@[simp] theorem clearFlags_txn (v : BitVec 11) (p : Part) : (clearFlags v p).txn = p.txn := by unfold clearFlags; simp
@[simp] theorem clearFlags_skew (v : BitVec 11) (p : Part) : (clearFlags v p).skew = p.skew := by unfold clearFlags; simp
@[simp] theorem clearFlags_rig (v : BitVec 11) (p : Part) : (clearFlags v p).rig = p.rig := by unfold clearFlags; simp

@[simp] theorem raiseBy_resetAsserted (c : Counter) (n : Nat) (p : Part) : (raiseBy c n p).resetAsserted = p.resetAsserted := by rfl
@[simp] theorem raiseBy_sync (c : Counter) (n : Nat) (p : Part) : (raiseBy c n p).sync = p.sync := by rfl
@[simp] theorem raiseBy_streams (c : Counter) (n : Nat) (p : Part) : (raiseBy c n p).streams = p.streams := by rfl
@[simp] theorem raiseBy_slots (c : Counter) (n : Nat) (p : Part) : (raiseBy c n p).slots = p.slots := by rfl
@[simp] theorem raiseBy_pairs (c : Counter) (n : Nat) (p : Part) : (raiseBy c n p).pairs = p.pairs := by rfl
@[simp] theorem raiseBy_readers (c : Counter) (n : Nat) (p : Part) : (raiseBy c n p).readers = p.readers := by rfl
@[simp] theorem raiseBy_req (c : Counter) (n : Nat) (p : Part) : (raiseBy c n p).req = p.req := by rfl
@[simp] theorem raiseBy_txn (c : Counter) (n : Nat) (p : Part) : (raiseBy c n p).txn = p.txn := by rfl
@[simp] theorem raiseBy_skew (c : Counter) (n : Nat) (p : Part) : (raiseBy c n p).skew = p.skew := by rfl
@[simp] theorem raiseBy_rig (c : Counter) (n : Nat) (p : Part) : (raiseBy c n p).rig = p.rig := by rfl

@[simp] theorem raise_resetAsserted (c : Counter) (p : Part) : (raise c p).resetAsserted = p.resetAsserted := by rfl
@[simp] theorem raise_sync (c : Counter) (p : Part) : (raise c p).sync = p.sync := by rfl
@[simp] theorem raise_streams (c : Counter) (p : Part) : (raise c p).streams = p.streams := by rfl
@[simp] theorem raise_slots (c : Counter) (p : Part) : (raise c p).slots = p.slots := by rfl
@[simp] theorem raise_pairs (c : Counter) (p : Part) : (raise c p).pairs = p.pairs := by rfl
@[simp] theorem raise_readers (c : Counter) (p : Part) : (raise c p).readers = p.readers := by rfl
@[simp] theorem raise_req (c : Counter) (p : Part) : (raise c p).req = p.req := by rfl
@[simp] theorem raise_txn (c : Counter) (p : Part) : (raise c p).txn = p.txn := by rfl
@[simp] theorem raise_skew (c : Counter) (p : Part) : (raise c p).skew = p.skew := by rfl
@[simp] theorem raise_rig (c : Counter) (p : Part) : (raise c p).rig = p.rig := by rfl

@[simp] theorem queueRecord_resetAsserted (stamp : Stamp) (take : Word) (body : RecordBody) (p : Part) : (queueRecord stamp take body p).resetAsserted = p.resetAsserted := by unfold queueRecord; split <;> simp
@[simp] theorem queueRecord_sync (stamp : Stamp) (take : Word) (body : RecordBody) (p : Part) : (queueRecord stamp take body p).sync = p.sync := by unfold queueRecord; split <;> simp
@[simp] theorem queueRecord_streams (stamp : Stamp) (take : Word) (body : RecordBody) (p : Part) : (queueRecord stamp take body p).streams = p.streams := by unfold queueRecord; split <;> simp
@[simp] theorem queueRecord_slots (stamp : Stamp) (take : Word) (body : RecordBody) (p : Part) : (queueRecord stamp take body p).slots = p.slots := by unfold queueRecord; split <;> simp
@[simp] theorem queueRecord_pairs (stamp : Stamp) (take : Word) (body : RecordBody) (p : Part) : (queueRecord stamp take body p).pairs = p.pairs := by unfold queueRecord; split <;> simp
@[simp] theorem queueRecord_readers (stamp : Stamp) (take : Word) (body : RecordBody) (p : Part) : (queueRecord stamp take body p).readers = p.readers := by unfold queueRecord; split <;> simp
@[simp] theorem queueRecord_req (stamp : Stamp) (take : Word) (body : RecordBody) (p : Part) : (queueRecord stamp take body p).req = p.req := by unfold queueRecord; split <;> simp
@[simp] theorem queueRecord_txn (stamp : Stamp) (take : Word) (body : RecordBody) (p : Part) : (queueRecord stamp take body p).txn = p.txn := by unfold queueRecord; split <;> simp
@[simp] theorem queueRecord_skew (stamp : Stamp) (take : Word) (body : RecordBody) (p : Part) : (queueRecord stamp take body p).skew = p.skew := by unfold queueRecord; split <;> simp
@[simp] theorem queueRecord_rig (stamp : Stamp) (take : Word) (body : RecordBody) (p : Part) : (queueRecord stamp take body p).rig = p.rig := by unfold queueRecord; split <;> simp

@[simp] theorem queueRecordNow_resetAsserted (body : RecordBody) (p : Part) : (queueRecordNow body p).resetAsserted = p.resetAsserted := by unfold queueRecordNow; simp
@[simp] theorem queueRecordNow_sync (body : RecordBody) (p : Part) : (queueRecordNow body p).sync = p.sync := by unfold queueRecordNow; simp
@[simp] theorem queueRecordNow_streams (body : RecordBody) (p : Part) : (queueRecordNow body p).streams = p.streams := by unfold queueRecordNow; simp
@[simp] theorem queueRecordNow_slots (body : RecordBody) (p : Part) : (queueRecordNow body p).slots = p.slots := by unfold queueRecordNow; simp
@[simp] theorem queueRecordNow_pairs (body : RecordBody) (p : Part) : (queueRecordNow body p).pairs = p.pairs := by unfold queueRecordNow; simp
@[simp] theorem queueRecordNow_readers (body : RecordBody) (p : Part) : (queueRecordNow body p).readers = p.readers := by unfold queueRecordNow; simp
@[simp] theorem queueRecordNow_req (body : RecordBody) (p : Part) : (queueRecordNow body p).req = p.req := by unfold queueRecordNow; simp
@[simp] theorem queueRecordNow_txn (body : RecordBody) (p : Part) : (queueRecordNow body p).txn = p.txn := by unfold queueRecordNow; simp
@[simp] theorem queueRecordNow_skew (body : RecordBody) (p : Part) : (queueRecordNow body p).skew = p.skew := by unfold queueRecordNow; simp
@[simp] theorem queueRecordNow_rig (body : RecordBody) (p : Part) : (queueRecordNow body p).rig = p.rig := by unfold queueRecordNow; simp

@[simp] theorem skewEvent_resetAsserted (k : SkewEventKind) (p : Part) : (skewEvent k p).resetAsserted = p.resetAsserted := by unfold skewEvent; simp
@[simp] theorem skewEvent_sync (k : SkewEventKind) (p : Part) : (skewEvent k p).sync = p.sync := by unfold skewEvent; simp
@[simp] theorem skewEvent_streams (k : SkewEventKind) (p : Part) : (skewEvent k p).streams = p.streams := by unfold skewEvent; simp
@[simp] theorem skewEvent_slots (k : SkewEventKind) (p : Part) : (skewEvent k p).slots = p.slots := by unfold skewEvent; simp
@[simp] theorem skewEvent_pairs (k : SkewEventKind) (p : Part) : (skewEvent k p).pairs = p.pairs := by unfold skewEvent; simp
@[simp] theorem skewEvent_readers (k : SkewEventKind) (p : Part) : (skewEvent k p).readers = p.readers := by unfold skewEvent; simp
@[simp] theorem skewEvent_req (k : SkewEventKind) (p : Part) : (skewEvent k p).req = p.req := by unfold skewEvent; simp
@[simp] theorem skewEvent_txn (k : SkewEventKind) (p : Part) : (skewEvent k p).txn = p.txn := by unfold skewEvent; simp
@[simp] theorem skewEvent_skew (k : SkewEventKind) (p : Part) : (skewEvent k p).skew = p.skew := by unfold skewEvent; simp
@[simp] theorem skewEvent_rig (k : SkewEventKind) (p : Part) : (skewEvent k p).rig = p.rig := by unfold skewEvent; simp

@[simp] theorem markChanged_resetAsserted (a p : Part) : (markChanged a p).resetAsserted = p.resetAsserted := by rfl
@[simp] theorem markChanged_sync (a p : Part) : (markChanged a p).sync = p.sync := by rfl
@[simp] theorem markChanged_streams (a p : Part) : (markChanged a p).streams = p.streams := by rfl
@[simp] theorem markChanged_slots (a p : Part) : (markChanged a p).slots = p.slots := by rfl
@[simp] theorem markChanged_pairs (a p : Part) : (markChanged a p).pairs = p.pairs := by rfl
@[simp] theorem markChanged_readers (a p : Part) : (markChanged a p).readers = p.readers := by rfl
@[simp] theorem markChanged_req (a p : Part) : (markChanged a p).req = p.req := by rfl
@[simp] theorem markChanged_txn (a p : Part) : (markChanged a p).txn = p.txn := by rfl
@[simp] theorem markChanged_skew (a p : Part) : (markChanged a p).skew = p.skew := by rfl
@[simp] theorem markChanged_rig (a p : Part) : (markChanged a p).rig = p.rig := by rfl

@[simp] theorem evaluatePrdy_resetAsserted (p : Part) : (evaluatePrdy p).resetAsserted = p.resetAsserted := by unfold evaluatePrdy; split <;> rfl
@[simp] theorem evaluatePrdy_sync (p : Part) : (evaluatePrdy p).sync = p.sync := by unfold evaluatePrdy; split <;> rfl
@[simp] theorem evaluatePrdy_streams (p : Part) : (evaluatePrdy p).streams = p.streams := by unfold evaluatePrdy; split <;> rfl
@[simp] theorem evaluatePrdy_slots (p : Part) : (evaluatePrdy p).slots = p.slots := by unfold evaluatePrdy; split <;> rfl
@[simp] theorem evaluatePrdy_readers (p : Part) : (evaluatePrdy p).readers = p.readers := by unfold evaluatePrdy; split <;> rfl
@[simp] theorem evaluatePrdy_req (p : Part) : (evaluatePrdy p).req = p.req := by unfold evaluatePrdy; split <;> rfl
@[simp] theorem evaluatePrdy_txn (p : Part) : (evaluatePrdy p).txn = p.txn := by unfold evaluatePrdy; split <;> rfl
@[simp] theorem evaluatePrdy_skew (p : Part) : (evaluatePrdy p).skew = p.skew := by unfold evaluatePrdy; split <;> rfl
@[simp] theorem evaluatePrdy_rig (p : Part) : (evaluatePrdy p).rig = p.rig := by unfold evaluatePrdy; split <;> rfl
@[simp] theorem evaluatePrdy_report (p : Part) : (evaluatePrdy p).report = p.report := by unfold evaluatePrdy; split <;> rfl

@[simp] theorem prdyOnReady_resetAsserted (p : Part) : (prdyOnReady p).resetAsserted = p.resetAsserted := by unfold prdyOnReady; split <;> simp
@[simp] theorem prdyOnReady_sync (p : Part) : (prdyOnReady p).sync = p.sync := by unfold prdyOnReady; split <;> simp
@[simp] theorem prdyOnReady_streams (p : Part) : (prdyOnReady p).streams = p.streams := by unfold prdyOnReady; split <;> simp
@[simp] theorem prdyOnReady_slots (p : Part) : (prdyOnReady p).slots = p.slots := by unfold prdyOnReady; split <;> simp
@[simp] theorem prdyOnReady_readers (p : Part) : (prdyOnReady p).readers = p.readers := by unfold prdyOnReady; split <;> simp
@[simp] theorem prdyOnReady_req (p : Part) : (prdyOnReady p).req = p.req := by unfold prdyOnReady; split <;> simp
@[simp] theorem prdyOnReady_txn (p : Part) : (prdyOnReady p).txn = p.txn := by unfold prdyOnReady; split <;> simp
@[simp] theorem prdyOnReady_skew (p : Part) : (prdyOnReady p).skew = p.skew := by unfold prdyOnReady; split <;> simp
@[simp] theorem prdyOnReady_rig (p : Part) : (prdyOnReady p).rig = p.rig := by unfold prdyOnReady; split <;> simp
@[simp] theorem prdyOnReady_report (p : Part) : (prdyOnReady p).report = p.report := by unfold prdyOnReady; split <;> simp

@[simp] theorem onHolders_resetAsserted (k : HeldPair) (f : Nat → Nat) (p : Part) : (onHolders k f p).resetAsserted = p.resetAsserted := by rfl
@[simp] theorem onHolders_sync (k : HeldPair) (f : Nat → Nat) (p : Part) : (onHolders k f p).sync = p.sync := by rfl
@[simp] theorem onHolders_streams (k : HeldPair) (f : Nat → Nat) (p : Part) : (onHolders k f p).streams = p.streams := by rfl
@[simp] theorem onHolders_slots (k : HeldPair) (f : Nat → Nat) (p : Part) : (onHolders k f p).slots = p.slots := by rfl
@[simp] theorem onHolders_readers (k : HeldPair) (f : Nat → Nat) (p : Part) : (onHolders k f p).readers = p.readers := by rfl
@[simp] theorem onHolders_req (k : HeldPair) (f : Nat → Nat) (p : Part) : (onHolders k f p).req = p.req := by rfl
@[simp] theorem onHolders_txn (k : HeldPair) (f : Nat → Nat) (p : Part) : (onHolders k f p).txn = p.txn := by rfl
@[simp] theorem onHolders_skew (k : HeldPair) (f : Nat → Nat) (p : Part) : (onHolders k f p).skew = p.skew := by rfl
@[simp] theorem onHolders_rig (k : HeldPair) (f : Nat → Nat) (p : Part) : (onHolders k f p).rig = p.rig := by rfl
@[simp] theorem onHolders_report (k : HeldPair) (f : Nat → Nat) (p : Part) : (onHolders k f p).report = p.report := by rfl

@[simp] theorem retireSlots_resetAsserted (p : Part) (r : PairRecord) : (retireSlots p r).resetAsserted = p.resetAsserted := by rfl
@[simp] theorem retireSlots_sync (p : Part) (r : PairRecord) : (retireSlots p r).sync = p.sync := by rfl
@[simp] theorem retireSlots_streams (p : Part) (r : PairRecord) : (retireSlots p r).streams = p.streams := by rfl
@[simp] theorem retireSlots_pairs (p : Part) (r : PairRecord) : (retireSlots p r).pairs = p.pairs := by rfl
@[simp] theorem retireSlots_readers (p : Part) (r : PairRecord) : (retireSlots p r).readers = p.readers := by rfl
@[simp] theorem retireSlots_req (p : Part) (r : PairRecord) : (retireSlots p r).req = p.req := by rfl
@[simp] theorem retireSlots_txn (p : Part) (r : PairRecord) : (retireSlots p r).txn = p.txn := by rfl
@[simp] theorem retireSlots_skew (p : Part) (r : PairRecord) : (retireSlots p r).skew = p.skew := by rfl
@[simp] theorem retireSlots_rig (p : Part) (r : PairRecord) : (retireSlots p r).rig = p.rig := by rfl
@[simp] theorem retireSlots_report (p : Part) (r : PairRecord) : (retireSlots p r).report = p.report := by rfl

theorem foldl_retireSlots_resetAsserted (l : List PairRecord) (p : Part) : (l.foldl retireSlots p).resetAsserted = p.resetAsserted := by
  induction l generalizing p with
  | nil => rfl
  | cons r rs ih => simp [ih]
theorem foldl_retireSlots_sync (l : List PairRecord) (p : Part) : (l.foldl retireSlots p).sync = p.sync := by
  induction l generalizing p with
  | nil => rfl
  | cons r rs ih => simp [ih]
theorem foldl_retireSlots_streams (l : List PairRecord) (p : Part) : (l.foldl retireSlots p).streams = p.streams := by
  induction l generalizing p with
  | nil => rfl
  | cons r rs ih => simp [ih]
theorem foldl_retireSlots_pairs (l : List PairRecord) (p : Part) : (l.foldl retireSlots p).pairs = p.pairs := by
  induction l generalizing p with
  | nil => rfl
  | cons r rs ih => simp [ih]
theorem foldl_retireSlots_readers (l : List PairRecord) (p : Part) : (l.foldl retireSlots p).readers = p.readers := by
  induction l generalizing p with
  | nil => rfl
  | cons r rs ih => simp [ih]
theorem foldl_retireSlots_req (l : List PairRecord) (p : Part) : (l.foldl retireSlots p).req = p.req := by
  induction l generalizing p with
  | nil => rfl
  | cons r rs ih => simp [ih]
theorem foldl_retireSlots_txn (l : List PairRecord) (p : Part) : (l.foldl retireSlots p).txn = p.txn := by
  induction l generalizing p with
  | nil => rfl
  | cons r rs ih => simp [ih]
theorem foldl_retireSlots_skew (l : List PairRecord) (p : Part) : (l.foldl retireSlots p).skew = p.skew := by
  induction l generalizing p with
  | nil => rfl
  | cons r rs ih => simp [ih]
theorem foldl_retireSlots_rig (l : List PairRecord) (p : Part) : (l.foldl retireSlots p).rig = p.rig := by
  induction l generalizing p with
  | nil => rfl
  | cons r rs ih => simp [ih]
theorem foldl_retireSlots_report (l : List PairRecord) (p : Part) : (l.foldl retireSlots p).report = p.report := by
  induction l generalizing p with
  | nil => rfl
  | cons r rs ih => simp [ih]

@[simp] theorem evaluateRetirement_resetAsserted (p : Part) : (evaluateRetirement p).resetAsserted = p.resetAsserted := by unfold evaluateRetirement; dsimp only; split <;> simp [foldl_retireSlots_resetAsserted]
@[simp] theorem evaluateRetirement_sync (p : Part) : (evaluateRetirement p).sync = p.sync := by unfold evaluateRetirement; dsimp only; split <;> simp [foldl_retireSlots_sync]
@[simp] theorem evaluateRetirement_streams (p : Part) : (evaluateRetirement p).streams = p.streams := by unfold evaluateRetirement; dsimp only; split <;> simp [foldl_retireSlots_streams]
@[simp] theorem evaluateRetirement_readers (p : Part) : (evaluateRetirement p).readers = p.readers := by unfold evaluateRetirement; dsimp only; split <;> simp [foldl_retireSlots_readers]
@[simp] theorem evaluateRetirement_req (p : Part) : (evaluateRetirement p).req = p.req := by unfold evaluateRetirement; dsimp only; split <;> simp [foldl_retireSlots_req]
@[simp] theorem evaluateRetirement_txn (p : Part) : (evaluateRetirement p).txn = p.txn := by unfold evaluateRetirement; dsimp only; split <;> simp [foldl_retireSlots_txn]
@[simp] theorem evaluateRetirement_skew (p : Part) : (evaluateRetirement p).skew = p.skew := by unfold evaluateRetirement; dsimp only; split <;> simp [foldl_retireSlots_skew]
@[simp] theorem evaluateRetirement_rig (p : Part) : (evaluateRetirement p).rig = p.rig := by unfold evaluateRetirement; dsimp only; split <;> simp [foldl_retireSlots_rig]
@[simp] theorem evaluateRetirement_report (p : Part) : (evaluateRetirement p).report = p.report := by unfold evaluateRetirement; dsimp only; split <;> simp [foldl_retireSlots_report]
/-! ### Flags, counters, records -/

/-- Flags once raised with `f`, `enables` being the alert enables in force (R181, R183). -/
theorem setFlag_flags (f : EventFlag) (p : Part) : (setFlag f p).report.flags = p.report.flags ||| f.mask := by
  unfold setFlag changeFlags
  split
  · exact Eq.symm ‹_›
  · rfl

@[simp] theorem setFlag_queue (f : EventFlag) (p : Part) : (setFlag f p).report.queue = p.report.queue := by
  unfold setFlag changeFlags; split <;> rfl

@[simp] theorem setFlag_seq (f : EventFlag) (p : Part) : (setFlag f p).report.seq = p.report.seq := by
  unfold setFlag changeFlags; split <;> rfl

@[simp] theorem setFlag_counters (f : EventFlag) (p : Part) : (setFlag f p).report.counters = p.report.counters := by
  unfold setFlag changeFlags; split <;> rfl

theorem mask_bit (f : EventFlag) : f.mask.getLsbD f.bit = true := by
  cases f with
  | syncLost x => cases x <;> decide
  | _ => decide

theorem setFlag_bit (f : EventFlag) (p : Part) : (setFlag f p).report.flags.getLsbD f.bit = true := by
  rw [setFlag_flags, BitVec.getLsbD_or, mask_bit, Bool.or_true]

/-- A flag that is set stays set while other flags are set. -/
theorem setFlag_keeps (f : EventFlag) (i : Nat) (p : Part) (h : p.report.flags.getLsbD i = true) :
    (setFlag f p).report.flags.getLsbD i = true := by
  rw [setFlag_flags, BitVec.getLsbD_or, h, Bool.true_or]

/-- A record that finds room joins the tail (R184). -/
theorem queueRecord_room (stamp : Stamp) (take : Word) (body : RecordBody) (p : Part) (h : p.report.queue.length < 16) :
    queueRecord stamp take body p = { p with report := { p.report with
      queue := p.report.queue ++ [{ seq := p.report.seq, stamp := stamp, take := take, body := body }],
      seq := p.report.seq + 1 } } := by
  unfold queueRecord
  rw [if_pos h]
  rfl

theorem queueRecord_keeps (stamp : Stamp) (take : Word) (body : RecordBody) (i : Nat) (p : Part)
    (h : p.report.flags.getLsbD i = true) : (queueRecord stamp take body p).report.flags.getLsbD i = true := by
  unfold queueRecord
  split
  · exact h
  · exact setFlag_keeps _ _ _ h

/-- The report unit once flag `f` has been set, `enables` being the alert enables in force (R181, R183). -/
def ReportUnit.flagged (f : EventFlag) (enables : BitVec 11) (u : ReportUnit) : ReportUnit :=
  if u.flags ||| f.mask = u.flags then u
  else { u with flags := u.flags ||| f.mask, due := true, alertN := alertLevel (u.flags ||| f.mask) enables }

/-- The report unit once counter `c` has been raised by `n` (R182). -/
def ReportUnit.raised (c : Counter) (n : Nat) (u : ReportUnit) : ReportUnit :=
  { u with counters := u.counters.modify c.index (· + BitVec.ofNat 32 n) }

/-- The report unit once a record has been raised (R184). -/
def ReportUnit.queued (stamp : Stamp) (take : Word) (body : RecordBody) (enables : BitVec 11) (u : ReportUnit) : ReportUnit :=
  if u.queue.length < Config.reportDepth then
    { u with queue := u.queue ++ [{ seq := u.seq, stamp := stamp, take := take, body := body }], seq := u.seq + 1 }
  else (u.raised .recordsLost 1).flagged .reportOverflow enables

theorem setFlag_eq (f : EventFlag) (p : Part) :
    setFlag f p = { p with report := p.report.flagged f p.rig.global.alertEnables } := by
  unfold setFlag changeFlags ReportUnit.flagged
  split <;> rfl

theorem raiseBy_eq (c : Counter) (n : Nat) (p : Part) : raiseBy c n p = { p with report := p.report.raised c n } := rfl

theorem raise_eq (c : Counter) (p : Part) : raise c p = { p with report := p.report.raised c 1 } := rfl

theorem queueRecord_eq (stamp : Stamp) (take : Word) (body : RecordBody) (p : Part) :
    queueRecord stamp take body p = { p with report := p.report.queued stamp take body p.rig.global.alertEnables } := by
  unfold queueRecord ReportUnit.queued
  rw [setFlag_eq]
  split <;> rfl

theorem index_injective (c d : Counter) (h : c.index = d.index) : c = d := by
  cases c with
  | lost r => cases d with
    | lost q => cases r <;> cases q <;> first | rfl | exact absurd h (by decide)
    | discarded q => cases r <;> cases q <;> exact absurd h (by decide)
    | periodFaults q => cases r <;> cases q <;> exact absurd h (by decide)
    | _ => cases r <;> exact absurd h (by decide)
  | discarded r => cases d with
    | lost q => cases r <;> cases q <;> exact absurd h (by decide)
    | discarded q => cases r <;> cases q <;> first | rfl | exact absurd h (by decide)
    | periodFaults q => cases r <;> cases q <;> exact absurd h (by decide)
    | _ => cases r <;> exact absurd h (by decide)
  | periodFaults r => cases d with
    | lost q => cases r <;> cases q <;> exact absurd h (by decide)
    | discarded q => cases r <;> cases q <;> exact absurd h (by decide)
    | periodFaults q => cases r <;> cases q <;> first | rfl | exact absurd h (by decide)
    | _ => cases r <;> exact absurd h (by decide)
  | _ => cases d with
    | lost q => cases q <;> exact absurd h (by decide)
    | discarded q => cases q <;> exact absurd h (by decide)
    | periodFaults q => cases q <;> exact absurd h (by decide)
    | _ => first | rfl | exact absurd h (by decide)

theorem index_lt (c : Counter) : c.index < 20 := by
  cases c with
  | lost r => cases r <;> decide
  | discarded r => cases r <;> decide
  | periodFaults x => cases x <;> decide
  | _ => decide

/-- Raising a counter changes that counter only (R182). -/
theorem raiseBy_count (c d : Counter) (n : Nat) (p : Part) (h : p.report.counters.length = 20) :
    (raiseBy c n p).count d = if d = c then p.count d + BitVec.ofNat 32 n else p.count d := by
  have hl := index_lt d
  unfold Part.count raiseBy Part.onReport
  simp only [List.getD_eq_getElem?_getD, List.getElem?_modify]
  by_cases hcd : d = c
  · subst hcd
    simp [h, hl]
  · have : c.index ≠ d.index := fun e => hcd (index_injective _ _ e).symm
    simp [hcd, this]

@[simp] theorem raiseBy_length (c : Counter) (n : Nat) (p : Part) :
    (raiseBy c n p).report.counters.length = p.report.counters.length := by
  simp [raiseBy, Part.onReport]

@[simp] theorem raiseBy_flags (c : Counter) (n : Nat) (p : Part) : (raiseBy c n p).report.flags = p.report.flags := rfl

@[simp] theorem raiseBy_queue (c : Counter) (n : Nat) (p : Part) : (raiseBy c n p).report.queue = p.report.queue := rfl

/-! ### Entries of the request table -/

theorem unusedEntry_lt (p : Part) (e : Nat) (h : unusedEntry p = some e) : e < p.req.table.length := (firstIndex_lt _ _ _ h).1

theorem entry_of_get (p : Part) (e : Nat) (v : Entry) (h : p.entry e = some v) : e < p.req.table.length := by
  unfold Part.entry at h
  rw [List.getD_eq_getElem?_getD] at h
  by_contra hn
  rw [List.getElem?_eq_none (by omega)] at h
  cases h

theorem modify_entry (p : Part) (e : Nat) (v : Entry) (f : Entry → Entry) (h : p.entry e = some v) :
    p.req.table.modify e (Option.map f) = p.req.table.set e (some (f v)) := by
  have hlt := entry_of_get p e v h
  unfold Part.entry at h
  rw [List.getD_eq_getElem?_getD] at h
  apply List.ext_getElem?
  intro i
  rw [List.getElem?_modify, List.getElem?_set]
  by_cases hi : e = i
  · subst hi
    have : p.req.table[e]? = some (some v) := by
      rw [List.getElem?_eq_getElem hlt] at h ⊢
      simpa using h
    rw [this]
    simp [hlt]
  · simp [hi]

/-- An entry that finishes becomes RETURNING, the last in line (R143, R155). -/
theorem finishEntry_eq (e : Nat) (code : Code) (data : List Byte) (p : Part) (v : Entry) (h : p.entry e = some v) :
    finishEntry e code data p = { p with req := { p.req with
      table := p.req.table.set e (some { v with state := .returning, outstanding := 0, code := code, data := data })
      returning := p.req.returning ++ [e] } } := by
  unfold finishEntry Part.onEntry Part.onReq
  simp only
  rw [modify_entry p e v _ h]

/-- An answer at once: the entry returns with the code, a READ's data in the fill pattern (R148, R154). -/
theorem answerAtOnce_eq (e : Nat) (code : Code) (p : Part) (v : Entry) (h : p.entry e = some v) :
    answerAtOnce e code p = { p with req := { p.req with
      table := p.req.table.set e (some { v with
        state := .returning, outstanding := 0, code := code,
        data := if v.kind = .read then fillBytes p.rig.global.fill v.addr.toNat v.length else [] })
      returning := p.req.returning ++ [e] } } := by
  unfold answerAtOnce
  rw [h]
  exact finishEntry_eq _ _ _ _ _ h

/-- A group handed on joins the issue list, and its entry waits for a result for each piece (R148, R159). -/
theorem handOn_eq (e : Nat) (code : Code) (data : List Byte) (pieces : List Piece) (p : Part) (v : Entry)
    (h : p.entry e = some v) :
    handOn e code data pieces p = { p with
      req := { p.req with
        table := p.req.table.set e
          (some { v with state := .inProgress, outstanding := pieces.length, code := code, data := data }) }
      txn := { p.txn with issue := p.txn.issue ++ [pieces] } } := by
  unfold handOn Part.onEntry Part.onReq Part.onTxn
  simp only
  rw [modify_entry p e v _ h]

/-! ### The head of the intake queue -/

/-- The part once the head of the intake queue has been taken into entry `e`. -/
def Part.taken (p : Part) (e : Nat) (v : Entry) : Part := { p with req := p.req.waiting e v }

theorem entry_taken (p : Part) (e : Nat) (v : Entry) (h : unusedEntry p = some e) : (p.taken e v).entry e = some v := by
  have hlt := unusedEntry_lt p e h
  unfold Part.taken RequestPath.waiting Part.entry
  simp [List.getD_eq_getElem?_getD, hlt]

theorem isDuplicate_popIntake (p : Part) (q : Request) : isDuplicate (popIntake p) q = isDuplicate p q := rfl

theorem classRanges_of_rig (p q : Part) (h : q.rig = p.rig) : classRanges q = classRanges p := by
  unfold classRanges rigRegion Part.eyeSettings
  rw [h]

theorem classRanges_popIntake (p : Part) : classRanges (popIntake p) = classRanges p := classRanges_of_rig _ _ rfl

theorem classify_popIntake (p : Part) (q : Request) : classify (popIntake p) q = classify p q := by
  unfold classify
  rw [classRanges_popIntake]

theorem isRefused_popIntake (p : Part) (q : Request) : isRefused (popIntake p) q = isRefused p q := by
  unfold isRefused
  rw [isDuplicate_popIntake, classify_popIntake]
  rfl

theorem popIntake_setEntry (p : Part) (e : Nat) (v : Entry) : (popIntake p).setEntry e (some v) = p.taken e v := rfl

/-- A request that passes the checks goes to the owner of its class (R144, R148). -/
theorem handleHead_accepts (row : Part → Request → Bool) (p : Part) (q : Request) (e : Nat) (cls : ReqClass) (o : Nat)
    (h : p.Accepts q e cls o) (hr : row p q = true) :
    handleHead row p = toOwner e q cls o (p.taken e (entryOf q cls (entryOffset cls o))) := by
  obtain ⟨⟨hq, he⟩, hp, base, hc, ho⟩ := h
  unfold handleHead
  cases hi : p.req.intake with
  | nil => rw [hi] at hq; cases hq
  | cons a rest =>
    rw [hi] at hq
    cases hq
    simp only [he, hr, if_true]
    unfold handleRequest
    rw [isRefused_popIntake, classify_popIntake, hp, hc]
    subst ho
    simp only [popIntake_setEntry]

/-- A request that fails a check is refused (R144). -/
theorem handleHead_refuses (row : Part → Request → Bool) (p : Part) (q : Request) (e : Nat) (h : p.Head q e)
    (hf : isRefused p q = true) (hr : row p q = true) :
    handleHead row p = raise .rejected (answerAtOnce e .rejected (p.taken e (entryOf q (refusedClass p q) 0))) := by
  obtain ⟨hq, he⟩ := h
  unfold handleHead
  cases hi : p.req.intake with
  | nil => rw [hi] at hq; cases hq
  | cons a rest =>
    rw [hi] at hq
    cases hq
    simp only [he, hr, if_true]
    unfold handleRequest
    rw [isRefused_popIntake, hf]
    unfold refuseRequest refusedClass
    rw [classify_popIntake]
    simp only [popIntake_setEntry]

end Sys2Proof.Machine
end

