-- ==== Sys2Proof/Laws/StepMoves.lean ====
section
/-! SUPPORT. A property that survives the elementary moves of every block survives every step: one walk through the commands,
for the properties that rest on a few fields only. -/

namespace Sys2Proof.Machine

/-- The moves of a property that rests on the settings in force, the pair queue, the readers' last-taken numbers and PRDY at most:
every other change of a block is free. -/
structure LooseMoves (J I : Part → Prop) : Prop extends FrameMoves J I where
  sync : ∀ p f, I p → I (p.onSync f)
  stream : ∀ p x f, I p → I (p.onStream x f)
  req : ∀ p f, I p → I (p.onReq f)
  txn : ∀ p f, I p → I (p.onTxn f)
  skew : ∀ p f, I p → I (p.onSkew f)
  report : ∀ p f, I p → I (p.onReport f)
  sect : ∀ p k f, I p → I (p.onSection k f)
  syncSettings : ∀ p y, I p → I (p.onRig fun u => { u with sync := y })
  running : ∀ p, I p → I (p.onRig fun u => { u with partState := .running })
  loadIndex : ∀ p k, I p → I (p.onRig fun u => { u with loadIndex := k })
  eyeSettings : ∀ p x e, validateEye p x (p.staged (.eye x)) = .ok e → I p → I (p.onRig fun u => { u with eye := u.eye.set x e })
  latchGlobal : ∀ p b, I p → I (latchGlobal b p)
  time : ∀ p n, I p → I (passTime n p)
  pulseEnd : ∀ p, p.pairs.prdyPulse.isRunning = true → I p → I (endPrdyPulse p)
  released : ∀ p, I p → I { p with resetAsserted := false }

namespace LooseMoves

variable {J I : Part → Prop} (m : LooseMoves J I)
include m

theorem skewMoves : SkewMoves J I := { m.toReaderMoves with skew := fun p f _ h => m.skew p f h }

theorem onExpiry (t : Timer) (f : Part → Part) (hf : ∀ p, I p → I (f p)) (p : Part) (h : I p) : I (onExpiry t f p) := by
  unfold Machine.onExpiry
  split
  · exact h
  · exact hf _ (m.time _ _ h)

/-! ### Sections -/

theorem onEverySection (p : Part) (f : Section → SectionShadow → SectionShadow) (h : I p) : I (p.onEverySection f) :=
  ReaderMoves.foldl _ (fun q k hq => m.sect q k (f k) hq) _ _ h

theorem latchEye (x : Eye) (p : Part) (h : I p) : I (latchEye x p).1 := by
  unfold Machine.latchEye
  split
  · exact m.rejectSection _ _ _ _ h
  · rename_i e he
    have h1 := m.post _ (.eye x) .unposted (m.eyeSettings p x e he h)
    unfold putEye
    dsimp only
    split
    · exact h1
    · exact m.slots _ _ _ h1

theorem latchEyeIdle (x : Eye) (p : Part) (h : I p) : I (latchEyeIdle x p) := by
  have h1 := m.latchEye x p h
  unfold Machine.latchEyeIdle
  split <;> rename_i heq <;> rw [heq] at h1
  · exact h1
  · exact m.stream _ _ _ h1

theorem moveTrim (t : Int) (p : Part) (h : I p) : I (moveTrim t p) := by
  unfold Machine.moveTrim
  split
  · exact h
  · exact m.skewMoves.tellSender _ (m.skew _ _ h)

theorem rejudge (old : SyncSettings) (p : Part) (h : I p) : I (rejudge old p) := by
  refine m.skewMoves.judgeIfMeasured _ ?_
  split
  · exact h
  · exact m.skew _ _ h

theorem latchSync (b : Bool) (p : Part) (h : I p) : I (latchSync b p) := by
  unfold Machine.latchSync
  split
  · exact m.rejectSection _ _ _ _ h
  · have h1 := fun y => m.rejudge p.rig.sync _ (m.post _ .sync .unposted (m.syncSettings p y h))
    dsimp only
    split
    · unfold skewOnLoadLatch
      dsimp only
      split
      · exact h1 _
      · exact m.skew _ _ (m.skew _ _ (h1 _))
    · unfold skewOnLatch
      dsimp only
      split
      · exact h1 _
      · exact m.moveTrim _ _ (m.skew _ _ (h1 _))

theorem latchIfDue (k : Section) (p : Part) (h : I p) : I (latchIfDue k p) := by
  unfold Machine.latchIfDue
  split
  · exact m.latchGlobal _ _ h
  · exact m.latchSync _ _ h
  · split
    · exact m.latchEyeIdle _ _ h
    · exact h
  · split
    · exact m.latchReader _ _ h
    · exact h

theorem treatSection (o n : Nat) (p : Part) (k : Section) (h : I p) : I (treatSection o n p k) := by
  unfold Machine.treatSection
  split
  · unfold postSection
    split
    · exact m.latchIfDue _ _ (m.post _ _ _ h)
    · exact m.rejectSection _ _ _ _ h
  · split
    · exact m.post _ _ _ h
    · exact h

theorem rigUnitWrite (o : Nat) (data : List Byte) (p : Part) (h : I p) : I (rigUnitWrite o data p) := by
  have h1 : I (treatSections o data.length (writeShadow o data p)) := by
    have h0 := m.onEverySection p (SectionShadow.write (p.rig.partState == .loading) o data) h
    unfold treatSections
    split
    · exact h0
    · exact ReaderMoves.foldl _ (fun _ _ hp => m.treatSection _ _ _ _ hp) _ _ h0
  unfold Machine.rigUnitWrite clearEvents clearFlags changeFlags evaluateAlert
  split
  · split
    · exact h1
    · exact m.report _ _ (m.report _ _ h1)
  · exact h1

theorem latchAtLoadEnd (k : Section) (p : Part) (h : I p) : I (latchAtLoadEnd k p) := by
  unfold Machine.latchAtLoadEnd
  split
  · exact m.latchGlobal _ _ h
  · exact m.latchSync _ _ h
  · exact m.latchEyeIdle _ _ h
  · exact m.latchReader _ _ h

theorem loadSection (p : Part) (k : Section) (h : I p) : I (loadSection p k) := by
  unfold Machine.loadSection
  split
  · exact m.rejectSection _ _ _ _ h
  · split
    · exact m.latchAtLoadEnd _ _ h
    · exact m.rejectSection _ _ _ _ h

theorem becomeRunning (p : Part) (h : I p) : I (becomeRunning p) := m.report _ _ (m.running _ h)

theorem sendTrimStart (p : Part) (h : I p) : I (sendTrimStart p) :=
  m.skewMoves.startTrimWord _ (m.skew _ _ h)

theorem endLoad (p : Part) (h : I p) : I (endLoad p) := by
  have h1 : I (Section.all.foldl Machine.loadSection p) :=
    ReaderMoves.foldl Machine.loadSection (fun q k hq => m.loadSection q k hq) _ p h
  exact m.becomeRunning _ (m.sendTrimStart _ (m.onEverySection _ (fun _ => SectionShadow.clearMarks) h1))

theorem offerInjected (o : Injector) (k : Kind) (a n : Nat) (d : List Byte) (p : Part) (h : I p) :
    I (offerInjected o k a n d p) := m.txn _ _ h

theorem offerLoadRead (k : Nat) (p : Part) (h : I p) : I (offerLoadRead k p) := m.offerInjected _ _ _ _ _ _ (m.loadIndex _ _ h)

theorem loadReadResult (r : MResult) (p : Part) (h : I p) : I (loadReadResult r p) := by
  have h1 := m.onEverySection p (SectionShadow.load (p.rig.loadIndex * Config.loadReadBytes) r) h
  unfold Machine.loadReadResult
  dsimp only
  split
  · exact m.offerLoadRead _ _ h1
  · exact m.endLoad _ h1

/-! ### Capture streams -/

theorem settleCursor (x : Eye) (i c : Nat) (p : Part) (h : I p) : I (settleCursor x i c p) := by
  unfold Machine.settleCursor
  dsimp only
  split
  · exact m.stream _ _ _ (m.endReached _ _ _ (m.stream _ _ _ h))
  · exact m.stream _ _ _ h

theorem discardWrite (r : DiscardReason) (e : Nat) (p : Part) (h : I p) : I (discardWrite r e p) :=
  m.raise _ _ (m.answerAtOnce _ _ _ h)

theorem forwardWrite (x : Eye) (i : Nat) (w : CaptureWrite) (p : Part) (h : I p) : I (forwardWrite x i w p) := by
  have h1 : I (countOverrun (p.stream x).geom w (raiseBy .clippedBytes (clippedBytes (cutOf p x i w)) p)) := by
    unfold countOverrun
    split
    · exact m.raise _ _ (m.count _ _ _ h)
    · exact m.count _ _ _ h
  unfold Machine.forwardWrite
  dsimp only
  split
  · exact m.answerAtOnce _ _ _ h1
  · exact m.handOn _ _ _ _ _ (m.onSlot _ _ _ _ h1)

theorem judgeOpen (x : Eye) (i : Nat) (w : CaptureWrite) (p : Part) (h : I p) : I (judgeOpen x i w p) := by
  unfold Machine.judgeOpen
  dsimp only
  split
  · exact m.settleCursor _ _ _ _ (m.raise _ _ (m.answerAtOnce _ _ _ (m.onSlot _ _ _ _ h)))
  · split
    · exact m.settleCursor _ _ _ _ (m.discardWrite _ _ _ (m.onSlot _ _ _ _ h))
    · exact m.settleCursor _ _ _ _ (m.forwardWrite _ _ _ _ (m.onSlot _ _ _ _ h))

theorem streamWrite (x : Eye) (w : CaptureWrite) (p : Part) (h : I p) : I (streamWrite x w p) := by
  unfold Machine.streamWrite
  split
  · exact m.judgeOpen _ _ _ _ h
  all_goals exact m.discardWrite _ _ _ h

theorem dropOpenFrame (x : Eye) (r : LostReason) (p : Part) (h : I p) : I (dropOpenFrame x r p) := by
  unfold Machine.dropOpenFrame
  split
  · exact m.stream _ _ _ (m.abandon _ _ _ _ h)
  · exact h

theorem openFrame (x : Eye) (stamp : Stamp) (p : Part) (h : I p) : I (openFrame x stamp p) := by
  have h1 := m.requestSlot (numberFrame x p) x ((numberFrame x p).stream x).frameNumber stamp
    ((numberFrame x p).stream x).geom (m.stream _ _ _ h)
  unfold Machine.openFrame placeFrame
  dsimp only
  split
  · exact m.stream _ _ _ h1
  · exact m.stream _ _ _ h1

theorem takeFrameStart (x : Eye) (stamp : Stamp) (p : Part) (h : I p) : I (takeFrameStart x stamp p) := by
  have h0 : I (frameStartLatch x p).1 := by
    have h1 := m.latchEye x p h
    unfold frameStartLatch
    split
    · exact h1
    · exact h
  have h1 := m.dropOpenFrame x .truncated _ h0
  unfold Machine.takeFrameStart
  dsimp only
  split
  · exact m.stream _ _ _ h1
  · exact m.openFrame _ _ _ h1

theorem frameStart (x : Eye) (p : Part) (h : I p) : I (frameStart x p) := by
  unfold Machine.frameStart
  split
  · split
    · exact m.sync _ _ h
    · exact m.takeFrameStart _ _ _ (m.sync _ _ h)
  · exact h

theorem lockGained (x : Eye) (p : Part) (h : I p) : I (lockGained x p) := by
  unfold Machine.lockGained
  split
  · exact m.stream _ _ _ (m.sync _ _ h)
  · exact h

theorem lockLost (x : Eye) (p : Part) (h : I p) : I (lockLost x p) := by
  unfold Machine.lockLost streamDeparture enterWaitingSync
  split
  · split
    · exact m.sync _ _ h
    · have h0 : I (dropStreamNotice x p) := m.sync _ _ h
      have h1 := m.stream _ x (fun c => { c with state := .waitingSync, completed := false })
        (m.dropOpenFrame x .syncLost _ h0)
      dsimp only
      split
      · exact m.latchEyeIdle _ _ h1
      · exact h1
  · exact h

/-! ### The skew unit -/

theorem takeSample (d : Int) (p : Part) (h : I p) : I (takeSample d p) := by
  unfold Machine.takeSample trimUpdate
  dsimp only
  split
  · exact m.skew _ _ (m.skewMoves.judgeSaturation _ (m.moveTrim _ _ (m.skewMoves.judgeLimits _ (m.skew _ _ h))))
  · exact m.skewMoves.judgeLimits _ (m.skew _ _ h)

theorem skewPulseHandover (x : Eye) (p : Part) (h : I p) : I (skewPulseHandover x p) := by
  unfold Machine.skewPulseHandover
  split
  · unfold takePulse
    split
    · unfold acceptedPulse
      split
      · exact m.takeSample _ _ (m.skew _ _ (m.sync _ _ h))
      · exact m.skew _ _ (m.sync _ _ h)
    · exact m.sync _ _ h
    · exact m.sync _ _ h
  · exact h

theorem trimWordEnd (p : Part) (h : I p) : I (trimWordEnd p) := by
  unfold Machine.trimWordEnd
  split
  · exact m.onExpiry _ _ (fun _ hp => m.skew _ _ hp) _ h
  · exact h
  · exact h

theorem trimGapEnd (p : Part) (h : I p) : I (trimGapEnd p) := by
  unfold Machine.trimGapEnd
  split
  · refine m.onExpiry _ _ (fun q hq => ?_) _ h
    unfold endTrimGap
    dsimp only
    split
    · exact m.skew _ _ (m.skew _ _ hq)
    · exact m.skew _ _ hq
  · exact h
  · exact h

/-! ### The request path -/

theorem toOwner (e : Nat) (q : Request) (c : ReqClass) (o : Nat) (p : Part) (h : I p) : I (toOwner e q c o p) := by
  unfold Machine.toOwner
  split
  · exact m.streamWrite _ _ _ h
  · exact m.raise _ _ (m.answerAtOnce _ _ _ h)
  · exact m.readerUnitRead _ _ h
  · exact m.handOn _ _ _ _ _ (m.rigUnitWrite _ _ _ h)
  · exact m.handOn _ _ _ _ _ h
  · exact m.handOn _ _ _ _ _ h
  · exact h
  · exact h

theorem handleHead (row : Part → Request → Bool) (p : Part) (h : I p) : I (handleHead row p) := by
  have refused : ∀ e q p, I p → I (refuseRequest e q p) := fun _ _ _ hp => m.raise _ _ (m.answerAtOnce _ _ _ (m.setEntry _ _ _ hp))
  unfold Machine.handleHead
  split
  · split
    · have h1 : I (popIntake p) := m.req _ _ h
      unfold handleRequest
      split
      · exact m.toOwner _ _ _ _ _ (m.setEntry _ _ _ h1)
      · exact refused _ _ _ h1
      · exact refused _ _ _ h1
    · exact h
  · exact h

theorem acceptRequest (q : Request) (p : Part) (h : I p) : I (acceptRequest q p) := by
  unfold Machine.acceptRequest
  split
  · exact m.req _ _ h
  · exact h

theorem acceptResponse (p : Part) (h : I p) : I (acceptResponse p) := by
  unfold Machine.acceptResponse
  split
  · exact m.req _ _ (m.setEntry _ _ _ h)
  · exact h

/-! ### The sync unit -/

theorem acq (p : Part) (x : Eye) (f : AcqCtx → AcqCtx) (h : I p) : I (p.onAcq x f) := m.sync _ _ h

theorem restartLossTimer (x : Eye) (p : Part) (h : I p) : I (restartLossTimer x p) := m.acq _ _ _ h

theorem tellStream (p : Part) (x : Eye) (n : StreamNotice) (h : I p) : I (p.tellStream x n) := m.sync _ _ h

theorem tellSkew (p : Part) (x : Eye) (n : SkewNotice) (h : I p) : I (p.tellSkew x n) := m.sync _ _ h

theorem handOver (x : Eye) (s : Stamp) (o : PulseOutcome) (p : Part) (h : I p) : I (handOver x s o p) := m.tellSkew _ _ _ h

theorem departLocked (x : Eye) (c : LossCause) (a : Option Stamp) (r : Option Int) (s : Stamp) (p : Part) (h : I p) :
    I (departLocked x c a r s p) := m.record _ _ _ _ (m.flag _ _ (m.tellSkew _ _ _ (m.tellStream _ _ _ h)))

theorem pulseInAbsent (x : Eye) (s : Stamp) (p : Part) (h : I p) : I (pulseInAbsent x s p) :=
  m.handOver _ _ _ _ (m.restartLossTimer _ _ (m.acq _ _ _ h))

theorem pulseInAcquiring (x : Eye) (l s : Stamp) (p : Part) (h : I p) : I (pulseInAcquiring x l s p) := by
  have h1 := m.restartLossTimer x p h
  unfold Machine.pulseInAcquiring
  dsimp only
  refine m.handOver _ _ _ _ ?_
  exact keeps_ite (I := I) (m.tellSkew _ _ _ (m.tellStream _ _ _ (m.acq _ _ _ h1))) (m.acq _ _ _ h1)

theorem acceptPulse (x : Eye) (s : Stamp) (d : Int) (p : Part) (h : I p) : I (acceptPulse x s d p) :=
  m.handOver _ _ _ _ (m.tellStream _ _ _ (m.restartLossTimer _ _ (m.acq _ _ _ h)))

theorem periodFault (x : Eye) (s : Stamp) (p : Part) (h : I p) : I (periodFault x s p) := by
  have h1 := m.raise _ (.periodFaults x) (m.restartLossTimer x p h)
  unfold Machine.periodFault
  refine m.handOver _ _ _ _ ?_
  split
  · exact m.acq _ _ _ h1
  · exact m.departLocked _ _ _ _ _ _ (m.acq _ _ _ (m.acq _ _ _ h1))

theorem judgePulse (x : Eye) (s : Stamp) (p : Part) (h : I p) : I (judgePulse x s p) := by
  unfold Machine.judgePulse
  dsimp only
  split
  · exact m.pulseInAbsent _ _ _ h
  · split
    · exact m.pulseInAcquiring _ _ _ _ h
    · exact m.pulseInAbsent _ _ _ h
  · split
    · unfold pulseInLocked
      dsimp only
      split
      · exact m.acceptPulse _ _ _ _ h
      · exact m.periodFault _ _ _ h
    · exact m.pulseInAbsent _ _ _ h

theorem fsyncPulse (x : Eye) (t : Stamp) (p : Part) (h : I p) : I (fsyncPulse x t p) := by
  unfold Machine.fsyncPulse
  split
  · exact h
  · exact m.judgePulse _ _ _ (m.sync _ _ (m.time _ _ h))

theorem syncLossTimerExpiry (x : Eye) (p : Part) (h : I p) : I (syncLossTimerExpiry x p) := by
  refine m.onExpiry _ _ (fun q hq => ?_) _ h
  unfold loseSync
  dsimp only
  split
  · exact m.departLocked _ _ _ _ _ _ (m.sync _ _ hq)
  · exact m.sync _ _ hq

/-! ### The report unit and the transaction unit -/

theorem statusWriteOffer (p : Part) (h : I p) : I (statusWriteOffer p) := by
  unfold Machine.statusWriteOffer
  split
  · exact m.report _ _ (m.offerInjected _ _ _ _ _ _ h)
  · exact h

theorem recordWriteOffer (p : Part) (h : I p) : I (recordWriteOffer p) := by
  unfold Machine.recordWriteOffer
  split
  · split
    · exact m.report _ _ (m.offerInjected _ _ _ _ _ _ h)
    · exact h
  · exact h

theorem takeResult (t : Nat) (te : TagEntry) (r : MResult) (p : Part) (h : I p) : I (takeResult t te r p) := by
  have deliver : ∀ q, I q → I (deliverResult te r q) := by
    intro q hq
    unfold deliverResult
    split
    · exact m.slotResult _ _ _ (m.entryResult _ _ _ _ _ hq)
    · unfold injectedResult
      split
      · exact m.report _ _ hq
      · exact m.raise _ _ (m.report _ _ hq)
      · exact m.loadReadResult _ _ hq
  have event : ∀ q, I q → I (resultEvent t te r q) := by
    have fault : ∀ c q, I q → I (memoryFaultEvent c t te q) := by
      intro c q hq
      unfold memoryFaultEvent
      dsimp only
      split
      · exact m.flag _ _ (m.raise _ _ hq)
      · exact m.record _ _ _ _ (m.flag _ _ (m.raise _ _ hq))
    intro q hq
    unfold resultEvent
    split
    · exact hq
    · exact fault _ _ hq
    · exact fault _ _ hq
  unfold Machine.takeResult
  split
  · exact deliver _ (event _ h)
  · exact event _ (deliver _ h)

theorem takeResponse (r : MResponse) (p : Part) (h : I p) : I (takeResponse r p) := by
  unfold Machine.takeResponse
  split
  · exact m.raise _ _ h
  · split
    · exact m.raise _ _ h
    · exact m.txn _ _ (m.takeResult _ _ _ _ h)
    · unfold lateResponse
      refine m.txn _ _ ?_
      split
      · exact m.onSlot _ _ _ _ (m.raise _ _ h)
      · exact m.raise _ _ h

theorem mTimeoutExpiry (t : Nat) (p : Part) (h : I p) : I (mTimeoutExpiry t p) := by
  unfold Machine.mTimeoutExpiry
  split
  · exact h
  · split
    · exact m.onExpiry _ _ (fun _ hq => m.takeResult _ _ _ _ (m.txn _ _ hq)) _ h
    · exact h
    · exact h

theorem prdyPulseEnd (p : Part) (h : I p) : I (prdyPulseEnd p) := by
  unfold Machine.prdyPulseEnd Machine.onExpiry
  split
  · exact h
  · rename_i r hr
    refine m.pulseEnd _ ?_ (m.time _ _ h)
    unfold passTime
    split <;> simp [hr, Timer.isRunning, Timer.passes]

theorem parkTimerExpiry (e : Nat) (p : Part) (h : I p) : I (parkTimerExpiry e p) := by
  unfold Machine.parkTimerExpiry
  split
  · exact h
  · exact m.onExpiry _ _ (fun _ hq => m.parkLapses _ _ hq) _ h

theorem matchTimerExpiry (x : Eye) (i : Nat) (p : Part) (h : I p) : I (matchTimerExpiry x i p) :=
  m.onExpiry _ _ (fun _ hq => m.abandon _ _ _ _ (m.setMatchTimer _ _ _ _ hq)) _ h

theorem mportAccept (p : Part) (h : I p) : I (mportAccept p) := by
  unfold Machine.mportAccept
  split
  · exact m.txn _ _ h
  · exact h

/-! ### Every step -/

theorem whenRunning (f : Part → Part) (hf : ∀ p, I p → I (f p)) (s t : State) (h : I s.hw) (ht : whenRunning f s = .next t) :
    I t.hw := by
  unfold Machine.whenRunning at ht
  cases ht
  dsimp only
  split
  · exact h
  · exact m.report _ _ (hf _ h)

theorem exec (reset : ∀ k, I (Part.reset k)) (c : Instr) (s t : State) (h : I s.hw) (ht : exec c s = .next t) : I t.hw := by
  cases c with
  | resetNAssert k =>
    cases ht
    exact reset k
  | resetNRelease =>
    cases ht
    dsimp only
    split
    · exact m.offerLoadRead _ _ (m.txn _ _ (m.released _ h))
    · exact h
  | resetQuietTimeEnd => exact m.whenRunning _ (fun p hp => m.onExpiry _ _ (fun _ hq => m.txn _ _ hq) p hp) s t h ht
  | fsyncPulse x n => exact m.whenRunning _ (m.fsyncPulse x n) s t h ht
  | syncLossTimerExpiry x => exact m.whenRunning _ (m.syncLossTimerExpiry x) s t h ht
  | frameStart x => exact m.whenRunning _ (m.frameStart x) s t h ht
  | lockGained x => exact m.whenRunning _ (m.lockGained x) s t h ht
  | lockLost x => exact m.whenRunning _ (m.lockLost x) s t h ht
  | skewPulseHandover x => exact m.whenRunning _ (m.skewPulseHandover x) s t h ht
  | skewLockNotice x =>
    refine m.whenRunning _ (fun p hp => ?_) s t h ht
    unfold skewLockNotice
    split
    · exact m.skew _ _ (m.sync _ _ hp)
    · exact hp
  | skewDepartureNotice x =>
    refine m.whenRunning _ (fun p hp => ?_) s t h ht
    unfold skewDepartureNotice
    split
    · exact m.skew _ _ (m.sync _ _ hp)
    · exact hp
  | trimWordEnd => exact m.whenRunning _ m.trimWordEnd s t h ht
  | trimGapEnd => exact m.whenRunning _ m.trimGapEnd s t h ht
  | requestAccept a b => exact m.whenRunning _ (m.acceptRequest _) s t h ht
  | captureWrite => exact m.whenRunning _ (m.handleHead _) s t h ht
  | captureRead => exact m.whenRunning _ (m.handleHead _) s t h ht
  | pairRead => exact m.whenRunning _ (m.handleHead _) s t h ht
  | rigWrite => exact m.whenRunning _ (m.handleHead _) s t h ht
  | checkWordWrite => exact m.whenRunning _ (m.handleHead _) s t h ht
  | eventClearWord => exact m.whenRunning _ (m.handleHead _) s t h ht
  | passThrough => exact m.whenRunning _ (m.handleHead _) s t h ht
  | responseAccept => exact m.whenRunning _ m.acceptResponse s t h ht
  | arbiterIssue => exact m.whenRunning _ (fun p hp => m.txn p _ hp) s t h ht
  | mportAccept => exact m.whenRunning _ m.mportAccept s t h ht
  | mportResponse a b => exact m.whenRunning _ (m.takeResponse _) s t h ht
  | mTimeout n => exact m.whenRunning _ (m.mTimeoutExpiry n) s t h ht
  | frameTimerExpiry x i =>
    exact m.whenRunning _ (fun p hp => m.onExpiry _ _ (fun _ hq => m.abandon _ _ _ _ hq) p hp) s t h ht
  | matchTimerExpiry x i => exact m.whenRunning _ (m.matchTimerExpiry x i) s t h ht
  | leaseExpiry r => exact m.whenRunning _ (fun p hp => m.onExpiry _ _ (fun _ hq => m.leaseLapses _ _ hq) p hp) s t h ht
  | parkTimerExpiry e => exact m.whenRunning _ (m.parkTimerExpiry e) s t h ht
  | prdyPulseEnd => exact m.whenRunning _ m.prdyPulseEnd s t h ht
  | statusIntervalExpiry => exact m.whenRunning _ (fun p hp => m.onExpiry _ restartInterval (fun _ hq => m.report _ _ hq) p hp) s t h ht
  | statusWriteOffer => exact m.whenRunning _ m.statusWriteOffer s t h ht
  | recordWriteOffer => exact m.whenRunning _ m.recordWriteOffer s t h ht
  | refusedRequest => exact m.whenRunning _ (m.handleHead _) s t h ht

end LooseMoves

end Sys2Proof.Machine
end

