-- ==== Sys2Proof/Laws/SettingsSteps.lean ====
section
/-! SUPPORT. Every step keeps the settings in force within their checks and their regions apart. -/

namespace Sys2Proof.Machine

/-! ### The settings in force -/

/-- Everything the settings' invariant reads. -/
def Part.settingsWatched (p : Part) := (p.rig.rigsel, p.rig.global, p.rig.eye, p.rig.reader, p.rig.windowChange)

theorem Part.RigSound.same {p q : Part} (h : p.RigSound) (e : q.settingsWatched = p.settingsWatched) : q.RigSound := by
  simp only [Part.settingsWatched, Prod.mk.injEq] at e
  obtain ⟨e1, e2, e3, e4, e5⟩ := e
  refine ⟨?_, ?_, ?_, ?_, ?_, ⟨?_, ?_, ?_, ?_⟩⟩
  · rw [e2]; exact h.global
  · rw [e5]; exact h.waiting
  · unfold Part.eyeSettings; rw [e3]; exact h.eye
  · unfold Part.readerSettings; rw [e4]; exact h.reader
  · unfold Part.readerSettings; rw [e4]; exact h.tags
  · have := h.apart.eyes
    unfold eyeRegions rigRegion Part.eyeSettings at this ⊢
    rw [e1, e3]; exact this
  · have := h.apart.windows
    unfold eyeRegions windowRegions rigRegion Part.eyeSettings at this ⊢
    rw [e1, e2, e3, e5]; exact this
  · have := h.apart.report
    unfold eyeRegions rigRegion Part.eyeSettings at this ⊢
    rw [e1, e2, e3]; exact this
  · have := h.apart.coming
    unfold comingWindow at this ⊢
    rw [e2, e5]; exact this

theorem Region.overlaps_comm (a b : Region) : a.overlaps b = b.overlaps a := by
  unfold Region.overlaps
  rw [Bool.eq_iff_iff]
  simp only [decide_eq_true_eq]
  omega

theorem parseReader_sound (ws : List Word) (v : ReaderSettings) (h : parseReader ws = some v) :
    v.sourceTag ≤ 63 ∧ (100 ≤ v.parkLimit ∧ v.parkLimit ≤ 65535) ∧ 100 ≤ v.lease ∧ v.lease ≤ 65535 := by
  unfold parseReader at h
  split at h
  · split at h
    · dsimp only at h
      split at h
      · rename_i hc
        cases h
        have h16 : ∀ (w : Word) n, field w n 16 ≤ 65535 := fun w n => by
          have := Nat.mod_lt (w.toNat / 2 ^ n) (show 0 < 2 ^ 16 by decide)
          unfold field
          omega
        exact ⟨hc.2.1, ⟨hc.2.2.1, h16 _ _⟩, hc.2.2.2, h16 _ _⟩
      · cases h
    · cases h
  · cases h

theorem validateReader_sound (p : Part) (r : ReaderId) (ws : List Word) (v : ReaderSettings)
    (h : validateReader p r ws = .ok v) :
    v.Sound ∧ (v.enabled = true → ∀ q, q ≠ r → (p.readerSettings q).enabled = true →
      (p.readerSettings q).sourceTag ≠ v.sourceTag) := by
  unfold validateReader at h
  split at h
  · cases h
  · rename_i w hw
    have hs := parseReader_sound _ _ hw
    split at h
    · cases h
    · rename_i hc
      cases h
      refine ⟨⟨hs.1, hs.2.1, hs.2.2, fun he ht => ?_⟩, fun he q hq hqe ht => ?_⟩
      · simp [he, ht] at hc
      · apply hc
        have hm : q ∈ allReaders := by cases q <;> decide
        have hn : (q != r) = true := by simpa using hq
        simp only [he, Bool.true_and, Bool.or_eq_true]
        right
        unfold tagTaken
        rw [List.any_eq_true]
        exact ⟨q, hm, by simp [hq, hqe, ht]⟩

theorem parseEye_placed (ws : List Word) (e : EyeSettings) (h : parseEye ws = some e) :
    e.captureBase % Config.page = 0 ∧ e.captureBase + Config.captureWindowBytes ≤ Config.addressSpace := by
  unfold parseEye at h
  split at h
  · split at h
    · dsimp only at h
      split at h
      · rename_i hc
        cases h
        refine ⟨by simp, ?_⟩
        have := hc.2.2
        dsimp only at this ⊢
        omega
      · cases h
    · cases h
  · cases h

theorem validateEye_placed (p : Part) (x : Eye) (ws : List Word) (e : EyeSettings) (hp : (p.eyeSettings x).Placed)
    (h : validateEye p x ws = .ok e) : e.Placed ∧ eyeOverlaps p x e = false := by
  unfold validateEye at h
  split at h
  · cases h
  · rename_i v hv
    split at h
    · cases h
    · split at h
      · cases h
      · split at h
        · cases h
        · rename_i hf
          split at h
          · cases h
          · rename_i ho
            cases h
            refine ⟨?_, by simpa using ho⟩
            simp only [poolFits, Bool.not_eq_true', Bool.not_eq_false, Bool.and_eq_true, Bool.or_eq_true, decide_eq_true_eq,
              beq_iff_eq, samePool] at hf
            obtain ⟨h1, h2⟩ := hf
            rcases h2 with ⟨⟨h3, h4⟩, h5⟩ | ⟨⟨⟨⟨⟨_, _⟩, h3⟩, h4⟩, h5⟩, h6⟩
            · exact ⟨parseEye_placed _ _ hv, by rw [h4]; exact hp.slots, h1, by rw [h3, h4, h5]; exact hp.pool⟩
            · exact ⟨parseEye_placed _ _ hv, h3, h1, h4, h5, h6⟩

theorem parseGlobal_sound (ws : List Word) (g : GlobalSettings) (h : parseGlobal ws = some g) : g.Sound := by
  unfold parseGlobal at h
  split at h
  · split at h
    · dsimp only at h
      split at h
      · rename_i hc
        cases h
        have hb : ∀ (w : Word) n b, field w n b < 2 ^ b := fun w n b => Nat.mod_lt _ (Nat.two_pow_pos b)
        obtain ⟨-, h1, h2, h3, h4, h5, h6⟩ := hc
        refine ⟨?_, ⟨h1, ?_⟩, ⟨h2, ?_⟩, h3, ⟨h4, ?_⟩, ⟨by simp, ?_⟩, by simp, ?_⟩
        · exact Nat.le_of_lt_succ (hb _ 0 16)
        · exact Nat.le_of_lt_succ (hb _ 0 16)
        · exact Nat.le_of_lt_succ (hb _ 16 16)
        · exact Nat.le_of_lt_succ (hb _ 16 8)
        · exact (Nat.add_comm _ _).trans_le h5
        · exact h6
      · cases h
    · cases h
  · cases h

theorem validateGlobal_sound (p : Part) (ws : List Word) (g : GlobalSettings) (h : validateGlobal p ws = .ok g) :
    g.Sound ∧ globalOverlaps p g = false := by
  unfold validateGlobal at h
  split at h
  · cases h
  · rename_i v hv
    split at h
    · cases h
    · rename_i ho
      cases h
      exact ⟨parseGlobal_sound _ _ hv, by simpa using ho⟩

theorem rigSound_readerSettings (p : Part) (r : ReaderId) (v : ReaderSettings)
    (hv : validateReader p r (p.staged (.reader r)) = .ok v) (h : p.RigSound) :
    (p.onRig fun u => { u with reader := u.reader.set r v }).RigSound := by
  obtain ⟨h1, h2⟩ := validateReader_sound _ _ _ _ hv
  have hget : ∀ q, (p.onRig fun u => { u with reader := u.reader.set r v }).readerSettings q =
      if q = r then v else p.readerSettings q := fun q => by cases q <;> cases r <;> rfl
  refine ⟨h.global, h.waiting, h.eye, fun q => ?_, fun q k hqk hq hk => ?_, ⟨h.apart.eyes, h.apart.windows, h.apart.report,
    h.apart.coming⟩⟩
  · rw [hget]
    split
    · exact h1
    · exact h.reader q
  · rw [hget] at hq hk ⊢
    rw [hget]
    split at hq <;> split at hk
    · exact absurd (by simp_all) hqk
    · simp only [*, if_true, if_false]
      exact fun ht => h2 hq k ‹_› hk ht.symm
    · simp only [*, if_true, if_false]
      exact h2 hk q ‹_› hq
    · simp only [*, if_false]
      exact h.tags q k hqk hq hk

theorem rigSound_window (p : Part) (w : WindowChange) (hw : p.rig.windowChange = some w) (h : p.RigSound) :
    (p.onRig fun u =>
      { u with global := { u.global with windowBase := w.base, layout := w.layout }, windowChange := none }).RigSound := by
  have hc := h.apart.coming
  unfold comingWindow at hc
  rw [hw] at hc
  have ha := h.apart.windows { base := w.base, size := Config.pairWindowBytes } (by simp [windowRegions, hw])
  refine ⟨{ h.global with window := h.waiting w hw }, fun v hv => (by cases hv), h.eye, h.reader, h.tags, h.apart.eyes, ?_,
    h.apart.report, hc⟩
  intro a hmem
  have : a = { base := w.base, size := Config.pairWindowBytes } := by
    simpa [windowRegions, windowRegion] using hmem
  subst this
  exact ha

theorem rigSound_raiseBy (p : Part) (c : Counter) (n : Nat) (h : p.RigSound) : (raiseBy c n p).RigSound := h.same rfl

theorem rigSound_setFlag (p : Part) (f : EventFlag) (h : p.RigSound) : (setFlag f p).RigSound := by
  unfold setFlag changeFlags
  split
  · exact h
  · exact h.same rfl

theorem rigSoundFree : FreeMoves Part.RigSound where
  pairs _ _ _ _ h := h.same rfl
  prdy _ h := by unfold evaluatePrdy; split <;> exact h.same rfl
  ready _ h := by unfold prdyOnReady evaluatePrdy; split <;> (try split) <;> exact h.same rfl
  slots _ _ _ h := h.same rfl
  ctx _ _ h := h.same rfl
  park _ _ _ h := h.same rfl
  table _ _ _ h := h.same rfl
  returning _ _ h := h.same rfl
  issue _ _ h := h.same rfl
  count p c n h := rigSound_raiseBy p c n h
  record p s t b h := by
    unfold queueRecord
    split
    · exact h.same rfl
    · exact rigSound_setFlag _ _ (rigSound_raiseBy _ _ _ h)
  flag p f h := rigSound_setFlag p f h
  post _ _ _ h := h.same rfl
  readerSettings p r v hv h := rigSound_readerSettings p r v hv h
  window p w hw h := rigSound_window p w hw h

theorem rigSoundSkew : SkewMoves Part.RigSound Part.RigSound :=
  { rigSoundFree.moves with skew := fun _ _ _ h => h.same rfl }

theorem rigSound_eyeSettings (p : Part) (x : Eye) (e : EyeSettings) (he : validateEye p x (p.staged (.eye x)) = .ok e)
    (h : p.RigSound) : (p.onRig fun u => { u with eye := u.eye.set x e }).RigSound := by
  obtain ⟨h1, h2⟩ := validateEye_placed p x _ e (h.eye x) he
  have hget : ∀ y, (p.onRig fun u => { u with eye := u.eye.set x e }).eyeSettings y = if y = x then e else p.eyeSettings y :=
    fun y => by cases x <;> cases y <;> rfl
  simp only [eyeOverlaps, Bool.or_eq_false_iff, List.any_eq_false, List.mem_append, Bool.not_eq_true] at h2
  obtain ⟨⟨hself, hcap⟩, hpool⟩ := h2
  have hcap2 := fun a ha => (Region.overlaps_comm a _).trans (hcap a ha)
  have hpool2 := fun a ha => (Region.overlaps_comm a _).trans (hpool a ha)
  have hp := h.apart.eyes
  refine ⟨h.global, h.waiting, fun y => ?_, h.reader, h.tags, ?_, ?_, ?_, h.apart.coming⟩
  · rw [hget]
    split
    · exact h1
    · exact h.eye y
  · unfold eyeRegions at hp ⊢
    rw [hget, hget]
    simp only [List.pairwise_cons, List.mem_cons, List.not_mem_nil, or_false, forall_eq_or_imp, forall_eq] at hp ⊢
    cases x <;> simp_all [Eye.other, rigRegion]
  · intro w hw a ha
    have hold := h.apart.windows w hw
    unfold eyeRegions at hold ha
    rw [hget, hget] at ha
    have hcw := hcap w (Or.inr hw)
    have hpw := hpool w (Or.inr hw)
    simp only [List.mem_cons, List.not_mem_nil, or_false, forall_eq_or_imp, forall_eq] at hold ha
    cases x <;> simp_all [rigRegion] <;> rcases ha with rfl | rfl | rfl | rfl | rfl <;> simp_all
  · intro a ha
    have hold := h.apart.report
    unfold eyeRegions at hold ha
    rw [hget, hget] at ha
    have hcw := hcap (reportRegion p.rig.global) (Or.inl (by simp))
    have hpw := hpool (reportRegion p.rig.global) (Or.inl (by simp))
    simp only [List.mem_cons, List.not_mem_nil, or_false, forall_eq_or_imp, forall_eq] at hold ha
    cases x <;> simp_all [rigRegion] <;> rcases ha with rfl | rfl | rfl | rfl | rfl <;> simp_all

theorem rigSound_latchGlobal (b : Bool) (p : Part) (h : p.RigSound) : (latchGlobal b p).RigSound := by
  unfold latchGlobal
  split
  · exact rigSoundFree.moves.rejectSection _ _ _ _ h
  · rename_i g hg
    obtain ⟨h1, h2⟩ := validateGlobal_sound _ _ _ hg
    refine rigSoundSkew.globalOnLatch (fun _ _ _ h => h.same rfl) (fun _ h => h.same rfl) (fun _ h => h.same rfl)
      (fun _ h => h.same rfl) _ _ _ (Part.RigSound.same (p := p.onRig fun u =>
        { u with global := latchedGlobal p g, windowChange := latchedWindow p g }) ?_ rfl)
    simp only [globalOverlaps, Bool.or_eq_false_iff, List.any_eq_false, Bool.not_eq_true] at h2
    obtain ⟨⟨hself, hwin⟩, hrep⟩ := h2
    have hc := Region.overlaps_comm
    have hactive := h.apart.windows (windowRegion p.rig.global) (by simp [windowRegions])
    by_cases hb : anyBusy p = true
    · have hlg : latchedGlobal p g = { g with windowBase := p.rig.global.windowBase, layout := p.rig.global.layout } := by
        simp [latchedGlobal, hb]
      have hlw : latchedWindow p g =
          if g.windowBase ≠ p.rig.global.windowBase ∨ g.layout ≠ p.rig.global.layout then
            some { base := g.windowBase, layout := g.layout } else none := by
        simp [latchedWindow, hb]
      rw [hlg, hlw]
      refine ⟨{ h1 with window := h.global.window }, ?_, h.eye, h.reader, h.tags, h.apart.eyes, ?_, ?_, ?_⟩
      · intro w hw
        dsimp only [Part.onRig] at hw
        split at hw
        · cases hw; exact h1.window
        · cases hw
      · intro w hw a ha
        have ha' : a ∈ eyeRegions p := ha
        simp only [windowRegions, Part.onRig_rig, List.mem_cons] at hw
        rcases hw with rfl | hw
        · exact hactive a ha'
        · split at hw
          · rename_i w2 hw2
            split at hw2
            · cases hw2
              simp only [List.mem_cons, List.not_mem_nil, or_false] at hw
              subst hw
              have := hwin a ha'
              rw [hc] at this
              exact this
            · cases hw2
          · cases hw
      · intro a ha
        have := hrep a ha
        rw [hc] at this
        exact this
      · unfold comingWindow
        simp only [Part.onRig_rig]
        split
        · rename_i w2 hw2
          split at hw2
          · cases hw2; exact hself
          · cases hw2
        · rename_i hw2
          split at hw2
          · cases hw2
          · rename_i hn
            have : g.windowBase = p.rig.global.windowBase := by
              by_contra hne
              exact hn (Or.inl hne)
            have hself' : (windowRegion { g with windowBase := p.rig.global.windowBase, layout := p.rig.global.layout }) =
                windowRegion g := by
              unfold windowRegion; rw [this]
            rw [hself']
            exact hself
    · have hlg : latchedGlobal p g = g := by simp [latchedGlobal, hb]
      have hlw : latchedWindow p g = none := by simp [latchedWindow, hb]
      rw [hlg, hlw]
      refine ⟨h1, fun w hw => (by cases hw), h.eye, h.reader, h.tags, h.apart.eyes, ?_, ?_, hself⟩
      · intro w hw a ha
        have : w = windowRegion g := by simpa [windowRegions] using hw
        subst this
        rw [hc]
        exact hwin a ha
      · intro a ha
        rw [hc]
        exact hrep a ha

theorem rigSoundLoose : LooseMoves Part.RigSound Part.RigSound where
  toReaderMoves := rigSoundFree.moves
  abandoned _ _ _ h := h.same rfl
  sync _ _ h := h.same rfl
  stream _ _ _ h := h.same rfl
  req _ _ h := h.same rfl
  txn _ _ h := h.same rfl
  skew _ _ h := h.same rfl
  report _ _ h := h.same rfl
  sect _ _ _ h := h.same rfl
  syncSettings _ _ h := h.same rfl
  running _ h := h.same rfl
  loadIndex _ _ h := h.same rfl
  eyeSettings := rigSound_eyeSettings
  latchGlobal p b h := rigSound_latchGlobal b p h
  time p n h := by unfold passTime; split; exacts [h, h.same rfl]
  pulseEnd _ _ h := h.same rfl
  released _ h := h.same rfl

theorem rigSound_reset (k : BitVec 3) : (Part.reset k).RigSound := by
  have hg : GlobalSettings.default.Sound :=
    ⟨by decide, by decide, by decide, by decide, by decide, by decide, by decide⟩
  refine ⟨hg, fun w hw => (by cases hw), fun x => ?_, fun r => ?_, fun r q _ hr => ?_, ?_⟩
  · have hd : ∀ x, (EyeSettings.default x).Placed := fun x => by
      cases x <;> exact ⟨by decide, by decide, by decide, by decide⟩
    cases x
    · exact hd .left
    · exact hd .right
  · have hd : ReaderSettings.default.Sound := ⟨by decide, by decide, by decide, by decide⟩
    cases r <;> exact hd
  · cases r <;> cases hr
  · refine ⟨?_, ?_, ?_, ?_⟩
    all_goals
      revert k
      decide +kernel

/-- A step keeps the settings in force sound. -/
theorem rigSound_exec (c : Instr) (s t : State) (h : s.hw.RigSound) (ht : exec c s = .next t) : t.hw.RigSound :=
  rigSoundLoose.exec rigSound_reset c s t h ht

end Sys2Proof.Machine
end

