-- ==== Sys2Proof/Laws/PrdySteps.lean ====
section
/-! SUPPORT. Every step keeps PRDY as its mode says: what changes the level is followed by an evaluation (R63 to R65). -/

namespace Sys2Proof.Machine

/-- Everything the shape of PRDY reads. -/
def Part.prdyWatched (p : Part) := (p.rig.global.prdyMode, p.pairs.prdy, p.pairs.prdyPulse)

theorem Part.PrdyShaped.same {p q : Part} (h : p.PrdyShaped) (e : q.prdyWatched = p.prdyWatched) : q.PrdyShaped := by
  simp only [Part.prdyWatched, Prod.mk.injEq] at e
  obtain ⟨e1, e2, e3⟩ := e
  exact ⟨by rw [e1, e2]; exact h.off, by rw [e1, e2, e3]; exact h.pulse, by rw [e1, e3]; exact h.rest⟩

theorem Part.PrdyDriven.same {p q : Part} (h : p.PrdyDriven) (e : q.prdyWatched = p.prdyWatched)
    (l : prdyLevel q = prdyLevel p) : q.PrdyDriven := by
  refine { h.toPrdyShaped.same e with level := ?_ }
  simp only [Part.prdyWatched, Prod.mk.injEq] at e
  rw [e.1, e.2.1, l]
  exact h.level

theorem prdyShaped_evaluatePrdy (p : Part) (h : p.PrdyShaped) : (evaluatePrdy p).PrdyShaped := by
  unfold evaluatePrdy
  split
  · rename_i hm
    exact ⟨fun h1 => (by cases hm.symm.trans h1), fun h1 => (by cases hm.symm.trans h1), h.rest⟩
  · exact h

theorem prdyDriven_evaluatePrdy (p : Part) (h : p.PrdyShaped) : (evaluatePrdy p).PrdyDriven := by
  refine { prdyShaped_evaluatePrdy p h with level := fun hl => ?_ }
  unfold evaluatePrdy at hl ⊢
  split
  · rfl
  · rename_i hn
    simp only [hn, if_false] at hl

theorem prdyShaped_pulse (p : Part) (hm : p.rig.global.prdyMode = .pulse) (r : Nat) :
    (p.onPairs fun u => { u with prdy := true, prdyPulse := .running r }).PrdyShaped :=
  ⟨fun h1 => (by cases hm.symm.trans h1), fun _ => rfl, fun h1 => absurd hm h1⟩

theorem prdyDriven_prdyOnReady (p : Part) (h : p.PrdyShaped) : (prdyOnReady p).PrdyDriven := by
  unfold prdyOnReady
  split
  · rename_i hm
    exact { h with level := fun h1 => by cases hm.symm.trans h1 }
  · rename_i hm
    exact { prdyShaped_pulse p hm _ with level := fun h1 => by cases hm.symm.trans h1 }
  · exact prdyDriven_evaluatePrdy p h

theorem prdyShaped_setFlag (p : Part) (f : EventFlag) (h : p.PrdyShaped) : (setFlag f p).PrdyShaped := by
  unfold setFlag changeFlags
  split
  · exact h
  · exact h.same rfl

theorem prdyDriven_setFlag (p : Part) (f : EventFlag) (h : p.PrdyDriven) : (setFlag f p).PrdyDriven := by
  unfold setFlag changeFlags
  split
  · exact h
  · exact h.same rfl rfl

theorem prdyShapedFree : FreeMoves Part.PrdyShaped where
  pairs _ _ _ _ h := h.same rfl
  prdy := prdyShaped_evaluatePrdy
  ready p h := (prdyDriven_prdyOnReady p h).toPrdyShaped
  slots _ _ _ h := h.same rfl
  ctx _ _ h := h.same rfl
  park _ _ _ h := h.same rfl
  table _ _ _ h := h.same rfl
  returning _ _ h := h.same rfl
  issue _ _ h := h.same rfl
  count _ _ _ h := h.same rfl
  record p s t b h := by
    unfold queueRecord
    split
    · exact h.same rfl
    · exact prdyShaped_setFlag _ _ (h.same rfl)
  flag := prdyShaped_setFlag
  post _ _ _ h := h.same rfl
  readerSettings _ _ _ _ h := h.same rfl
  window _ _ _ h := h.same rfl

/-! ### The level -/

/-- The records that count for the level. -/
def waitsFor (n : Nat) (r : PairRecord) : Bool := r.isCurrent && r.state == .ready && decide (n < r.number)

theorem any_updateFirst (test g : PairRecord → Bool) (f : PairRecord → PairRecord) (l : List PairRecord)
    (h : ∀ r ∈ l, test r = true → g (f r) = g r) : (updateFirst test f l).any g = l.any g := by
  induction l with
  | nil => rfl
  | cons a as ih =>
    unfold updateFirst
    split
    · rename_i ht
      simp [h a (by simp) ht]
    · simp [ih fun r hr => h r (List.mem_cons_of_mem _ hr)]

theorem any_filter_of_false (keep g : PairRecord → Bool) (l : List PairRecord) (h : ∀ r ∈ l, keep r = false → g r = false) :
    (l.filter keep).any g = l.any g := by
  induction l with
  | nil => rfl
  | cons a as ih =>
    have hi := ih fun r hr => h r (List.mem_cons_of_mem _ hr)
    cases hk : keep a
    · simp [hk, hi, h a (by simp) hk]
    · simp [hk, hi]

theorem waitsFor_forming (n : Nat) (r : PairRecord) (h : r.state = .forming) : waitsFor n r = false := by
  unfold waitsFor
  simp [h]

theorem prdyLevel_eq (p : Part) : prdyLevel p = p.pairs.queue.any (waitsFor (p.reader p.rig.global.prdyReader).lastTaken) := rfl

theorem prdyMoves : ReaderMoves Part.PrdyShaped Part.PrdyDriven where
  free := prdyShapedFree
  weaken _ h := h.toPrdyShaped
  settle := prdyDriven_evaluatePrdy
  ready := prdyDriven_prdyOnReady
  setMatchTimer _ _ _ _ h := h.same rfl rfl
  onHolders p k f h := h.same rfl (by
    rw [prdyLevel_eq, prdyLevel_eq]
    exact any_updateFirst _ _ _ _ fun _ _ _ => rfl)
  link p q n hq h := h.same rfl (by
    rw [prdyLevel_eq, prdyLevel_eq]
    show (p.pairs.queue ++ [q]).any _ = _
    rw [List.any_append]
    simp [waitsFor_forming _ _ hq]
    rfl)
  unlink p q hq h := h.same rfl (by
    rw [prdyLevel_eq, prdyLevel_eq]
    refine any_filter_of_false _ _ _ fun r _ hr => ?_
    have : r = q := by simpa using hr
    exact waitsFor_forming _ _ (this ▸ hq))
  ripen p q k hq hk h := h.same rfl (by
    rw [prdyLevel_eq, prdyLevel_eq]
    refine any_updateFirst _ _ _ _ fun r _ hr => ?_
    have : r = q := by simpa using hr
    rw [waitsFor_forming _ r (this ▸ hq)]
    simp [waitsFor, PairRecord.isCurrent, hk])
  slots _ _ _ h := h.same rfl rfl
  ctx p f hf h := h.same rfl (by
    unfold prdyLevel
    show p.pairs.queue.any _ = _
    have := hf p.readers.ctx p.rig.global.prdyReader
    unfold Part.reader
    simp only [Part.onReaders_readers, Part.onReaders_rig, this])
  park _ _ _ h := h.same rfl rfl
  table _ _ _ h := h.same rfl rfl
  returning _ _ h := h.same rfl rfl
  issue _ _ h := h.same rfl rfl
  count _ _ _ h := h.same rfl rfl
  record p s t b h := by
    unfold queueRecord
    split
    · exact h.same rfl rfl
    · exact prdyDriven_setFlag _ _ (h.same rfl rfl)
  flag := prdyDriven_setFlag
  post _ _ _ h := h.same rfl rfl
  readerSettings _ _ _ _ h := h.same rfl rfl
  window _ _ _ h := h.same rfl rfl

theorem prdySkew : SkewMoves Part.PrdyShaped Part.PrdyDriven := { prdyMoves with skew := fun _ _ _ h => h.same rfl rfl }

/-- A GLOBAL latch leaves PRDY as the mode in force says, whatever mode stood before (R65). -/
theorem prdyDriven_latchGlobal (b : Bool) (p : Part) (h : p.PrdyDriven) : (latchGlobal b p).PrdyDriven := by
  unfold latchGlobal
  split
  · exact prdyMoves.rejectSection _ _ _ _ h
  · rename_i g hg
    unfold globalOnLatch
    dsimp only
    generalize hq : ((p.onRig fun u => { u with global := latchedGlobal p g, windowChange := latchedWindow p g }).setPost .global
      .unposted) = q
    have hmode : q.rig.global.prdyMode = (latchedGlobal p g).prdyMode := by subst hq; rfl
    have ha : ∀ r : Part, r.PrdyDriven → (evaluateAlert (reportOnLatch p.rig.global q.rig.global r)).PrdyDriven := by
      intro r hr
      unfold evaluateAlert reportOnLatch
      split <;> exact hr.same rfl rfl
    refine ha _ ?_
    unfold prdyOnLatch
    split
    · rename_i hm
      refine prdyDriven_evaluatePrdy _ ?_
      have hs : q.PrdyShaped := by
        have hw : q.prdyWatched = p.prdyWatched := by
          unfold Part.prdyWatched
          rw [← hm]
          subst hq
          rfl
        exact h.toPrdyShaped.same hw
      split
      · exact (prdySkew.takeChange (fun _ _ _ hj => hj.same rfl) _ _ hs).toPrdyShaped
      · exact hs
    · exact prdyDriven_evaluatePrdy _ ⟨fun _ => rfl, fun _ => rfl, fun _ => rfl⟩

theorem prdyLoose : LooseMoves Part.PrdyShaped Part.PrdyDriven where
  toReaderMoves := prdyMoves
  abandoned _ _ _ h := h.same rfl rfl
  sync _ _ h := h.same rfl rfl
  stream _ _ _ h := h.same rfl rfl
  req _ _ h := h.same rfl rfl
  txn _ _ h := h.same rfl rfl
  skew _ _ h := h.same rfl rfl
  report _ _ h := h.same rfl rfl
  sect _ _ _ h := h.same rfl rfl
  syncSettings _ _ h := h.same rfl rfl
  running _ h := h.same rfl rfl
  loadIndex _ _ h := h.same rfl rfl
  eyeSettings _ _ _ _ h := h.same rfl rfl
  latchGlobal p b h := prdyDriven_latchGlobal b p h
  time p n h := by
    unfold passTime
    split
    · exact h
    · have hr : (p.pairs.prdyPulse.passes n).isRunning = p.pairs.prdyPulse.isRunning := by
        cases p.pairs.prdyPulse <;> rfl
      refine ⟨⟨h.off, fun hm => (h.pulse hm).trans hr.symm, fun hm => ?_⟩, fun hm => ?_⟩
      · show p.pairs.prdyPulse.passes n = .stopped
        rw [h.rest hm]
        rfl
      · refine (h.level hm).trans ?_
        unfold prdyLevel Part.reader
        simp
  pulseEnd p hp h := by
    have hm : p.rig.global.prdyMode = .pulse := by
      by_contra hn
      rw [h.rest hn] at hp
      cases hp
    exact ⟨⟨fun _ => rfl, fun _ => rfl, fun _ => rfl⟩, fun h1 => by cases hm.symm.trans h1⟩
  released _ h := h.same rfl rfl

theorem prdyDriven_reset (k : BitVec 3) : (Part.reset k).PrdyDriven :=
  ⟨⟨fun _ => rfl, fun h => (by cases h), fun _ => rfl⟩, fun h => (by cases h)⟩

/-- A step keeps PRDY as its mode says. -/
theorem prdyDriven_exec (c : Instr) (s t : State) (h : s.hw.PrdyDriven) (ht : exec c s = .next t) : t.hw.PrdyDriven :=
  prdyLoose.exec prdyDriven_reset c s t h ht

end Sys2Proof.Machine
end

