-- ==== Sys2Proof/Tests/Slice0.lean ====
section
/-! SUPPORT. The model's own tests: ill-formed commands, one small step per command, the numbers the spec works out, and for every
statement of the obligations that has hypotheses a state that meets them. -/

namespace Sys2Proof.Tests

-- One test after the other: each waits for the kernel to have checked what stands before it.
set_option Elab.async false

open Sys2Proof.Machine

/-! ### Helpers -/

/-- The part out of reset, loaded with the defaults. -/
def running : Part := { Part.reset 0 with resetAsserted := false, rig := { RigUnit.reset 0 with partState := .running } }

def st (p : Part) : State := { hw := p, pending := [] }

/-- The part after one command. -/
def after (c : Instr) (p : Part) : Part := match exec c (st p) with | .next t => t.hw | _ => p

/-- A notice stands first on its way to a stream, to the skew unit. -/
def told (n : StreamNotice) (p : Part) : Part := p.tellStream .left n
def toldSkew (n : SkewNotice) (p : Part) : Part := p.tellSkew .left n

/-- The left stream in a state. -/
def inState (v : StreamState) (p : Part) : Part := p.onStream .left fun c => { c with state := v }

/-- A small geometry: 64 pixels of 1 byte, 16 lines. -/
def small : Geometry :=
  { width := 64, pixelBytes := 1, lines := 16, top := 0, bottom := 0, shift := 0, hflip := false, vflip := false, pitch := 64 }

/-- The left stream has frame 1 open in slot 0, in FILLING. -/
def filling : Part :=
  (running.onStream .left fun _ =>
      { state := .open, frameNumber := 1, currentSlot := some 0, cursor := 0, geom := small, completed := false }).onSlot .left 0
    fun r => { r with state := .filling, frameNumber := 1, geom := small, frameTimer := .running 100 }

/-- A request of source 1. -/
def ask (kind : Byte) (address : Addr) (length : Nat) (data : List Byte) : Request :=
  { kindByte := kind, source := 1, ttag := 9, addr := address, length := length, data := data, stray := false }

/-- A request waits at the head of the intake queue. -/
def asking (q : Request) (p : Part) : Part := { p with req := { p.req with intake := [q] } }

/-- A READY pair of left slot 0 and right slot 0 with the small geometry. -/
def pair : PairRecord :=
  { number := 1, take := 0, stale := false, leftSlot := 0, rightSlot := 0, leftFrame := 1, rightFrame := 1, linkSkew := 0,
    geom := small.shared, state := .ready, damage := Damage.none, holders := 0, readyStamp := some 5 }

/-- Both slots of `pair` are PAIRED and it stands in the queue with `n` holders. -/
def paired (n : Nat) : Part :=
  ((running.onSlot .left 0 fun r => { r with state := .paired, geom := small }).onSlot .right 0 fun r =>
      { r with state := .paired, geom := small }).onPairs fun m => { m with queue := [{ pair with holders := n }] }

/-- Reader A is bound to source 1, in a state. -/
def bound (c : ReaderCtx) (w : WaitMode) (p : Part) : Part :=
  (p.onReader .a fun _ => c).onRig fun u =>
    { u with reader := u.reader.set .a { ReaderSettings.default with enabled := true, sourceTag := 1, waitMode := w } }

def idle : ReaderCtx := { state := .idle, held := none, lastTaken := 0, away := false, lease := .stopped }
def holding : ReaderCtx := { state := .holding, held := some pair.asHeld, lastTaken := 1, away := false, lease := .running 50 }

/-- Entry 0 holds a request with one piece outstanding, tag 0 the piece in flight. -/
def inFlight (k : Kind) (data : List Byte) (role : Role) (p : Part) : Part :=
  ((p.setEntry 0 (some
      { state := .inProgress, kind := k, source := 1, ttag := 9, addr := 0x2000000000, length := 2, cls := .other, offset := 0,
        outstanding := 1, code := .done, data := data })).setTag 0 (some
      { state := .inFlight, kind := k, owner := .entry 0 role, addr := 0x2000000000, length := 2, source := 1,
        timer := .running 40 }))

/-- The bytes of the staged words of a section, as software would write them. -/
def sectionData (ws : List Word) : List Byte := ws.flatMap fun w => leBytes 4 w.toNat

/-! ### Ill-formed commands -/

theorem test_illFormed_requestWithoutItsData : (Instr.requestAccept 1 []).wellFormed = false := by decide
theorem test_illFormed_readWithData : (Instr.requestAccept 0 [0]).wellFormed = false := by decide
theorem test_illFormed_responseWithoutItsData : (Instr.mportResponse 0 []).wellFormed = false := by decide
theorem test_illFormed_writeDoneWithData : (Instr.mportResponse 1 [0]).wellFormed = false := by decide
theorem test_illFormed_tag : (Instr.mTimeout 64).wellFormed = false := by decide
theorem test_illFormed_frameTimerSlot : (Instr.frameTimerExpiry .left 8).wellFormed = false := by decide
theorem test_illFormed_matchTimerSlot : (Instr.matchTimerExpiry .right 8).wellFormed = false := by decide
theorem test_illFormed_entry : (Instr.parkTimerExpiry 48).wellFormed = false := by decide
theorem test_wellFormed_oneByteWrite : (Instr.requestAccept 1 [7]).wellFormed = true := by decide

/-! ### The spec's worked numbers -/

/-- The mirrored LEFT eye of the worked mapping: margins of 8 lines, shift −3, VFLIP (05, "Worked mapping"). -/
def mirrored : Geometry := { Geometry.default with top := 8, bottom := 8, shift := -3, vflip := true }

def cutAt (g : Geometry) (o : Nat) : CutRequest :=
  { eye := .left, slot := 1, base := 0, geom := g, entry := 0, source := 1, offset := o, length := 512 }

/-- Address and length of each piece, and the clipped bytes. -/
def cutShape (g : Geometry) (o : Nat) : List (Nat × Nat) × Nat :=
  ((cutPieces (cutAt g o) (List.replicate 512 0)).map fun k => (k.addr, k.length), clippedBytes (cutAt g o))

theorem test_mapper_offset100000 :
    physicalAddress Geometry.default 0 100000 = some (12 * 8192 + 1696) := by decide +kernel

theorem test_mapper_fiveWrites :
    cutShape mirrored 0 = ([(17817600, 512)], 0) ∧
    cutShape mirrored 65280 = ([(17768192, 256), (17727488, 256)], 0) ∧
    cutShape mirrored 17735424 = ([(73472, 256)], 256) ∧ cutShape mirrored 17743872 = ([], 512) ∧
    cutShape mirrored 17825280 = ([(7680, 512)], 0) := by decide +kernel

theorem test_mapper_sameEyeWithHflip :
    let g := { mirrored with hflip := true }
    cutShape g 0 = ([(17825280, 512)], 0) ∧ cutShape g 65280 = ([(17760256, 256), (17735424, 256)], 0) ∧
    cutShape g 17825280 = ([(0, 512)], 0) := by decide +kernel

theorem test_mapper_ninePieces :
    ((cutPieces (cutAt { small with lines := 64 } 1) (List.replicate 512 0)).map (·.length)) =
      [63, 64, 64, 64, 64, 64, 64, 64, 1] := by decide +kernel

/-- The pair read of the worked translation: 256 bytes of left line 2,164, then 256 bytes of the band gap (04). -/
theorem test_pairWindow_bandGap :
    cutRun 8192 512 17735424 512 = [(17735424, 256), (17735680, 256)] ∧
    windowPlace .sequential 8192 2176 17735424 = { eye := .left, line := 2164, byte := 7936 } ∧
    bandGap mirrored 2164 = false ∧ bandGap mirrored 2165 = true ∧ bandGap mirrored 2167 = true ∧
    bandGap mirrored 2168 = false := by decide +kernel

/-- The SYNC settings of the drifting rig, and one sample of it: F and T before, d; F and T after (07, "Worked sequence"). -/
def drifting : SyncSettings :=
  { SyncSettings.default with filterShift := 1, gain := .half, upRate := 200, downRate := 200 }

def sampled (f t d : Int) : Int × Int :=
  let f1 := filtered false f d 1
  (f1, clampTrim (t + limitedStep drifting false (rawStep drifting f1)) (-2048) 2047)

theorem test_skew_driftingRig :
    sampled (256 * 800) 0 800 = (256 * 800, -200) ∧ sampled (256 * 550) (-600) 200 = (256 * 375, -787) ∧
    sampled (256 * 55) (-911) (-111) = (256 * -28, -897) ∧ sampled (256 * -28) (-897) (-97) = (-16000, -866) ∧
    sampled (-7568) (-796) 4 = (-3272, -796) := by decide +kernel

/-- The six requests of the worked sequence, with RIGSEL 1 (08): what the request path makes of them. -/
theorem test_requestPath_sixRequests :
    let p := { running with rig := { running.rig with rigsel := 1 } }
    classify p (ask 1 0x0010001000 512 []) = some (.capture .left, 0x0010000000) ∧
    classify p (ask 0 0x0080001000 64 []) = some (.pool, 0x0080000000) ∧
    isRefused p (ask 0 0x0080001000 64 []) = true ∧ classify p (ask 0 0x0300000000 8 []) = some (.other, 0) ∧
    classify p (ask 1 0x001FFFFF00 512 []) = none ∧ isRefused p (ask 1 0x001FFFFF00 512 []) = true ∧
    classify p (ask 1 0x2000000040 4 []) = some (.rig, 0x2000000000) ∧ isRefused p (ask 1 0x2000000040 4 []) = false ∧
    fillBytes 0xA5C3 0x0080001000 4 = [0xC3, 0xA5, 0xC3, 0xA5] := by decide +kernel

/-- A status write behind capture traffic goes first with a wait count of 8, not before (09). -/
theorem test_arbiter_waitCount :
    let u (n : Nat) : TxnUnit :=
      { TxnUnit.reset with
        issue := [[]]
        injected := [{ owner := .statusWrite, kind := .write, addr := 0, length := 256, data := [], wait := n }] }
    boundaryChoice (u 7) = some .group ∧ boundaryChoice (u 8) = some .injected := by decide

theorem test_trimWord : trimWord (-200) = 0x5F38 ∧ trimWord 2047 = 0x57FF := by decide +kernel

theorem test_checkWord : checkMatches [1, 2, 0xFFFFFFFC] = true ∧ checkMatches [1, 2, 0xFFFFFFFD] = false := by decide +kernel

/-! ### One small step -/

theorem test_step_idleTick : step (st running) = .next (st (passTime 1 running)) := rfl

theorem test_releaseOffersTheFirstLoadRead :
    ((after .resetNRelease (Part.reset 1)).txn.injected.map fun i => (i.addr, i.length)) = [(0x2000000000, 64)] := by
  decide +kernel

theorem test_pulseBeginsAcquisition :
    ((after (.fsyncPulse .left 7) running).acq .left).state = .acquiring ∧
    ((after (.fsyncPulse .left 7) running).acq .right).state = .absent := by decide +kernel

theorem test_frameStartOpensTheLowestSlot :
    let p := after (.frameStart .left) (told (.frameStart 5) (inState .between running))
    (p.stream .left).currentSlot = some 0 ∧ (p.slot .left 0).state = .filling ∧
    p.matchTimer .left 0 = .running 2500 := by decide +kernel

theorem test_captureWriteOutsideAFrameIsUnframed :
    let p := after .captureWrite (asking (ask 1 0x10000004 2 [3, 4]) running)
    p.count (.discarded .unframed) = 1 ∧ (p.entry 0).map (·.code) = some .discarded ∧ p.req.returning = [0] := by
  decide +kernel

theorem test_captureWriteEndsTheFrame :
    let p := after .captureWrite (asking (ask 1 0x100003C0 64 (List.replicate 64 7)) filling)
    (p.stream .left).state = .between ∧ (p.stream .left).completed = true ∧ (p.slot .left 0).state = .landing ∧
    (p.slot .left 0).damage = Damage.ofGap ∧ (p.slot .left 0).writes = 1 := by decide +kernel

theorem test_checkWordAloneRejectsTheSection :
    let p := after .checkWordWrite (asking (ask 1 0x20 4 [0, 0, 0, 0]) running)
    p.post .global = .rejected ∧ p.report.flags = 0x100 ∧ p.report.queue.length = 1 := by decide +kernel

theorem test_unknownTagIsCounted :
    (after (.mportResponse 0x50001 []) running).count .unknownTags = 1 := by decide +kernel

theorem test_frameTimerAbandonsTheFrame :
    let p := after (.frameTimerExpiry .left 0) filling
    (p.stream .left).state = .spill ∧ (p.slot .left 0).state = .free ∧ p.count (.lost .timedOut) = 1 ∧ p.now = 100 := by
  decide +kernel

theorem test_endOfPairReadReleasesTheHold :
    let p := after .pairRead (asking (ask 0 0x400007C0 64 []) (bound holding .park (paired 1)))
    (p.reader .a).state = .idle ∧ (p.slot .right 0).reads = 1 ∧
    p.pairs.queue = [{ pair with holders := 0 }] := by decide +kernel

/-! ### States that meet the hypotheses of the statements -/

theorem witness_StepRunsFrontCommand :
    ({ hw := running, pending := [.trimWordEnd] } : State).pending = Instr.trimWordEnd :: [] := rfl

theorem witness_EmptyQueueIsOneTick : (st running).pending = [] ∧ running.resetAsserted = false ∧
    (st (Part.reset 0)).pending = [] ∧ (Part.reset 0).resetAsserted = true := by decide

theorem witness_ReleaseStartsTheLoadAndTheQuietTime : (Part.reset 3).resetAsserted = true ∧
    (releaseReset (Part.reset 3)).resetAsserted = false ∧ (releaseReset (Part.reset 3)).txn.quiet = .running 500000 := by decide

theorem witness_PulseInAbsentBeginsAcquisition : running.resetAsserted = false ∧ pulseTaken .left 7 running = false ∧
    (running.acq .left).state = .absent := by decide

/-- The left eye in ACQUIRING, its last pulse at 10, with a candidate period or none. -/
def acquiring (c : Option Int) : Part :=
  running.onAcq .left fun a => { a with state := .acquiring, lastPulse := some 10, candidate := c, lossTimer := .running 9000 }

theorem witness_PulseInAcquiringMeasuresAndLocks :
    (∀ c ∈ [none, some 5000, some 990, some 1240], (acquiring c).resetAsserted = false ∧
      pulseTaken .left 1000 (acquiring c) = false ∧ ((acquiring c).acq .left).state = .acquiring ∧
      ((acquiring c).acq .left).lastPulse = some 10) ∧
    running.rig.sync.periodTolerance < (stampDiff 1000 10 - 5000).natAbs ∧
    (stampDiff 1000 10 - 990).natAbs ≤ running.rig.sync.periodTolerance ∧
    (stampDiff 1000 10 - 1240).natAbs = running.rig.sync.periodTolerance := by decide

/-- The left eye LOCKED, its last accepted pulse at 10 with reference period 990, after `n` period faults in a row. -/
def locked (n : Nat) : Part :=
  running.onAcq .left fun a =>
    { a with state := .locked, lastAccepted := some 10, reference := some 990, faultRun := n, lossTimer := .running 9000 }

theorem witness_PulseInLockedIsJudgedByItsPeriod :
    (∀ n ∈ [0, 2, 3], (locked n).resetAsserted = false ∧ pulseTaken .left 1000 (locked n) = false ∧
      ((locked n).acq .left).state = .locked ∧ ((locked n).acq .left).lastAccepted = some 10 ∧
      ((locked n).acq .left).reference = some 990 ∧ ((locked n).acq .left).faultRun = n) ∧
    (stampDiff 1250 10 - 990).natAbs = running.rig.sync.periodTolerance ∧
    running.rig.sync.periodTolerance < (stampDiff 1251 10 - 990).natAbs := by decide

theorem witness_SyncLossTimerExpiryGivesAbsent : (locked 0).resetAsserted = false ∧
    ((locked 0).acq .left).lossTimer = .running 9000 ∧ ((locked 0).acq .left).state = .locked ∧
    (acquiring none).resetAsserted = false ∧ ((acquiring none).acq .left).lossTimer = .running 9000 ∧
    ((acquiring none).acq .left).state ≠ .locked := by decide

theorem witness_LockGainedEndsWaitingSync :
    ∀ v ∈ [StreamState.waitingSync, .off], (told .lockGained (inState v running)).resetAsserted = false ∧
      (told .lockGained (inState v running)).sync.streamNotices.get .left = [.lockGained] ∧
      ((told .lockGained (inState v running)).stream .left).state = v := by decide

theorem witness_NoticesWithNoFrameOpen :
    ∀ n ∈ [StreamNotice.lockLost, .frameStart 5], ∀ v ∈ [StreamState.off, .waitingSync, .between, .spill],
      (told n (inState v running)).resetAsserted = false ∧ (told n (inState v running)).sync.streamNotices.get .left = [n] ∧
      ((told n (inState v running)).stream .left).state = v ∧ (told n (inState v running)).post (.eye .left) ≠ .posted := by
  decide +kernel

theorem witness_LockLostAbandonsTheOpenFrame : (told .lockLost filling).resetAsserted = false ∧
    (told .lockLost filling).sync.streamNotices.get .left = [.lockLost] ∧
    (told .lockLost filling).report.counters.length = 20 ∧ ((told .lockLost filling).stream .left).state = .open ∧
    ((told .lockLost filling).stream .left).currentSlot = some 0 ∧ 0 < ((told .lockLost filling).slots.get .left).length ∧
    ((told .lockLost filling).slot .left 0).state = .filling ∧ recordOf (told .lockLost filling) .left 0 = none ∧
    (told .lockLost filling).post (.eye .left) ≠ .posted := by decide +kernel

/-- The open frame is linked with the frame in right slot 1, which is open too. -/
def linked : Part :=
  (((told .lockLost filling).onSlot .left 0 fun r =>
      { r with partner := some 1, pairNumber := some 1, pairTake := some 0 }).onSlot .right 1 fun r =>
      { r with
        state := .filling, frameNumber := 4, partner := some 0, pairNumber := some 1, pairTake := some 0, geom := small,
        writes := 2, frameTimer := .running 80 }).onStream .right (fun c => { c with state := .open, currentSlot := some 1 })
    |>.onPairs fun m => { m with queue := [{ pair with rightSlot := 1, state := .forming, readyStamp := none }] }

theorem witness_LockLostAbandonsTheOpenFrame_linked : linked.resetAsserted = false ∧
    linked.sync.streamNotices.get .left = [.lockLost] ∧ linked.report.counters.length = 20 ∧
    (linked.stream .left).state = .open ∧ (linked.stream .left).currentSlot = some 0 ∧ 0 < (linked.slots.get .left).length ∧
    (linked.slot .left 0).state = .filling ∧ linked.post (.eye .left) ≠ .posted ∧
    recordOf linked .left 0 = some { pair with rightSlot := 1, state := .forming, readyStamp := none } ∧
    1 < (linked.slots.get .right).length ∧ (linked.slot .right 1).state.live = true ∧
    (linked.slot .right 1).partner ≠ none ∧ linked.readers.parkList = [] ∧ linked.report.queue.length + 2 ≤ 16 := by
  decide +kernel

theorem witness_freeIfDrained : let r : SlotRecord := { SlotRecord.free with state := .draining, frameNumber := 3 }
    (r.state = .draining ∧ r.writes = 0 ∧ r.reads = 0 ∧ r.quarantined = 0) ∧
    ¬(r.state = .draining ∧ ({ r with reads := 1 } : SlotRecord).reads = 0) := by decide

/-- The left stream in BETWEEN with a frame start of stamp 5 on its way. -/
def starting : Part := told (.frameStart 5) (inState .between running)

theorem witness_FrameStartOpensASlot : starting.resetAsserted = false ∧
    starting.sync.streamNotices.get .left = [.frameStart 5] ∧ (starting.stream .left).state = .between ∧
    starting.post (.eye .left) ≠ .posted ∧ lowestFree (starting.slots.get .left) = some 0 ∧
    pickCandidate starting .right 5 (starting.eyeSettings .left).geom = none := by decide +kernel

/-- The same with right slot 1 waiting for a partner since stamp 3. -/
def meeting : Part :=
  (starting.onSlot .right 1 fun r =>
      { r with state := .landing, frameNumber := 6, startStamp := 3, geom := Geometry.default }).setMatchTimer .right 1
    (.running 2400)

theorem witness_FrameStartLinksAPair : meeting.resetAsserted = false ∧
    meeting.sync.streamNotices.get .left = [.frameStart 5] ∧ (meeting.stream .left).state = .between ∧
    meeting.post (.eye .left) ≠ .posted ∧ lowestFree (meeting.slots.get .left) = some 0 ∧
    meeting.pairs.nextNumber = some 1 ∧ pickCandidate meeting .right 5 (meeting.eyeSettings .left).geom = some 1 := by
  decide +kernel

/-- Two candidates equally near to stamp 5, at 7 and at 3, and one a tick beyond the match tolerance. -/
def tied : Part :=
  (((meeting.onSlot .right 0 fun r =>
      { r with state := .filling, startStamp := 7, geom := Geometry.default }).setMatchTimer .right 0
    (.running 2400)).onSlot .right 2 fun r =>
      { r with state := .filling, startStamp := 2506, geom := Geometry.default }).setMatchTimer .right 2 (.running 9)

theorem witness_FrameStartOpensASlot_candidates : tied.rig.global.matchTolerance < 65536 ∧
    isCandidate tied .right 0 5 Geometry.default = true ∧ isCandidate tied .right 1 5 Geometry.default = true ∧
    isCandidate tied .right 2 5 Geometry.default = false ∧ isCandidate tied .right 2 6 Geometry.default = true ∧
    pickCandidate tied .right 5 Geometry.default = some 1 ∧ pickCandidate tied .left 5 Geometry.default = none := by
  decide +kernel

theorem witness_FrameStartNumbersTheFrame : (told (.frameStart 5) filling).resetAsserted = false ∧
    (told (.frameStart 5) filling).sync.streamNotices.get .left = [.frameStart 5] ∧
    ((told (.frameStart 5) filling).stream .left).state = .open ∧
    (told (.frameStart 5) filling).post (.eye .left) ≠ .posted := by decide +kernel

/-- The frame still open when the next starts has no write outstanding, or one. -/
theorem witness_FrameStartNumbersTheFrame_truncated : ∀ n ∈ [0, 1],
    let p := (told (.frameStart 5) filling).onSlot .left 0 fun r => { r with writes := n }
    p.resetAsserted = false ∧ p.sync.streamNotices.get .left = [.frameStart 5] ∧ p.report.counters.length = 20 ∧
    (p.stream .left).state = .open ∧ (p.stream .left).currentSlot = some 0 ∧ 0 < (p.slots.get .left).length ∧
    (p.slot .left 0).state = .filling ∧ recordOf p .left 0 = none ∧ p.post (.eye .left) ≠ .posted ∧
    p.report.queue.length < 16 ∧ (p.slot .left 0).writes = n ∧ (p.slot .left 0).reads = 0 ∧
    (p.slot .left 0).quarantined = 0 := by decide +kernel

/-- The linked frame is still open when the next starts: the partner is in right slot 1, and the notice is a frame start. -/
def linkedStart : Part :=
  linked.onSync fun u => { u with streamNotices := u.streamNotices.set .left [.frameStart 5] }

theorem witness_FrameStartNumbersTheFrame_linked : linkedStart.resetAsserted = false ∧
    linkedStart.sync.streamNotices.get .left = [.frameStart 5] ∧ linkedStart.report.counters.length = 20 ∧
    (linkedStart.stream .left).state = .open ∧ (linkedStart.stream .left).currentSlot = some 0 ∧
    0 < (linkedStart.slots.get .left).length ∧ (linkedStart.slot .left 0).state = .filling ∧
    linkedStart.post (.eye .left) ≠ .posted ∧
    recordOf linkedStart .left 0 = some { pair with rightSlot := 1, state := .forming, readyStamp := none } ∧
    1 < (linkedStart.slots.get .right).length ∧ (linkedStart.slot .right 1).state.live = true ∧
    (linkedStart.slot .right 1).partner ≠ none ∧ linkedStart.readers.parkList = [] ∧
    linkedStart.report.queue.length + 2 ≤ 16 ∧
    (after (.frameStart .left) linkedStart).count (.lost .partnerLost) = 1 := by decide +kernel

/-- No left slot is FREE: slot 0 is PAIRED in the pair, which is stale or not, and the others drain. -/
def crowded (stale : Bool) : Part :=
  ((starting.onSlots .left fun l => l.map fun r => { r with state := .draining, reads := 1 }).onSlot .left 0 fun r =>
      { r with state := .paired, reads := 0 }).onPairs fun m => { m with queue := [{ pair with stale := stale }] }

theorem witness_FrameStartNumbersTheFrame_starved : (∀ b ∈ [true, false], (crowded b).resetAsserted = false ∧
      (crowded b).sync.streamNotices.get .left = [.frameStart 5] ∧ (crowded b).report.counters.length = 20 ∧
      ((crowded b).stream .left).state = .between ∧ (crowded b).post (.eye .left) ≠ .posted ∧
      ((crowded b).slots.get .left).all (fun r => r.state != .free) = true ∧ (crowded b).report.queue.length < 16) ∧
    (((evaluateRetirement (crowded true)).slots.get .left)[0]?).map (·.state) = some .free ∧
    ((evaluateRetirement (crowded false)).slots.get .left).all (fun r => r.state != .free) = true := by decide +kernel

/-- The default EYE section of the left eye, whose enable is clear, is posted. -/
def disabling : Part := starting.setPost (.eye .left) .posted

theorem witness_FrameStartDisablesTheEye : disabling.resetAsserted = false ∧
    disabling.sync.streamNotices.get .left = [.frameStart 5] ∧ (disabling.stream .left).state = .between ∧
    disabling.post (.eye .left) = .posted ∧ (EyeSettings.default .left).enable = false ∧
    (validateEye disabling .left (disabling.staged (.eye .left))).toOption = some (EyeSettings.default .left) := by
  decide +kernel

/-- The EYE section of the left eye with the enable set; and with a stride that holds no frame. -/
def newEye : EyeSettings := { EyeSettings.default .left with enable := true }
def badEye : EyeSettings := { newEye with slotStride := 4096 }
def eyeData (e : EyeSettings) : List Byte := sectionData (withCheck (encodeEye e))

def isError {α : Type} : Except RejectReason α → RejectReason → Bool
  | .error r, k => r == k
  | .ok _, _ => false

theorem witness_FrameStartDisablesTheEye_atOnce : (∀ e ∈ [newEye, badEye],
      let q : Request := ask 1 0x80 36 (eyeData e)
      isRefused (asking q running) q = false ∧ classify (asking q running) q = some (.rig, 0) ∧ q.kind = .write ∧
      q.data.length = q.length ∧ (∀ j ∈ Section.all, touchesCheck 0x80 36 j = true ↔ j = .eye .left) ∧
      checkMatches ((writeShadow 0x80 (eyeData e) running).staged (.eye .left)) = true) ∧
    (running.stream .left).state = .off ∧ running.rig.partState = .running ∧
    (validateEye running .left ((writeShadow 0x80 (eyeData newEye) running).staged (.eye .left))).toOption = some newEye ∧
    isError (validateEye running .left ((writeShadow 0x80 (eyeData badEye) running).staged (.eye .left))) .pool = true ∧
    running.report.queue.length < 16 := by decide +kernel

theorem witness_FrameStartDisablesTheEye_lockLost :
    let p := (told .lockLost (inState .spill running)).setPost (.eye .left) .posted
    p.resetAsserted = false ∧ p.sync.streamNotices.get .left = [.lockLost] ∧ (p.stream .left).state = .spill ∧
    p.post (.eye .left) = .posted ∧
    (validateEye p .left (p.staged (.eye .left))).toOption = some (EyeSettings.default .left) := by decide +kernel

/-- An EYE section of the left eye is staged and posted. -/
def posting (e : EyeSettings) (p : Part) : Part := (writeShadow 0x80 (eyeData e) p).setPost (.eye .left) .posted

/-- Posted sections that fail, that keep the eye enabled and that disable it, with no frame open and with one open. -/
theorem witness_FrameStartDisablesTheEye_posted : ∀ p ∈ [starting, linkedStart],
    (∀ e ∈ [badEye, newEye, { newEye with enable := false }], (posting e p).resetAsserted = false ∧
      (posting e p).sync.streamNotices.get .left = [.frameStart 5] ∧ ((posting e p).stream .left).state ≠ .off ∧
      ((posting e p).stream .left).state ≠ .waitingSync ∧ (posting e p).post (.eye .left) = .posted) ∧
    isError (validateEye (posting badEye p) .left ((posting badEye p).staged (.eye .left))) .pool = true ∧
    (∀ b ∈ [true, false], let e := { newEye with enable := b }
      (validateEye (posting e p) .left ((posting e p).staged (.eye .left))).toOption = some e) ∧
    ((posting { newEye with enable := false } linkedStart).stream .left).currentSlot = some 0 := by decide +kernel

theorem witness_FrameStartDisablesTheEye_lockLostRejected :
    let p := posting badEye (told .lockLost (inState .between running))
    p.resetAsserted = false ∧ p.sync.streamNotices.get .left = [.lockLost] ∧ (p.stream .left).state = .between ∧
    p.post (.eye .left) = .posted ∧ isError (validateEye p .left (p.staged (.eye .left))) .pool = true := by decide +kernel

theorem witness_SkewNoticesAndUnusedPulses : running.resetAsserted = false ∧
    (toldSkew .lock running).sync.skewNotices.get .left = [.lock] ∧
    (toldSkew .departure running).sync.skewNotices.get .left = [.departure] ∧
    (toldSkew (.pulse 7 .periodFault none) running).sync.skewNotices.get .left = [.pulse 7 .periodFault none] ∧
    (toldSkew (.pulse 7 .accepted (some 90)) running).sync.skewNotices.get .left = [.pulse 7 .accepted (some 90)] ∧
    (toldSkew (.pulse 7 .accepted (some 90)) running).skew.lockView ≠ ⟨true, true⟩ := by decide

/-- Both eyes LOCKED in the skew unit's view, the right eye's pulse of stamp `o` unused, the left eye's of stamp 1000 handed over. -/
def sampling (o : Stamp) : Part :=
  (toldSkew (.pulse 1000 .accepted (some 4000)) running).onSkew fun u =>
    { u with lockView := ⟨true, true⟩, latest := ⟨none, some { stamp := o, used := false }⟩ }

/-- The hypotheses of the statements on a sample hold of it. -/
def samples (o : Stamp) : Bool :=
  !(sampling o).resetAsserted && (sampling o).sync.skewNotices.get .left == [.pulse 1000 .accepted (some 4000)] &&
    (sampling o).skew.lockView == ⟨true, true⟩ && (sampling o).rig.partState == .running &&
    (sampling o).skew.latest.get .right == some { stamp := o, used := false } &&
    decide (2 * (stampDiff 1000 o).natAbs ≤ (4000 : Int)) &&
    decide ((sampling o).rig.sync.divider ≤ (sampling o).skew.sampleCount + 1) &&
    decide ((sampling o).rig.sync.trimMin ≤ (sampling o).rig.sync.trimMax)

theorem witness_SkewSample : samples 900 = true ∧ samples 3000 = true ∧ samples 3001 = false := by decide +kernel

theorem witness_SkewSampleTrims_counted :
    let p := (sampling 900).onRig fun u => { u with sync := { u.sync with divider := 4 } }
    p.skew.sampleCount + 1 < p.rig.sync.divider := by decide

/-- A sample of −100 that leaves both limits, or enters both, with room for three records and no more. -/
def limiting (w : Bool) : Part :=
  (((sampling 900).onRig fun u =>
      { u with sync :=
          { u.sync with warnLimit := if w then 500 else 50, faultLimit := if w then 600 else 60, hysteresis := 0 } }).onSkew
    fun u => { u with warn := w, fault := w }).onReport fun u =>
      { u with queue := List.replicate 13 { seq := 4, stamp := 5, take := 0, body := .takeChange 0 1 } }

theorem witness_SkewSample_events : ∀ w ∈ [true, false], (limiting w).report.queue.length = 13 ∧
    (after (.skewPulseHandover .left) (limiting w)).skew.warn = !w ∧
    (after (.skewPulseHandover .left) (limiting w)).skew.fault = !w ∧
    ((after (.skewPulseHandover .left) (limiting w)).report.queue.drop 13).map (·.body) =
      (if w then [SkewEventKind.faultLeave, .warnLeave] else [.warnEnter, .faultEnter]).map fun k =>
        .skewEvent k (-25600) 0 (some (-100)) 0 := by decide +kernel

/-- The error of the sample stands above the warn limit of 50, T stands at its upper bound and the gain is OFF. -/
def saturating (n : Nat) : Part :=
  ((sampling 900).onRig fun u => { u with sync := { u.sync with warnLimit := 50, hysteresis := 0 } }).onSkew fun u =>
    { u with trim := 2047, satCount := n }

theorem witness_SkewSampleTrims_saturated : ∀ n ∈ [0, 14, 15, 16],
    let t := after (.skewPulseHandover .left) (saturating n)
    t.skew.trim = (saturating n).rig.sync.trimMax ∧
    256 * (saturating n).rig.sync.warnLimit < (t.skew.f - 256 * (saturating n).rig.sync.target).natAbs ∧
    t.skew.satCount = min (n + 1) 16 ∧ (t.report.flags = 0x5 ↔ n = 15) := by decide +kernel

/-- With a gain of 1 the sample moves T; the sender is IDLE, or in its gap. -/
theorem witness_SkewSampleTrims_sender : ∀ v ∈ [SenderState.idle, .gap],
    let p := ((sampling 900).onRig fun u => { u with sync := { u.sync with gain := .one } }).onSkew fun u =>
      { u with sender := { u.sender with state := v } }
    p.skew.sender.state = v ∧ (after (.skewPulseHandover .left) p).skew.trim ≠ p.skew.trim ∧
    (after (.skewPulseHandover .left) p).skew.sender.pending = (v != .idle) := by decide +kernel

/-- The trim sender in a state, its word or gap running for 40 ticks more. -/
def sending (v : SenderState) (again : Bool) : Part :=
  running.onSkew fun u =>
    { u with
      trim := 9, sender := { state := v, word := some 5, lastSent := some 3, pending := again, timer := .running 40 } }

theorem witness_TrimSenderTurns : ∀ v ∈ [SenderState.sending, .gap], ∀ b ∈ [true, false],
    (sending v b).resetAsserted = false ∧ (sending v b).skew.sender.timer = .running 40 ∧ (sending v b).skew.sender.state = v ∧
    (sending v b).skew.sender.pending = b ∧ (sending v b).skew.sender.lastSent ≠ some (sending v b).skew.trim := by decide

/-- The word of T = −200, 0x5F38, at its first tick and at its last. -/
theorem witness_TrimSenderTurns_line : ∀ r ∈ [4000, 1],
    let p := running.onSkew fun u => { u with sender := { u.sender with state := .sending, word := some (-200), timer := .running r } }
    p.skew.sender.state = .sending ∧ p.skew.sender.word = some (-200) ∧ p.skew.sender.timer = .running r ∧ 0 < r ∧ r ≤ 4000 ∧
    p.trimD = false ∧ (p.trimCk = true ↔ r = 1) := by decide +kernel

theorem witness_PortsAcceptRecords : running.resetAsserted = false ∧ running.req.intake.length < 32 ∧
    32 ≤ (running.onReq fun u => { u with intake := List.replicate 32 (ask 0 0 1 []) }).req.intake.length ∧
    (running.onReq fun u => { u with returning := [4] }).req.returning = [4] ∧
    (arbiterIssue (releaseReset (Part.reset 0) |>.onTxn fun u => { u with quiet := .stopped })).txn.output.isSome = true := by
  decide +kernel

theorem witness_RequestRecordsAreReadByTheirBytes : (1 : Nat) < 2 ∧ (62 : Nat) < 64 ∧ (255 : Nat) < 256 ∧
    (2 ^ 40 - 1 : Nat) < 2 ^ 40 ∧ 1 ≤ 512 ∧ 512 ≤ 512 ∧ (List.replicate 512 (0 : Byte)).length = 512 := by decide +kernel

/-- A header bit just outside a field is stray, the bits beside it are not. -/
theorem witness_RequestRecordsAreReadByTheirBytes_stray :
    (∀ i ∈ [14, 15, 24, 31, 41, 63, 104, 127], (parseRequest (BitVec.ofNat 128 (2 ^ i)) []).stray = true) ∧
    ∀ i ∈ [0, 13, 16, 23, 32, 40, 64, 103], (parseRequest (BitVec.ofNat 128 (2 ^ i)) []).stray = false := by decide +kernel

theorem witness_RequestsThatFailACheckAreRejected :
    let q := ask 0 0x80000000 4 []
    (asking q running).resetAsserted = false ∧ (asking q running).Head q 0 ∧ isRefused (asking q running) q = true :=
  ⟨rfl, ⟨rfl, by decide +kernel⟩, by decide +kernel⟩

/-- The regions lie apart after reset; a request at the ends of capture window L, and one that straddles its end. -/
theorem witness_RequestsThatFailACheckAreRejected_classes : (Part.reset 0).RegionsApart ∧
    classify (Part.reset 0) (ask 1 0x10000000 1 [0]) = some (.capture .left, 0x10000000) ∧
    classify (Part.reset 0) (ask 1 0x1FFFFFFF 1 [0]) = some (.capture .left, 0x10000000) ∧
    classify (Part.reset 0) (ask 1 0x0FFFFFFF 1 [0]) = some (.other, 0) ∧
    classify (Part.reset 0) (ask 1 0x0FFFFFFF 2 [0, 0]) = none :=
  ⟨(rigSound_reset 0).apart, by decide +kernel, by decide +kernel, by decide +kernel, by decide +kernel⟩

/-- The entry of a refused request: POOL for the read of the pool, refused for a straddle (08, worked sequence). -/
theorem test_refusedEntryClass :
    ((after .refusedRequest (asking (ask 0 0x80000000 4 []) running)).entry 0).map (·.cls) = some .pool ∧
    ((after .refusedRequest (asking (ask 0 0x0FFFFFFF 2 []) running)).entry 0).map (·.cls) = some .refused := by
  decide +kernel

/-- What it takes for the head of the intake queue to be accepted into entry 0, all of it decidable. -/
def acceptable (p : Part) (q : Request) (cls : ReqClass) (base o : Nat) : Bool :=
  p.req.intake.head? == some q && unusedEntry p == some 0 && !isRefused p q && classify p q == some (cls, base) &&
    q.addr.toNat - base == o

theorem accepts {p : Part} {q : Request} {cls : ReqClass} {base o : Nat} (h : acceptable p q cls base o = true) :
    p.Accepts q 0 cls o := by
  unfold acceptable at h
  simp only [Bool.and_eq_true, beq_iff_eq, Bool.not_eq_true'] at h
  exact ⟨⟨h.1.1.1.1, h.1.1.1.2⟩, h.1.1.2, base, h.1.2, h.2.symm⟩

theorem witness_PassThroughHandsOnOnePiece :
    (asking (ask 1 0x2000000000 2 [3, 4]) running).Accepts (ask 1 0x2000000000 2 [3, 4]) 0 .other 0x2000000000 ∧
    (asking (ask 0 8 4 []) running).Accepts (ask 0 8 4 []) 0 .rig 8 ∧ (ask 0 8 4 []).kind = .read :=
  ⟨accepts (base := 0) (by decide +kernel), accepts (base := 0) (by decide +kernel), by decide⟩

/-- A WRITE of `n` bytes at offset `o` of the left capture window. -/
def writing (o n : Nat) : Request := ask 1 (BitVec.ofNat 40 (0x10000000 + o)) n (List.replicate n 7)

theorem witness_CaptureRequestsAnsweredAtOnce :
    (asking (ask 0 0x10000004 4 []) running).Accepts (ask 0 0x10000004 4 []) 0 (.capture .left) 4 ∧
    (ask 0 0x10000004 4 []).kind = .read ∧
    (asking (writing 4 2) running).Accepts (writing 4 2) 0 (.capture .left) 4 ∧ (writing 4 2).kind = .write ∧
    ∀ v ∈ [StreamState.off, .waitingSync, .between, .spill], ((inState v running).stream .left).state = v :=
  ⟨accepts (base := 0x10000000) (by decide +kernel), by decide, accepts (base := 0x10000000) (by decide +kernel),
    by decide +kernel, by decide⟩

/-- Writes into the open frame of 1,024 bytes: at the cursor, up to the end, over the end. -/
theorem witness_CaptureWritesInOpenAreForwarded :
    (∀ w ∈ [writing 0 8, writing 960 64, writing 1000 64], (asking w filling).req.intake.head? = some w ∧
      unusedEntry (asking w filling) = some 0 ∧ isRefused (asking w filling) w = false ∧
      classify (asking w filling) w = some (.capture .left, 0x10000000) ∧ w.kind = .write ∧
      w.addr.toNat - 0x10000000 < small.frameBytes) ∧
    (filling.stream .left).state = .open ∧ (filling.stream .left).currentSlot = some 0 ∧ small.hflip = false ∧
    recordOf filling .left 0 = none := by decide +kernel

/-- The open frame under HFLIP with pixels of 2 bytes. -/
def flipped : Part :=
  filling.onStream .left fun c => { c with geom := { small with width := 32, pixelBytes := 2, hflip := true } }

theorem witness_CaptureWritesThatAreNotForwarded :
    (∀ w ∈ [writing 1 2, writing 2 1, writing 1023 1], (asking w flipped).req.intake.head? = some w ∧
      unusedEntry (asking w flipped) = some 0 ∧ isRefused (asking w flipped) w = false ∧
      classify (asking w flipped) w = some (.capture .left, 0x10000000) ∧ w.kind = .write ∧
      ¬((w.addr.toNat - 0x10000000) % 2 = 0 ∧ (w.addr.toNat - 0x10000000 + w.length) % 2 = 0)) ∧
    (flipped.stream .left).geom.hflip = true ∧ (flipped.stream .left).state = .open ∧
    (flipped.stream .left).currentSlot = some 0 ∧ recordOf flipped .left 0 = none ∧
    (∀ w ∈ [writing 1024 4, writing 2000 4], isRefused (asking w filling) w = false ∧
      classify (asking w filling) w = some (.capture .left, 0x10000000) ∧
      small.frameBytes ≤ w.addr.toNat - 0x10000000) := by decide +kernel

/-- The open frame is linked in a FORMING pair whose other slot is COMPLETE; its band is shifted out by two lines, so the last lines
have no byte to write, and it has `n` writes outstanding. The last write makes the pair READY, or does not. -/
def formingLast (n : Nat) : Part :=
  (((filling.onStream .left fun c => { c with geom := { small with shift := 2 } }).onSlot .left 0 fun r =>
      { r with geom := { small with shift := 2 }, writes := n, partner := some 0 }).onSlot .right 0 fun r =>
      { r with state := .complete, geom := small }).onPairs fun m =>
    { m with queue := [{ pair with state := .forming, readyStamp := none }] }

theorem witness_CaptureWrites_endOfLinkedFrame : (∀ n ∈ [0, 1], ∀ w ∈ [writing 960 64, writing 1024 4],
      isRefused (asking w (formingLast n)) w = false ∧
      classify (asking w (formingLast n)) w = some (.capture .left, 0x10000000) ∧
      (formingLast n).pairs.queue.map (·.state) = [.forming] ∧
      ((after .captureWrite (asking w (formingLast n))).pairs.queue.map (·.state) = [.ready] ↔ n = 0)) ∧
    let flip := (formingLast 0).onStream .left fun c => { c with geom := { small with width := 32, pixelBytes := 2, hflip := true } }
    (after .captureWrite (asking (writing 1023 1) flip)).pairs.queue.map (·.state) = [.ready] := by decide +kernel

theorem witness_MarginLinesStayInPlace :
    let g := { small with top := 2, bottom := 3 }
    (∀ l ∈ [0, 1, 13, 15], ((correctedLine g l : Int) < g.top ∨ (g.lines : Int) - g.bottom ≤ correctedLine g l)) ∧
    ¬((correctedLine g 12 : Int) < g.top ∨ (g.lines : Int) - g.bottom ≤ correctedLine g 12) := by decide

/-- The corrections of both flips and a shift of 2 with margins of one line. -/
def corrected : Geometry :=
  { small with pixelBytes := 2, pitch := 128, top := 1, bottom := 1, shift := 2, hflip := true, vflip := true }

theorem witness_BytesGoWhereTheMapperSays :
    let g := corrected
    g.frameBytes = 2048 ∧ physicalAddress g 0 0 = some (15 * 128 + 126) ∧ physicalAddress g 0 128 = none ∧
    physicalAddress g 0 256 = none ∧ physicalAddress g 0 384 = some (14 * 128 + 126) ∧
    physicalAddress g 0 1919 = some (3 * 128 + 1) ∧ physicalAddress g 0 2047 = some 1 := by decide +kernel

theorem witness_Mapper : geometryInRange corrected = true ∧ geometryFits corrected = true ∧ bandFits corrected = true ∧
    (0 : Nat) < corrected.frameBytes ∧ physicalAddress corrected 0 384 = some 1918 ∧
    62 % corrected.pixelBytes = 0 ∧ (62 + 130) % corrected.pixelBytes = 0 ∧ 62 + 130 ≤ corrected.frameBytes := by decide +kernel

/-- A READ of `n` bytes at offset `o` of the pair window. -/
def reading (o n : Nat) : Request := ask 0 (BitVec.ofNat 40 (0x40000000 + o)) n []

theorem witness_PairReadsAnsweredAtOnce :
    (asking (reading 0 4) running).Accepts (reading 0 4) 0 .pair 0 ∧
    (∀ r, (running.reader r).state = .unbound) ∧
    (asking (reading 0 4) (bound idle .nowait running)).Accepts (reading 0 4) 0 .pair 0 ∧
    boundReader (bound idle .nowait running) (reading 0 4).source = some .a ∧
    choosePair .a (bound idle .nowait running) = (bound idle .nowait running, none) ∧
    (bound idle .nowait running).post (.reader .a) ≠ .posted ∧
    ((bound idle .nowait running).readerSettings .a).waitMode = .nowait :=
  ⟨accepts (base := 0x40000000) (by decide +kernel), by intro r; cases r <;> rfl,
    accepts (base := 0x40000000) (by decide +kernel), by decide +kernel, by decide +kernel, by decide +kernel,
    by decide +kernel⟩

theorem witness_PairReadsPark : (∀ v ∈ [ReaderState.idle, .parked],
      let p := bound { idle with state := v } .park running
      isRefused (asking (reading 0 4) p) (reading 0 4) = false ∧
      classify (asking (reading 0 4) p) (reading 0 4) = some (.pair, 0x40000000) ∧
      boundReader p (reading 0 4).source = some .a ∧ p.readers.parkList.length < 8 ∧ (p.reader .a).state = v) ∧
    choosePair .a (bound idle .park running) = (bound idle .park running, none) ∧
    ((bound idle .park running).readerSettings .a).waitMode = .park := by decide +kernel

/-- A restart read of a reader that has gone away from the start of pair 1, which is the last it took, and finds no other. -/
def restarting (w : WaitMode) : Part :=
  (bound { holding with away := true } w (paired 1)).onRig fun u =>
    { u with reader := u.reader.set .a { u.reader.a with restartTakes := true } }

theorem witness_PairReads_failedTakes : ∀ w ∈ [WaitMode.park, .nowait],
    let q := reading 0 4
    let p := asking q (restarting w)
    let handed : Part := { p with req := p.req.waiting 0 (entryOf q .pair 0) }
    isRefused p q = false ∧ classify p q = some (.pair, 0x40000000) ∧ boundReader p q.source = some .a ∧
    (p.reader .a).state = .holding ∧ (p.readerSettings .a).restartTakes = true ∧ (p.reader .a).away = true ∧
    (choosePair .a (release .a false handed)).2 = none ∧ (p.readerSettings .a).waitMode = w ∧
    p.readers.parkList.length < 8 := by decide +kernel

/-- Reader A holds the pair. -/
def held : Part := bound holding .park (paired 1)

theorem witness_HoldReadsAreTranslated : (∀ q ∈ [reading 0 64, reading 2040 8, reading 2040 9],
      isRefused (asking q held) q = false ∧ classify (asking q held) q = some (.pair, 0x40000000) ∧
      boundReader held q.source = some .a) ∧
    (held.reader .a).state = .holding ∧ (held.readerSettings .a).restartTakes = false ∧
    heldRecord held .a = some { pair with holders := 1 } ∧ pair.geom.extent = 2048 := by decide +kernel

/-- The read of the last bytes of the extent; and a read over a line end of a pair whose left slot has a band gap of two lines. -/
theorem witness_HoldReadsAreTranslated_endOfPair :
    let q := reading 1984 64
    isRefused (asking q held) q = false ∧ classify (asking q held) q = some (.pair, 0x40000000) ∧
    1984 + 64 = pair.geom.extent ∧ held.post (.reader .a) ≠ .posted ∧ held.rig.windowChange = none ∧
    held.pairs.queue = [] ++ { pair with holders := 1 } :: [] := by decide +kernel

theorem witness_HoldReadsAreTranslated_meaning :
    let p := held.onSlot .left 0 fun r => { r with geom := { small with shift := 2 } }
    0 < pair.geom.lineBytes ∧ 100 + 100 ≤ pair.geom.extent ∧
    (readPieces p pair 0 1 100 100).map (fun k => (k.addr, k.length, k.role.place)) =
      [(0x80000080, 64, 28), (0x800000C0, 8, 92)] ∧
    inBandGap p pair 127 = true ∧ inBandGap p pair 128 = false ∧ readCode p pair 100 100 = .filled ∧
    readCode p pair 128 72 = .done ∧ readCode p { pair with damage := Damage.ofGap } 100 100 = .damaged := by decide +kernel

theorem witness_TakeReadsHoldThePair :
    let p := bound idle .park (paired 0)
    isRefused (asking (reading 0 64) p) (reading 0 64) = false ∧
    classify (asking (reading 0 64) p) (reading 0 64) = some (.pair, 0x40000000) ∧
    boundReader p (reading 0 64).source = some .a ∧ (p.reader .a).state = .idle ∧
    choosePair .a p = (p, some pair) ∧ takeNotice 1 0 p = some pair ∧
    p.pairs.queue.find? (fun k => k.asHeld == pair.asHeld) = some pair ∧ 64 < pair.geom.extent ∧
    isRefused (asking (reading 1984 64) p) (reading 1984 64) = false ∧
    classify (asking (reading 1984 64) p) (reading 1984 64) = some (.pair, 0x40000000) ∧ 1984 + 64 = pair.geom.extent ∧
    p.post (.reader .a) ≠ .posted ∧ p.rig.windowChange = none := by decide +kernel

/-- The same as a restart read under LATEST, by a reader that holds the pair and has gone away from its start. -/
theorem witness_TakeReadsHoldThePair_restart :
    let p0 := (bound { holding with away := true } .park (paired 1)).onRig fun u =>
      { u with reader := u.reader.set .a { u.reader.a with policy := .latest, restartTakes := true } }
    let p := release .a false p0
    (p0.reader .a).state = .holding ∧ (p0.readerSettings .a).restartTakes = true ∧ (p0.reader .a).away = true ∧
    choosePair .a p = (p, some pair) ∧ takeNotice 1 0 p = some pair ∧
    p.pairs.queue.find? (fun k => k.asHeld == pair.asHeld) = some pair := by decide +kernel

/-- The take read may lie beyond the extent, and the choice may have passed a damaged pair. -/
theorem witness_TakeReadsHoldThePair_beyond :
    let q := reading 2040 16
    let p := asking q (bound idle .park (paired 0))
    isRefused p q = false ∧ classify p q = some (.pair, 0x40000000) ∧ pair.geom.extent < 2040 + q.length ∧
    p.pairs.queue = [] ++ pair :: [] ∧ ((after .pairRead p).reader .a).held = some pair.asHeld ∧
    ((after .pairRead p).reader .a).away = false ∧ ((after .pairRead p).entry 0).map (·.code) = some .rejected := by
  decide +kernel

theorem witness_ReadersChooseByTheirPolicy :
    ((bound idle .park running).readerSettings .a).policy = .every ∧
    ((bound idle .park running).readerSettings .a).skipDamaged = false ∧
    let p := (bound idle .park running).onRig fun u => { u with reader := u.reader.set .a { u.reader.a with policy := .latest } }
    (p.readerSettings .a).policy = .latest := by decide +kernel

/-- Pair 1 is damaged and pair 2 is not; reader A, with policy EVERY, skips damaged pairs. -/
def skipping : Part :=
  ((bound idle .park (paired 0)).onRig fun u => { u with reader := u.reader.set .a { u.reader.a with skipDamaged := true } }).onPairs
    fun m => { m with queue := [{ pair with damage := Damage.ofGap }, { pair with number := 2, leftSlot := 1, rightSlot := 1 }] }

theorem witness_ReadersChooseByTheirPolicy_skipping : (skipping.readerSettings .a).policy = .every ∧
    (skipping.readerSettings .a).skipDamaged = true ∧
    (skipping.pairs.queue.filter fun k => !k.stale).Pairwise (fun a b => a.number < b.number) ∧
    skipping.report.queue.length + 1 ≤ 16 ∧ ((choosePair .a skipping).2.map (·.number)) = some 2 ∧
    ((choosePair .a skipping).1.reader .a).lastTaken = 1 := by decide +kernel

theorem witness_TakeReadsHoldThePair_skipping :
    let q := reading 0 4
    let p := asking q skipping
    let second := { pair with number := 2, leftSlot := 1, rightSlot := 1 }
    let p1 := (choosePair .a { p with req := p.req.waiting 0 (entryOf q .pair 0) }).1
    isRefused p q = false ∧ boundReader p q.source = some .a ∧ takeNotice 2 0 p1 = some second ∧
    p1.pairs.queue = [{ pair with damage := Damage.ofGap }] ++ second :: [] ∧ pair.asHeld ≠ second.asHeld := by decide +kernel

/-- The pair still FORMING, both its slots COMPLETE. -/
def completed : Part :=
  ((running.onSlot .left 0 fun r => { r with state := .complete, geom := small }).onSlot .right 0 fun r =>
      { r with state := .complete, geom := small, damage := Damage.ofGap }).onPairs fun m =>
    { m with queue := [{ pair with state := .forming, readyStamp := none }] }

theorem witness_CompletedPairsBecomeReady :
    completed.pairs.queue = [] ++ [{ pair with state := .forming, readyStamp := none }] ∧
    (completed.slot .left 0).state = .complete ∧ (completed.slot .right 0).state = .complete ∧
    completed.readers.parkList = [] ∧ completed.report.counters.length = 20 := by decide +kernel

/-- A record that is READY already, and one whose left slot has not landed, make nothing of a completed slot. -/
theorem witness_CompletedPairsBecomeReady_notWhole : (paired 0).pairs.queue = [] ++ pair :: [] ∧ pair.slotOf .left = 0 ∧
    slotCompleted .left 0 (paired 0) = paired 0 ∧
    (completed.onSlot .left 0 fun r => { r with state := .landing }).pairs.queue.map (·.state) = [.forming] ∧
    (∀ k ∈ completed.pairs.queue, k.slotOf .left ≠ 3) := by decide +kernel

/-- A read of reader A parked in entry 0, with 30 ticks left. -/
def parkedOn (p : Part) : Part :=
  ((bound { idle with state := .parked } .park p).onReaders fun u =>
      { u with parkList := [{ entry := 0, reader := .a, offset := 4, length := 2, timer := .running 30 }] }).setEntry 0
    (some { entryOf (reading 4 2) .pair 4 with state := .parked })

def parked : Part := parkedOn running

/-- The pair is there for the parked read to take; and no pair is there, under EVERY and under LATEST. -/
theorem witness_CompletedPairsBecomeReady_announcements :
    let p := parkedOn (paired 0)
    (p.reader .a).state = .parked ∧ choosePair .a p = (p, some pair) ∧ takeNotice 1 0 p = some pair ∧
    p.pairs.queue.find? (fun j => j.asHeld == pair.asHeld) = some pair ∧ 4 + 2 < pair.geom.extent ∧
    p.entry 0 = some { entryOf (reading 4 2) .pair 4 with state := .parked } ∧ (p.readerSettings .a).policy = .every ∧
    choosePair .a parked = (parked, none) ∧
    ((parked.onRig fun u => { u with reader := u.reader.set .a { u.reader.a with policy := .latest } }).readerSettings .a).policy =
      .latest := by decide +kernel

/-- Reader A, which restarts its takes, has 64-byte reads parked at these offsets, in the entries from 0 on. -/
def parkedAt (offsets : List Nat) (w : WaitMode) (p : Part) : Part :=
  (offsets.zipIdx.foldl (fun u x => u.setEntry x.2 (some { entryOf { reading x.1 64 with ttag := BitVec.ofNat 8 x.2 } .pair x.1 with
      state := .parked })) ((bound { idle with state := .parked } w p).onRig fun u =>
        { u with reader := u.reader.set .a { u.reader.a with restartTakes := true } })).onReaders fun u =>
    { u with parkList := offsets.zipIdx.map fun x => { entry := x.2, reader := .a, offset := x.1, length := 64, timer := .running 30 } }

/-- The restart read in the middle finds no newer pair: it is parked anew at the tail with a fresh timer, and the read behind it
behind it again; in NOWAIT it is answered NO_PAIR, and the read behind it stays in its place (R74, R78, R82). -/
theorem test_parkedRestartReadIsParkedAnew :
    let list (p : Part) := p.readers.parkList.map fun k => (k.entry, k.timer)
    let fresh (p : Part) := Timer.running ((p.readerSettings .a).parkLimit * 250)
    let p := parkedAt [64, 0, 128] .park (paired 0)
    let q := parkedAt [64, 0, 128] .nowait (paired 0)
    list (announceReady p) = [(1, fresh p), (2, fresh p)] ∧ ((announceReady p).reader .a).state = .parked ∧
    (announceReady p).pairs.queue = [pair] ∧ (announceReady p).req.returning = [] ∧
    list (announceReady q) = [(2, .running 30)] ∧ ((announceReady q).reader .a).state = .parked ∧
    (announceReady q).req.returning = [1] ∧ ((announceReady q).entry 1).map (·.code) = some .noPair ∧
    announceRemoval p = announceReady p := by decide +kernel

/-- The end-of-pair read in the middle releases the pair; the take read behind it finds none and keeps its place and its timer. -/
theorem witness_CompletedPairsBecomeReady_processing :
    let p := parkedAt [64, 1984, 128] .park (paired 0)
    let t := announceReady p
    (p.reader .a).state = .parked ∧ choosePair .a p = (p, some pair) ∧ takeNotice 1 0 p = some pair ∧
    (p.readers.parkList.map (·.reader)).eraseDups = [.a] ∧ (p.readers.parkList.filter fun j => j.reader == .a).length = 3 ∧
    t.readers.parkList.map (fun k => (k.entry, k.timer)) = [(2, .running 30)] ∧ (t.reader .a).state = .parked ∧
    t.pairs.queue = [pair] ∧ (p.entry 0).map (fun v => (v.kind, v.state)) = some (.read, .parked) ∧
    heldRecord held .a = some { pair with holders := 1 } := by decide +kernel

/-- The reader's state is each of the four; a read reaches it, with room in the park list and without. -/
theorem witness_CompletedPairsBecomeReady_arrivals : ∀ v ∈ [ReaderState.unbound, .idle, .parked, .holding], ∀ n ∈ [1, 8],
    let p := (parkedAt (List.replicate n 64) .park (paired 1)).onReader .a fun c =>
      { c with state := v, held := if v = .holding then some pair.asHeld else none, away := decide (v = .holding), lastTaken := 1 }
    (p.reader .a).state = v ∧ (p.readers.parkList.length < 8 ↔ n = 1) ∧ (p.readerSettings .a).restartTakes = true ∧
    (p.entry 0).map (·.kind) = some .read ∧ (v = .holding → heldRecord p .a = some { pair with holders := 1 }) ∧
    choosePair .a p = (p, none) := by decide +kernel

theorem witness_NewestAndHeldPairsStay : (paired 0).pairs.queue = [] ++ pair :: [] ∧ pair.stale = false ∧
    (paired 1).pairs.queue = [] ++ { pair with holders := 1 } :: [] := by decide +kernel

/-- Pair 1 stands before a newer READY pair with other slots; and it stands alone, stale. -/
theorem witness_NewestAndHeldPairsStay_retires :
    let two := (paired 0).onPairs fun m => { m with queue := m.queue ++ [{ pair with number := 2, leftSlot := 1, rightSlot := 1 }] }
    two.pairs.queue = [] ++ pair :: [{ pair with number := 2, leftSlot := 1, rightSlot := 1 }] ∧
    allReaders.all (fun r => !(two.readerSettings r).enabled) = true ∧ (two.slot .left 0).state = .paired ∧
    (two.slot .right 0).state = .paired ∧
    let old := (paired 0).onPairs fun m => { m with queue := [{ pair with stale := true }] }
    old.pairs.queue = [] ++ { pair with stale := true } :: [] ∧ (old.slot .left 0).state = .paired := by decide +kernel

theorem witness_PrdyFollowsItsMode :
    ((paired 0).onRig fun u => { u with global := { u.global with prdyMode := .level } }).rig.global.prdyMode = .level ∧
    (running.onPairs fun m => { m with prdy := true, prdyPulse := .running 250 }).pairs.prdyPulse = .running 250 := by
  decide +kernel

/-- In PULSE the second slot of the pair lands, the pair being current or stale. -/
theorem witness_PrdyFollowsItsMode_pulse : ∀ b ∈ [true, false],
    let p := (completed.onRig fun u => { u with global := { u.global with prdyMode := .pulse } }).onPairs fun m =>
      { m with queue := [{ pair with state := .forming, readyStamp := none, stale := b }] }
    p.rig.global.prdyMode = .pulse ∧ p.pairs.queue = [] ++ [{ pair with state := .forming, readyStamp := none, stale := b }] ∧
    (p.slot .left 0).state = .complete ∧ (p.slot .right 0).state = .complete ∧
    (slotCompleted .right 0 p).pairs.prdy = !b := by decide +kernel

theorem witness_ReaderTimersExpire : held.resetAsserted = false ∧ (held.reader .a).lease = .running 50 ∧
    (held.reader .a).held = some pair.asHeld ∧ held.post (.reader .a) ≠ .posted ∧
    held.report.queue.length < 16 ∧ parked.resetAsserted = false ∧
    parked.readers.parkList.find? (fun j => j.entry == 0) =
      some { entry := 0, reader := .a, offset := 4, length := 2, timer := .running 30 } ∧
    parked.entry 0 = some { entryOf (reading 4 2) .pair 4 with state := .parked } ∧
    (entryOf (reading 4 2) .pair 4).kind = .read ∧ parked.post (.reader .a) ≠ .posted ∧ parked.rig.windowChange = none := by
  decide +kernel

/-- The held pair has one holder or two, is current or stale; a window change waits, and reader B is PARKED or not. -/
theorem witness_ReaderTimersExpire_release : ∀ n ∈ [1, 2], ∀ stale ∈ [true, false], ∀ v ∈ [ReaderState.parked, .unbound],
    let p := ((held.onPairs fun m => { m with queue := [{ pair with holders := n, stale := stale }] }).onReader .b fun c =>
      { c with state := v }).onRig fun u => { u with windowChange := some { base := 0x60000000, layout := .interleaved } }
    let t := after (.leaseExpiry .a) p
    p.pairs.queue = [] ++ { pair with holders := n, stale := stale } :: [] ∧
    ({ pair with holders := n, stale := stale } : PairRecord).asHeld = pair.asHeld ∧ (p.reader .b).state = v ∧
    (t.pairs.queue.isEmpty = true ↔ n = 1 ∧ stale = true) ∧ (t.rig.windowChange = none ↔ v = .unbound) := by decide +kernel

theorem witness_SlotTimersAbandonUnlinkedFrames :
    let p := filling.setMatchTimer .left 0 (.running 60)
    p.resetAsserted = false ∧ 0 < (p.slots.get .left).length ∧ (p.slot .left 0).partner = none ∧
    recordOf p .left 0 = none ∧ p.report.counters.length = 20 ∧ (p.slot .left 0).frameTimer = .running 100 ∧
    (p.slot .left 0).state = .filling ∧ p.matchTimer .left 0 = .running 60 ∧ (p.slot .left 0).state.live = true := by
  decide +kernel

/-- The frame timer of the linked frame; and a slot in each state that a reason accepts, and in one that it does not. -/
theorem witness_SlotTimersAbandonUnlinkedFrames_linked : linked.resetAsserted = false ∧ linked.report.counters.length = 20 ∧
    (linked.slot .left 0).frameTimer = .running 100 ∧ (linked.slot .left 0).state = .filling ∧
    recordOf linked .left 0 = some { pair with rightSlot := 1, state := .forming, readyStamp := none } ∧
    (linked.slot .right 1).state.live = true ∧ (linked.slot .right 1).partner ≠ none ∧ linked.readers.parkList = [] ∧
    linked.report.queue.length + 2 ≤ 16 ∧
    (after (.frameTimerExpiry .left 0) linked).count (.lost .partnerLost) = 1 ∧
    (∀ reason ∈ [LostReason.truncated, .syncLost, .timedOut, .orphaned],
      ((abandon .left 0 reason filling).slot .left 0).state = .free) ∧
    (abandon .left 0 .partnerLost linked).pairs.queue = [] ∧
    ∀ reason ∈ [LostReason.truncated, .syncLost, .partnerLost, .starved],
      let p := filling.onSlot .left 0 fun r => { r with state := .landing }
      abandon .left 0 reason p = p := by decide +kernel

/-- A WRITE of these bytes at offset `o` of the rig table. -/
def rigWriting (o : Nat) (data : List Byte) : Request := ask 1 (BitVec.ofNat 40 o) data.length data

/-- One byte of the SYNC section, not of its check word; in RUNNING and in LOADING. -/
theorem witness_RigWritesLandInTheShadow :
    let q := rigWriting 0x48 [1]
    (asking q running).Accepts q 0 .rig 0x48 ∧ q.kind = .write ∧ q.Whole ∧ (∀ k ∈ Section.all, touchesCheck 0x48 1 k = false) ∧
    (asking q { Part.reset 0 with resetAsserted := false }).Accepts q 0 .rig 0x48 :=
  ⟨accepts (base := 0) (by decide +kernel), by decide, by unfold Request.Whole; decide +kernel, by decide +kernel,
    accepts (base := 0) (by decide +kernel)⟩

/-- The check word of the SYNC section alone, wrong and right; of the READER A section, right, with the reader PARKED. -/
def syncCheck : List Byte := sectionData [checkWord (encodeSync SyncSettings.default)]
def readerCheck : List Byte := sectionData [checkWord (encodeReader ReaderSettings.default)]

theorem witness_CheckWordsRejectOrPost :
    (asking (rigWriting 0x5C [9, 9, 9, 9]) running).Accepts (rigWriting 0x5C [9, 9, 9, 9]) 0 .rig 0x5C ∧
    (rigWriting 0x5C [9, 9, 9, 9]).Whole ∧
    checkMatches ((writeShadow 0x5C [9, 9, 9, 9] running).staged .sync) = false ∧
    (∀ j ∈ Section.all, touchesCheck 0x5C 4 j = true ↔ j = .sync) ∧
    (asking { rigWriting 0x10C readerCheck with ttag := 8 } parked).Accepts { rigWriting 0x10C readerCheck with ttag := 8 } 1
      .rig 0x10C ∧
    checkMatches ((writeShadow 0x10C readerCheck parked).staged (.reader .a)) = true ∧
    (∀ j ∈ Section.all, touchesCheck 0x10C 4 j = true ↔ j = .reader .a) ∧ (parked.reader .a).state = .parked :=
  ⟨accepts (base := 0) (by decide +kernel), by unfold Request.Whole; decide +kernel, by decide +kernel, by decide +kernel,
    ⟨⟨by decide +kernel, by decide +kernel⟩, by decide +kernel, 0, by decide +kernel, by decide +kernel⟩,
    by decide +kernel, by decide +kernel, by decide +kernel⟩

/-- The SYNC section with the LEFT eye as follower and a trim start of 7; and with a divider of 5, which is out of range. -/
def newSync : SyncSettings := { SyncSettings.default with follower := .left, trimStart := 7 }
def syncData (y : SyncSettings) : List Byte := sectionData (withCheck (encodeSync y))

theorem witness_SyncSectionsLatchAtOnce :
    (∀ y ∈ [newSync, { newSync with divider := 5 }],
      isRefused (asking (rigWriting 0x40 (syncData y)) running) (rigWriting 0x40 (syncData y)) = false ∧
      classify (asking (rigWriting 0x40 (syncData y)) running) (rigWriting 0x40 (syncData y)) = some (.rig, 0) ∧
      checkMatches ((writeShadow 0x40 (syncData y) running).staged .sync) = true) ∧
    parseSync ((writeShadow 0x40 (syncData newSync) running).staged .sync) = some newSync ∧
    parseSync ((writeShadow 0x40 (syncData { newSync with divider := 5 }) running).staged .sync) = none ∧
    (∀ j ∈ Section.all, touchesCheck 0x40 32 j = true ↔ j = .sync) ∧ (syncData newSync).length = 32 := by decide +kernel

/-- The filter is seeded at F with both eyes LOCKED, WARN is set or clear, and T is 100. -/
def measured (f : Int) (w : Bool) : Part :=
  running.onSkew fun u => { u with lockView := ⟨true, true⟩, seed := false, f := f, warn := w, trim := 100, satCount := 3 }

theorem witness_SyncSectionsLatchAtOnce_measured : ∀ f ∈ [256 * 501, 256 * 400], ∀ w ∈ [true, false],
    let t := after .checkWordWrite (asking (rigWriting 0x40 (syncData newSync)) (measured f w))
    (measured f w).skew.lockView = ⟨true, true⟩ ∧ (measured f w).skew.seed = false ∧ t.rig.sync = newSync ∧
    (t.skew.warn = true ↔ f = 256 * 501) ∧ t.skew.trim = 7 ∧ t.skew.satCount = 0 ∧ t.skew.sender.word = some 7 := by
  decide +kernel

/-- A READER A section that enables the reader, and one with the part's own source tag; the reader is UNBOUND or IDLE. -/
def newReader (tag : Nat) : ReaderSettings := { ReaderSettings.default with enabled := true, sourceTag := tag }
def readerData (v : ReaderSettings) : List Byte := sectionData (withCheck (encodeReader v))

theorem witness_SyncSectionsLatchAtOnce_reader : (∀ v ∈ [newReader 5, newReader 63], ∀ p ∈ [paired 0, bound idle .park (paired 0)],
      let q := rigWriting 0x100 (readerData v)
      isRefused (asking q p) q = false ∧ classify (asking q p) q = some (.rig, 0) ∧
      checkMatches ((writeShadow 0x100 (readerData v) p).staged (.reader .a)) = true ∧
      (validateReader p .a ((writeShadow 0x100 (readerData v) p).staged (.reader .a))).toOption =
        (if v.sourceTag = 63 then none else some v)) ∧
    (∀ j ∈ Section.all, touchesCheck 0x100 16 j = true ↔ j = .reader .a) ∧ (readerData (newReader 5)).length = 16 ∧
    ((paired 0).reader .a).state = .unbound ∧ ((bound idle .park (paired 0)).reader .a).state = .idle := by decide +kernel

/-- The GLOBAL section with take number 3. -/
def newGlobal : GlobalSettings := { GlobalSettings.default with take := 3 }
def globalData : List Byte := sectionData (withCheck (encodeGlobal newGlobal))

theorem witness_TakeChangesBeginANewTake :
    let q := rigWriting 0 globalData
    let p := paired 0
    isRefused (asking q p) q = false ∧ classify (asking q p) q = some (.rig, 0) ∧ q.kind = .write ∧ q.data.length = q.length ∧
    checkMatches ((writeShadow 0 globalData p).staged .global) = true ∧
    (validateGlobal p ((writeShadow 0 globalData p).staged .global)).toOption = some newGlobal ∧ newGlobal.take ≠ p.take ∧
    (∀ j ∈ Section.all, touchesCheck 0 36 j = true ↔ j = .global) ∧ globalData.length = 36 := by decide +kernel

/-- A write of the whole READER A section while LOADING is passed on as one piece too. -/
theorem witness_CheckWordsRejectOrPost_passedOn :
    let q := rigWriting 0x100 (readerData (newReader 5))
    let p : Part := { Part.reset 0 with resetAsserted := false }
    isRefused (asking q p) q = false ∧ classify (asking q p) q = some (.rig, 0) ∧ touchesCheck 0x100 q.length (.reader .a) = true ∧
    (after .checkWordWrite (asking q p)).txn.issue = [[q.asPiece 0]] := by decide +kernel

/-- Each reason of the checks: words that fail RANGE, and settings that fail each of the others at its limit, or pass. -/
theorem witness_CheckWordsRejectOrPost_reasons :
    let eye (e : EyeSettings) (r : RejectReason) : Bool := isError (validateEye running .left (withCheck (encodeEye e))) r
    let geom (g : Geometry) : EyeSettings := { newEye with geom := g }
    parseEye [] = none ∧ parseGlobal [] = none ∧ parseReader [] = none ∧
    eye (geom { Geometry.default with pitch := 8128 }) .geometry = true ∧
    eye (geom { Geometry.default with top := 64, bottom := 64, lines := 128, pitch := 8192 }) .band = true ∧
    eye (geom { Geometry.default with top := 10, bottom := 10, lines := 21, shift := 1 }) .band = true ∧
    eye badEye .pool = true ∧ eye { newEye with captureBase := 0x20000000 - 0x1000 } .overlap = true ∧
    (validateEye running .left (withCheck (encodeEye newEye))).toOption = some newEye ∧
    isError (validateGlobal running (withCheck (encodeGlobal { newGlobal with windowBase := 0x80000000 - 0x1000 }))) .overlap = true ∧
    (validateGlobal running (withCheck (encodeGlobal newGlobal))).toOption = some newGlobal ∧
    isError (validateReader running .a (withCheck (encodeReader (newReader 63)))) .reader = true ∧
    (validateReader running .a (withCheck (encodeReader (newReader 62)))).toOption = some (newReader 62) := by decide +kernel

/-- A held READY record and a FORMING one stay at a take change, in their order, and a READY one without a holder goes. -/
theorem witness_TakeChangesBeginANewTake_staying :
    let forming := { pair with number := 2, leftSlot := 1, rightSlot := 1, state := .forming, readyStamp := none }
    let free := { pair with number := 3, leftSlot := 2, rightSlot := 2 }
    let p := held.onPairs fun m => { m with queue := [{ pair with holders := 1 }, forming, free] }
    (after .checkWordWrite (asking (rigWriting 0 globalData) p)).pairs.queue =
      [{ pair with holders := 1, stale := true }, { forming with stale := true }] := by decide +kernel

/-- The same section with the take number in force, another report region and PRDY in LEVEL; and with another window base, while
reader A holds the pair. -/
def sameTake : GlobalSettings := { newGlobal with take := 0, reportBase := 0x200000000, prdyMode := .level, windowBase := 0x60000000 }

theorem witness_TakeChangesBeginANewTake_sameTake : ∀ p ∈ [paired 0, held],
    let ds := sectionData (withCheck (encodeGlobal sameTake))
    let q := rigWriting 0 ds
    isRefused (asking q p) q = false ∧ classify (asking q p) q = some (.rig, 0) ∧ q.kind = .write ∧ q.data.length = q.length ∧
    checkMatches ((writeShadow 0 ds p).staged .global) = true ∧
    (validateGlobal p ((writeShadow 0 ds p).staged .global)).toOption = some sameTake ∧ sameTake.take = p.take ∧
    sameTake.prdyMode ≠ p.rig.global.prdyMode ∧ anyBusy p = ((p.reader .a).state == .holding) := by decide +kernel

theorem witness_TheLoadFillsTheShadowAndEnds : (Part.reset 0).rig.loadIndex + 1 < 64 ∧
    64 ≤ ((Part.reset 0).onRig fun u => { u with loadIndex := 63 }).rig.loadIndex + 1 := by decide

/-- A load read in flight under tag 5: a good response, a FAULT, one byte too few, and the M-timeout. -/
def loadTag (n : Nat) : Part :=
  ({ Part.reset 0 with resetAsserted := false, rig := { RigUnit.reset 0 with loadIndex := n } } : Part).setTag 5 (some
    { state := .inFlight, kind := .read, owner := .injected .loadRead, addr := 64 * n, length := 64, source := 63,
      timer := .running 40 })

theorem witness_TheLoadFillsTheShadowAndEnds_results : (loadTag 0).resetAsserted = false ∧
    ((loadTag 0).tag 5).map (·.owner) = some (.injected .loadRead) ∧
    (0x3F00050000 : BitVec 64).toNat / 2 ^ 16 % 256 = 5 ∧ (0x3F00050000 : BitVec 64).toNat / 2 ^ 32 % 65536 + 1 = 64 ∧
    (0x3F01050000 : BitVec 64).toNat / 2 ^ 24 % 256 = 1 ∧ (0x3E00050000 : BitVec 64).toNat / 2 ^ 32 % 65536 + 1 = 63 ∧
    (after (.mportResponse 0x3F00050000 (List.replicate 64 1)) (loadTag 0)).rig.loadIndex = 1 ∧
    (after (.mportResponse 0x3F01050000 (List.replicate 64 1)) (loadTag 0)).count .mFaults = 1 ∧
    (after (.mTimeout 5) (loadTag 63)).rig.partState = .running := by decide +kernel

/-- Sections at the end of the load: one with a fault mark, one with a wrong check word, and each of the others with new settings. -/
theorem witness_TheLoadFillsTheShadowAndEnds_sections :
    let faulted := (loadTag 63).onSection .sync fun v => { v with words := v.words.map fun w => { w with faulted := true } }
    ((faulted.rig.shadow.get .sync).words.any (·.faulted)) = true ∧ (loadSection faulted .sync).post .sync = .rejected ∧
    let wrong := writeShadow 0x40 [9] (loadTag 63)
    checkMatches (wrong.staged .sync) = false ∧ (wrong.rig.shadow.get .sync).words.all (fun w => !w.faulted) = true ∧
    let global := writeShadow 0 globalData (loadTag 63)
    (validateGlobal global (global.staged .global)).toOption = some newGlobal ∧
    (loadSection global .global).report.queue = [] ∧ (loadSection global .global).take = 3 ∧
    let sync := writeShadow 0x40 (syncData newSync) (loadTag 63)
    parseSync (sync.staged .sync) = some newSync ∧ sync.skew.seed = true ∧ (loadSection sync .sync).skew.trim = 7 ∧
    let eye := writeShadow 0x80 (eyeData newEye) (loadTag 63)
    (validateEye eye .left (eye.staged (.eye .left))).toOption = some newEye ∧
    ((loadSection eye (.eye .left)).stream .left).state = .waitingSync := by decide +kernel

theorem witness_EventClearWordClearsFlags :
    let q := rigWriting 4092 [4]
    (asking q running).Accepts q 0 .rig 4092 ∧ q.kind = .write ∧ q.Whole ∧ 4092 < 4092 + q.length ∧
    (asking (rigWriting 4095 [4]) running).Accepts (rigWriting 4095 [4]) 0 .rig 4095 :=
  ⟨accepts (base := 0) (by decide +kernel), by decide, by unfold Request.Whole; decide +kernel, by decide +kernel,
    accepts (base := 0) (by decide +kernel)⟩

theorem witness_SectionsHoldTheirSettings_global : ∀ n ∈ ringSizes,
    let g : GlobalSettings :=
      { GlobalSettings.default with
        ringSize := n, windowBase := 2 ^ 40 - 2 ^ 29, reportBase := 0x100000000, frameLimit := 100, mTimeout := 16 }
    g.windowBase % 4096 = 0 ∧ g.windowBase + 2 ^ 29 ≤ 2 ^ 40 ∧ g.matchTolerance < 65536 ∧ g.reportBase % 4096 = 0 ∧
    g.reportBase + 256 + 32 * g.ringSize ≤ 2 ^ 40 ∧ g.ringSize ∈ [16, 32, 64, 128, 256, 512, 1024, 2048, 4096] ∧
    1 ≤ g.statusInterval ∧ g.statusInterval < 256 ∧ parseGlobal (withCheck (encodeGlobal g)) = some g := by decide +kernel

theorem witness_SectionsHoldTheirSettings : syncInRange SyncSettings.default = true ∧
    ReaderSettings.default.sourceTag ≤ 63 ∧ 100 ≤ ReaderSettings.default.lease ∧
    geometryInRange (EyeSettings.default .left).geom = true ∧ (EyeSettings.default .left).captureBase % 4096 = 0 ∧
    (EyeSettings.default .left).captureBase + 2 ^ 28 ≤ 2 ^ 40 ∧ (EyeSettings.default .left).poolBase % 4096 = 0 ∧
    (EyeSettings.default .left).poolBase < 2 ^ 40 := by decide +kernel

def piece : Piece :=
  { kind := .write, addr := 64, length := 2, data := [1, 2], source := 1, entry := 0, role := .captureWrite .left 0 }

def waiting (n : Nat) : Injected := { owner := .recordWrite, kind := .write, addr := 32, length := 1, data := [5], wait := n }

theorem witness_TheArbiterIssuesOneRequest :
    let p := running.onTxn fun u => { u with issue := [[piece, piece], [piece]], injected := [waiting 7] }
    p.txn.quiet = .stopped ∧ p.txn.output = none ∧ tagToTake p.txn = some 0 ∧ p.txn.choice = none ∧
    (∀ i ∈ p.txn.injected.head?, i.wait < 8) ∧
    let p8 := running.onTxn fun u => { u with issue := [[piece]], injected := [waiting 8] }
    p8.txn.quiet = .stopped ∧ p8.txn.output = none ∧ tagToTake p8.txn = some 0 ∧ p8.txn.choice = none ∧ 8 ≤ (waiting 8).wait := by
  decide +kernel

/-- No tag is FREE and a piece waits. Tag 40 becomes FREE, then tag 3: the piece takes tag 40 (R162). -/
def tagless : TxnUnit :=
  { running.txn with
    issue := [[piece]]
    tags := List.replicate 64 (some
      { state := .inFlight, kind := .write, owner := .entry 0 .passThrough, addr := 0, length := 1, source := 1,
        timer := .stopped }) }

theorem witness_TheArbiterIssuesOneRequest_claim : tagless.tags.all Option.isSome = true ∧ tagless.output = none ∧
    tagless.issue ≠ [] ∧ 40 < tagless.tags.length ∧
    (after .arbiterIssue (running.onTxn fun _ => (tagless.tagFreed 40).tagFreed 3)).txn.output.map (·.tag) = some 40 ∧
    (after .arbiterIssue (running.onTxn fun _ => (tagless.tagFreed 3).tagFreed 40)).txn.output.map (·.tag) = some 3 := by
  decide +kernel

/-- While no tag is FREE the turn is kept: of the group, or of an injected request with a wait count of 8. -/
theorem witness_TheArbiterIssuesOneRequest_waits : tagless.quiet = .stopped ∧ tagless.choice = none ∧
    tagless.tags.all Option.isSome = true ∧ tagless.injected = [] ∧
    (after .arbiterIssue (running.onTxn fun _ => tagless)).txn = { tagless with choice := some .group } ∧
    (after .arbiterIssue (running.onTxn fun _ => { tagless with injected := [waiting 8] })).txn.choice = some .injected := by
  decide +kernel

theorem witness_UnknownTagResponsesAreCounted : running.tag ((0 : BitVec 64).toNat / 2 ^ 16 % 256) = none ∧
    running.tag ((0x640000 : BitVec 64).toNat / 2 ^ 16 % 256) = none := by decide +kernel

/-- The tag of the piece in flight is quarantined. -/
def late : Part :=
  (inFlight .write [] (.captureWrite .left 0) filling).setTag 0 (some
    { state := .quarantined, kind := .write, owner := .entry 0 (.captureWrite .left 0), addr := 0, length := 2, source := 1,
      timer := .stopped })

theorem witness_LateResponsesFreeTheirTags : (late.tag 0).map (·.state) = some .quarantined ∧
    (1 : BitVec 64).toNat / 2 ^ 16 % 256 = 0 := by decide +kernel

theorem witness_ResultsFreeOrQuarantineTheTag :
    let p := inFlight .read [0, 0] .passThrough running
    (p.tag 0).map (·.state) = some .inFlight ∧ (p.tag 0).map (·.timer) = some (.running 40) := by decide +kernel

/-- A response of two bytes, one of three bytes, and one with status 1. -/
theorem witness_PassThroughResponsesCompleteTheRequest :
    let p := inFlight .read [0, 0] .passThrough running
    (p.tag 0).map (·.owner) = some (.entry 0 .passThrough) ∧ (p.entry 0).map (·.outstanding) = some 1 ∧
    (p.entry 0).map (·.length) = some 2 ∧ (p.entry 0).map (·.data.length) = some 2 ∧
    (0x100000000 : BitVec 64).toNat / 2 ^ 32 % 65536 + 1 = 2 ∧ (0x200000000 : BitVec 64).toNat / 2 ^ 32 % 65536 + 1 = 3 ∧
    (0x101000000 : BitVec 64).toNat / 2 ^ 24 % 256 = 1 := by decide +kernel

/-- The slot of the piece in flight has `n` writes outstanding and is in a state. -/
def landing (v : SlotState) (n : Nat) : Part :=
  (inFlight .write [] (.captureWrite .left 0) filling).onSlot .left 0 fun r => { r with state := v, writes := n }

theorem witness_CaptureWriteResponsesLandTheFrame : (∀ v ∈ [SlotState.filling, .landing], ∀ n ∈ [1, 2],
      ((landing v n).slot .left 0).writes = n ∧ ((landing v n).slot .left 0).state = v ∧ recordOf (landing v n) .left 0 = none ∧
      ((landing v n).tag 0).map (·.state) = some .inFlight ∧ ((landing v n).entry 0).map (·.outstanding) = some 1) ∧
    (1 : BitVec 64).toNat % 256 = 1 ∧ (1 : BitVec 64).toNat / 2 ^ 24 % 256 = 0 := by decide +kernel

/-- The same with the slot named by a FORMING record whose other slot is COMPLETE: the last result makes the pair READY. -/
def landingLinked (n : Nat) : Part :=
  ((landing .landing n).onSlot .right 0 fun r => { r with state := .complete, geom := small }).onPairs fun m =>
    { m with queue := [{ pair with state := .forming, readyStamp := none }] }

theorem witness_CaptureWriteResponsesLandTheFrame_linked : ∀ n ∈ [1, 2],
    ((landingLinked n).tag 0).map (·.owner) = some (.entry 0 (.captureWrite .left 0)) ∧
    ((landingLinked n).slot .left 0).writes = n ∧ ((landingLinked n).entry 0).map (·.kind) = some .write ∧
    ∀ c ∈ [Instr.mportResponse 1 [], .mportResponse 0x1000001 [], .mTimeout 0],
      ((after c (landingLinked n)).pairs.queue.map (·.state) = [.ready] ↔ n = 1) := by decide +kernel

/-- A response with status 1, and an M-timeout, at a slot in each state that has writes outstanding. -/
theorem witness_CaptureWriteResponsesLandTheFrame_failed : ∀ v ∈ [SlotState.filling, .landing, .draining], ∀ n ∈ [1, 2],
    (landing v n).resetAsserted = false ∧ (landing v n).report.counters.length = 20 ∧
    ((landing v n).tag 0).map (·.owner) = some (.entry 0 (.captureWrite .left 0)) ∧
    ((landing v n).tag 0).map (·.timer) = some (.running 40) ∧ (0x1000001 : BitVec 64).toNat / 2 ^ 24 % 256 ≠ 0 ∧
    0 < ((landing v n).slots.get .left).length ∧ recordOf (landing v n) .left 0 = none ∧
    ∀ c ∈ [Instr.mportResponse 0x1000001 [], .mTimeout 0], let r := (after c (landing v n)).slot .left 0
      r.damage.writeFault = (v != .draining) ∧ r.writes = n - 1 ∧
      (r.quarantined = 1 ↔ c = .mTimeout 0) := by decide +kernel

/-- A read piece in flight: a good response, one with status 1, and an M-timeout. -/
theorem witness_CaptureWriteResponsesLandTheFrame_read :
    let p := inFlight .read [9, 9] (.readPiece .left 0 0) (filling.onSlot .left 0 fun r => { r with state := .draining, reads := 1 })
    (p.tag 0).map (·.state) = some .inFlight ∧ (p.tag 0).map (·.owner) = some (.entry 0 (.readPiece .left 0 0)) ∧
    (p.tag 0).map (·.length) = some 2 ∧ (p.tag 0).map (·.timer) = some (.running 40) ∧
    (p.entry 0).map (·.outstanding) = some 1 ∧ 0 < (p.slots.get .left).length ∧
    (0x100000000 : BitVec 64).toNat / 2 ^ 32 % 65536 + 1 = 2 ∧ (0x101000000 : BitVec 64).toNat / 2 ^ 24 % 256 = 1 ∧
    ((after (.mportResponse 0x100000000 [3, 4]) p).entry 0).map (·.data) = some [3, 4] ∧
    ((after (.mportResponse 0x101000000 [3, 4]) p).entry 0).map (·.code) = some .memoryFault ∧
    ((after (.mTimeout 0) p).slot .left 0).quarantined = 1 := by decide +kernel

def record : ReportRecord := { seq := 4, stamp := 5, take := 0, body := .takeChange 0 1 }

theorem witness_EventsReachTheReportUnit : running.report.flags.getLsbD EventFlag.frameLost.bit = false ∧
    (setFlag .frameLost running).report.flags.getLsbD EventFlag.frameLost.bit = true ∧ running.report.queue.length < 16 ∧
    16 ≤ (running.onReport fun u => { u with queue := List.replicate 16 record }).report.queue.length ∧
    running.report.counters.length = 20 := by decide +kernel

/-- A status write is due, or a record waits; the interval timer runs. -/
def reporting (due : Bool) (last : ReportWrite) (records : List ReportRecord) : Part :=
  running.onReport fun u => { u with due := due, lastOffered := last, queue := records, interval := .running 70, changed := true }

theorem witness_ReportWritesAreOffered : (∀ l ∈ [[], [record]], (reporting true .record l).resetAsserted = false ∧
      (reporting true .record l).rig.partState = .running ∧ (reporting true .record l).report.outstanding = none ∧
      (reporting true .record l).report.due = true ∧ (reporting true .record l).report.lastOffered = .record) ∧
    (∀ d ∈ [(true, ReportWrite.status), (false, .record)], (reporting d.1 d.2 [record]).report.queue = [record] ∧
      ((reporting d.1 d.2 [record]).report.due = false ∨ (reporting d.1 d.2 [record]).report.lastOffered = .status)) ∧
    (reporting false .record []).report.interval = .running 70 := by decide +kernel

/-- A write of the report unit in flight: its result is good, a fault, or late. -/
theorem witness_ReportWritesAreOffered_results : ∀ o ∈ [Injector.statusWrite, .recordWrite],
    let p := (reporting false .record [record]).setTag 0 (some
      { state := .inFlight, kind := .write, owner := .injected o, addr := 0, length := 32, source := 63, timer := .running 40 })
    p.resetAsserted = false ∧ p.report.counters.length = 20 ∧ (p.tag 0).map (·.state) = some .inFlight ∧
    (p.tag 0).map (·.owner) = some (.injected o) ∧ (p.tag 0).map (·.timer) = some (.running 40) ∧
    (1 : BitVec 64).toNat / 2 ^ 24 % 256 = 0 ∧ (0x1000001 : BitVec 64).toNat / 2 ^ 24 % 256 ≠ 0 ∧
    (after (.mportResponse 1 []) p).report.queue.length = (if o = .recordWrite then 0 else 1) ∧
    (after (.mTimeout 0) p).count .mTimeouts = 1 := by decide +kernel

theorem witness_CommandsWithoutOccasionChangeNothing : running.resetAsserted = false ∧ running.txn.quiet = .stopped ∧
    (running.acq .left).lossTimer = .stopped ∧ running.sync.streamNotices.get .left = [] ∧
    running.sync.skewNotices.get .left = [] ∧ running.skew.sender.timer = .stopped ∧ running.req.intake = [] ∧
    running.txn.output = none ∧ running.tag 0 = none ∧ (running.slot .left 0).frameTimer = .stopped ∧
    running.matchTimer .left 0 = .stopped ∧ (running.reader .a).lease = .stopped ∧ running.readers.parkList = [] ∧
    running.pairs.prdyPulse = .stopped ∧ running.report.interval = .stopped ∧ running.report.due = false ∧
    running.report.queue = [] ∧
    pulseTaken .left 0 (running.onSync fun u => { u with pulsed := u.pulsed.set .left true }) = true := by decide +kernel

/-- The head notice and the head request are of another kind or class; the turn is the other kind's; the part is LOADING. -/
theorem witness_CommandsWithoutOccasionChangeNothing_turns :
    let r (kind : ReportWrite) (p : Part) : Part := p.onReport fun u =>
      { u with lastOffered := kind, due := true, queue := [{ seq := 0, stamp := 0, take := 0, body := .takeChange 0 1 }] }
    after .statusWriteOffer (r .status running) = r .status running ∧ after .recordWriteOffer (r .record running) = r .record running ∧
    after .statusWriteOffer (r .record running) ≠ r .record running ∧ after .recordWriteOffer (r .status running) ≠ r .status running ∧
    (told .lockGained running).sync.streamNotices.get .left = [.lockGained] ∧
    (toldSkew .departure running).sync.skewNotices.get .left = [.departure] ∧ (Part.reset 0).rig.partState = .loading ∧
    (asking (reading 0 4) running).req.intake.head? = some (reading 0 4) ∧ (reading 0 4).kind = .read ∧
    classify (asking (reading 0 4) running) (reading 0 4) = some (.pair, 0x40000000) ∧
    isRefused (asking (reading 0 4) running) (reading 0 4) = false := by decide +kernel

theorem witness_EveryStepKeepsTheRules :
    let s : State := { hw := Part.reset 0, pending := [.resetNRelease] }
    s.Inv ∧ s.hw.RigSound ∧ s.hw.PrdyDriven ∧ s.hw.IntakeWhole ∧ (∀ c ∈ s.pending, c.wellFormed = true) ∧
      step s = .next { hw := releaseReset s.hw, pending := [] } := by
  refine ⟨inv_reset 0, rigSound_reset 0, prdyDriven_reset 0, ?_, by decide, rfl⟩
  intro q hq
  simp [Part.reset, RequestPath.reset] at hq

/-- On a reused take number (7, 8, 7) a held stale pair 1 and a current pair 1 stand in the queue: a take of pair 1 reaches the
current one (R58). -/
theorem test_takeReachesTheCurrentPair :
    let old := { pair with stale := true, holders := 1, leftSlot := 1, rightSlot := 1 }
    let p := (bound idle .park (paired 0)).onPairs fun m => { m with queue := [old, pair] }
    takeNotice 1 0 p = some pair ∧ (attemptTake .a p).1.pairs.queue = [old, { pair with holders := 1 }] ∧
    ((attemptTake .a p).1.reader .a).held = some pair.asHeld ∧
    (release .a false (attemptTake .a p).1).pairs.queue = [old, pair] := by decide +kernel

end Sys2Proof.Tests
end

