-- ==== Sys2Proof/Proofs/MapperPlaces.lean ====
section
/-! SUPPORT. Where the mapper puts one logical byte: margin lines, band lines whose target lies in the band and band lines whose
target leaves it, each said once for the line (R98 to R101) and read off for the byte (R97, R102, R103). -/

namespace Sys2Proof.Machine

/-! ### The physical line -/

theorem isMargin_iff (g : Geometry) (c : Nat) : isMargin g c = true ↔ c < g.top ∨ g.lines ≤ c + g.bottom := by
  simp [isMargin]

theorem inBand_iff (g : Geometry) (t : Int) : inBand g t = true ↔ (g.top : Int) ≤ t ∧ t + g.bottom < g.lines := by
  simp [inBand, Int.lt_sub_right_iff_add_lt]

/-- A line that lies neither in the top nor in the bottom margin is a band line. -/
theorem isMargin_of_band {g : Geometry} {c : Nat} (top : g.top ≤ c) (bottom : c + g.bottom < g.lines) :
    ¬isMargin g c = true := by
  rw [isMargin_iff]
  omega

theorem physicalLine_of_margin {g : Geometry} {l : Nat} (margin : isMargin g (correctedLine g l) = true) :
    physicalLine g l = some (correctedLine g l) := by
  simp [physicalLine, margin]

theorem physicalLine_of_target {g : Geometry} {l target : Nat} (band : ¬isMargin g (correctedLine g l) = true)
    (shifted : (target : Int) = targetLine g (correctedLine g l)) (inside : inBand g target = true) :
    physicalLine g l = some target := by
  simp [physicalLine, band, ← shifted, inside]

theorem physicalLine_of_outside {g : Geometry} {l : Nat} (band : ¬isMargin g (correctedLine g l) = true)
    (outside : ¬inBand g (targetLine g (correctedLine g l)) = true) : physicalLine g l = none := by
  simp [physicalLine, band, outside]

/-! ### The physical address -/

theorem physicalAddress_of_line {g : Geometry} {o line : Nat} (base : Nat)
    (h : physicalLine g (o / g.lineBytes) = some line) :
    physicalAddress g base o = some (base + line * g.pitch + physicalByte g (o % g.lineBytes)) := by
  simp [physicalAddress, h]

theorem physicalAddress_of_clipped {g : Geometry} {o : Nat} (base : Nat)
    (h : physicalLine g (o / g.lineBytes) = none) : physicalAddress g base o = none := by
  simp [physicalAddress, h]

/-! ### The statements about the mapper -/

/-- Settles O28: the margin branch of the line's place never looks at the shift. -/
theorem marginLinesStayInPlace : Obligations.MarginLinesStayInPlace := by
  intro g l margin
  have stays : physicalLine g l = some (correctedLine g l) :=
    physicalLine_of_margin ((isMargin_iff g _).mpr (by omega))
  refine ⟨stays, fun base o ofLine => ?_⟩
  subst ofLine
  exact ⟨_, physicalAddress_of_line base stays⟩

/-- Settles O29, one case for each place of the corrected line: in a margin, in the band with its target, in the band with its
target outside it. -/
theorem bytesGoWhereTheMapperSays : Obligations.BytesGoWhereTheMapperSays := by
  intro g base o _ line b c byte
  refine ⟨fun margin => ?_, fun target top bottom shifted targetTop targetBottom => ?_, fun top bottom outside => ?_⟩
  · have stays := physicalLine_of_margin ((isMargin_iff g c).mpr margin)
    exact physicalAddress_of_line base stays
  · have inside : inBand g target = true := (inBand_iff g target).mpr (by omega)
    have moves := physicalLine_of_target (isMargin_of_band top bottom) shifted inside
    exact physicalAddress_of_line base moves
  · have leaves : ¬inBand g (targetLine g c) = true := by
      rw [inBand_iff, targetLine]
      omega
    have clipped := physicalLine_of_outside (isMargin_of_band top bottom) leaves
    exact physicalAddress_of_clipped base clipped

end Sys2Proof.Machine
end

/-! SUPPORT. What a late response does at the part (R163, R168): its tag is FREE, it is counted, and the slot its piece addresses,
if it addresses one, has one quarantined piece less. -/

namespace Sys2Proof.Machine

/-- The tag of a response is byte 2 of the record (R187). -/
theorem parseResponse_tag (header : BitVec 64) (data : List Byte) :
    (parseResponse header data).tag = header.toNat / 2 ^ 16 % 256 := rfl

/-- A response to a QUARANTINED tag is a late response, whatever else it carries (R163). -/
theorem takeResponse_of_quarantined {m : MResponse} {te : TagEntry} {p : Part} (used : p.tag m.tag = some te)
    (quarantined : te.state = .quarantined) : takeResponse m p = lateResponse m.tag te p := by
  unfold takeResponse
  simp only [used, quarantined]

/-- Of the transaction unit, a tag that becomes FREE changes its own entry, and besides at most the choice and the claim of a
request that waits for a tag (R162). -/
theorem tagFreed_eq (t : Nat) (u : TxnUnit) :
    u.tagFreed t =
      { u with tags := u.tags.set t none, choice := (u.tagFreed t).choice, claim := (u.tagFreed t).claim } := by
  unfold TxnUnit.tagFreed
  split <;> rfl

/-! ### The late response, by whether its request addresses a slot -/

/-- The piece leaves the quarantine of its slot (R40). -/
theorem lateResponse_of_slot {te : TagEntry} {x : Eye} {i : Nat} (t : Nat) (p : Part) (addressed : te.owner.slot = some (x, i)) :
    lateResponse t te p =
      { raise .lateResponses p with
        slots := p.slots.set x ((p.slots.get x).modify i SlotRecord.lateResponse), txn := p.txn.tagFreed t } := by
  unfold lateResponse
  simp only [addressed]
  rfl

/-- A request that addresses no slot leaves the slot tables as they are. -/
theorem lateResponse_of_no_slot {te : TagEntry} (t : Nat) (p : Part) (unaddressed : te.owner.slot = none) :
    lateResponse t te p = { raise .lateResponses p with txn := p.txn.tagFreed t } := by
  unfold lateResponse
  simp only [unaddressed]
  rfl

/-! ### The statement about late responses -/

/-- Settles O51, by whether the request of the tag addresses a slot. -/
theorem lateResponsesFreeTheirTags : Obligations.LateResponsesFreeTheirTags := by
  intro header data te s running m used quarantined counted slots
  have tag : (parseResponse header data).tag = m := parseResponse_tag header data
  have late : takeResponse (parseResponse header data) s.hw = lateResponse m te s.hw := by
    rw [← tag] at used ⊢
    exact takeResponse_of_quarantined used quarantined
  have freed : lateResponse m te s.hw = { counted with slots := slots, txn := s.hw.txn.tagFreed m } := by
    cases slot : te.owner.slot with
    | none =>
      simp only [slots, slot]
      exact lateResponse_of_no_slot m s.hw slot
    | some place =>
      simp only [slots, slot]
      exact lateResponse_of_slot m s.hw slot
  have answers : exec (.mportResponse header data) s =
      .next { s with hw := markChanged s.hw { counted with slots := slots, txn := s.hw.txn.tagFreed m } } := by
    rw [← freed, ← late]
    exact whenRunning_running _ s running
  exact ⟨_, answers, rfl, rfl, tagFreed_eq m s.hw.txn⟩

end Sys2Proof.Machine

/-! SUPPORT. What every step keeps: the invariant of the part, command by command, and the waiting requests whole. -/

namespace Sys2Proof.Machine

/-! ### The invariant of the part -/

/-- The work of every command keeps the invariant of the part. -/
theorem inv_exec (c : Instr) (s t : State) (h : s.hw.Inv) (ht : exec c s = .next t) : t.hw.Inv := by
  have onRun : ∀ f : Part → Part, (∀ p, p.Inv → (f p).Inv) → whenRunning f s = .next t → t.hw.Inv :=
    fun f hf => inv_whenRunning f hf s t h
  cases c with
  | resetNAssert k =>
    cases ht
    exact inv_reset k
  | resetNRelease =>
    cases ht
    dsimp only
    split
    · exact inv_releaseReset _ h
    · exact h
  | resetQuietTimeEnd => exact onRun _ (inv_onExpiry _ endQuietTime fun _ hp => hp.same rfl) ht
  | fsyncPulse x time => exact onRun _ (inv_fsyncPulse x time) ht
  | syncLossTimerExpiry x => exact onRun _ (inv_syncLossTimerExpiry x) ht
  | frameStart x => exact onRun _ (inv_frameStart x) ht
  | lockGained x => exact onRun _ (inv_lockGained x) ht
  | lockLost x => exact onRun _ (inv_lockLost x) ht
  | skewPulseHandover x => exact onRun _ (inv_skewPulseHandover x) ht
  | skewLockNotice x => exact onRun _ (inv_skewLockNotice x) ht
  | skewDepartureNotice x => exact onRun _ (inv_skewDepartureNotice x) ht
  | trimWordEnd => exact onRun _ inv_trimWordEnd ht
  | trimGapEnd => exact onRun _ inv_trimGapEnd ht
  | requestAccept header data => exact onRun _ (inv_acceptRequest _) ht
  | captureWrite => exact onRun _ (inv_handleHead _) ht
  | captureRead => exact onRun _ (inv_handleHead _) ht
  | pairRead => exact onRun _ (inv_handleHead _) ht
  | rigWrite => exact onRun _ (inv_handleHead _) ht
  | checkWordWrite => exact onRun _ (inv_handleHead _) ht
  | eventClearWord => exact onRun _ (inv_handleHead _) ht
  | passThrough => exact onRun _ (inv_handleHead _) ht
  | responseAccept => exact onRun _ inv_acceptResponse ht
  | arbiterIssue => exact onRun _ inv_arbiterIssue ht
  | mportAccept => exact onRun _ inv_mportAccept ht
  | mportResponse header data => exact onRun _ (inv_takeResponse _) ht
  | mTimeout m => exact onRun _ (inv_mTimeoutExpiry m) ht
  | frameTimerExpiry x i => exact onRun _ (fun p => inv_onExpiry _ _ (fun _ hq => invMoves.abandon _ _ _ _ hq) p) ht
  | matchTimerExpiry x i =>
    exact onRun _ (fun p => inv_onExpiry _ _ (fun _ hq => invMoves.abandon _ _ _ _ (invMoves.setMatchTimer _ _ _ _ hq)) p) ht
  | leaseExpiry r => exact onRun _ (fun p => inv_onExpiry _ _ (fun _ hq => invMoves.leaseLapses _ _ hq) p) ht
  | parkTimerExpiry e =>
    refine onRun _ (fun p hp => ?_) ht
    unfold parkTimerExpiry
    split
    · exact hp
    · exact inv_onExpiry _ _ (fun _ hq => invMoves.parkLapses _ _ hq) p hp
  | prdyPulseEnd => exact onRun _ (fun p => inv_onExpiry _ endPrdyPulse (fun _ hq => hq.same rfl) p) ht
  | statusIntervalExpiry => exact onRun _ inv_statusIntervalExpiry ht
  | statusWriteOffer => exact onRun _ inv_statusWriteOffer ht
  | recordWriteOffer => exact onRun _ inv_recordWriteOffer ht
  | refusedRequest => exact onRun _ (inv_handleHead _) ht

/-- A step is one tick or the command at the front of the queue. -/
theorem step_cases {I : Part → Prop} (time : ∀ p n, I p → I (passTime n p)) {s t : State}
    (runs : ∀ c ∈ s.pending, ∀ u : State, u.hw = s.hw → exec c u = .next t → I t.hw) (h : I s.hw) (ht : step s = .next t) :
    I t.hw := by
  unfold step at ht
  cases waiting : s.pending with
  | nil =>
    simp only [waiting] at ht
    cases ht
    exact time _ 1 h
  | cons c rest =>
    simp only [waiting] at ht
    exact runs c (by simp [waiting]) { s with pending := rest } rfl ht

/-! ### The waiting requests stay whole: operations that leave the intake queue alone -/

theorem whole_changeFlags (p : Part) (v : BitVec 11) (h : p.IntakeWhole) : (changeFlags v p).IntakeWhole := by
  unfold changeFlags
  split <;> exact h

theorem wholeFree : FreeMoves Part.IntakeWhole where
  pairs _ _ _ _ h := h
  prdy _ h := keeps_ite (I := Part.IntakeWhole) h h
  ready p h := by
    unfold prdyOnReady
    split
    · exact h
    · exact h
    · exact keeps_ite (I := Part.IntakeWhole) h h
  slots _ _ _ h := h
  ctx _ _ h := h
  park _ _ _ h := h
  table _ _ _ h := h
  returning _ _ h := h
  issue _ _ h := h
  count _ _ _ h := h
  record p _ _ _ h := keeps_ite (I := Part.IntakeWhole) h (whole_changeFlags _ _ h)
  flag p _ h := whole_changeFlags p _ h
  post _ _ _ h := h
  readerSettings _ _ _ _ h := h
  window _ _ _ h := h

theorem wholeMoves : FrameMoves Part.IntakeWhole Part.IntakeWhole := { wholeFree.moves with abandoned := fun _ _ _ h => h }

theorem wholeSkew : SkewMoves Part.IntakeWhole Part.IntakeWhole := { wholeFree.moves with skew := fun _ _ _ h => h }

theorem whole_passTime (p : Part) (n : Nat) (h : p.IntakeWhole) : (passTime n p).IntakeWhole := by
  unfold passTime
  split <;> exact h

theorem whole_onExpiry (t : Timer) (f : Part → Part) (hf : ∀ p, p.IntakeWhole → (f p).IntakeWhole) (p : Part)
    (h : p.IntakeWhole) : (onExpiry t f p).IntakeWhole := by
  unfold onExpiry
  split
  · exact h
  · exact hf _ (whole_passTime _ _ h)

/-! ### Latches and the load, for any property that their elementary moves keep -/

/-- The elementary moves of the latches, the rig unit and the load. -/
structure RigMoves (I : Part → Prop) : Prop where
  rig : ∀ p f, I p → I (p.onRig f)
  skew : ∀ p f, I p → I (p.onSkew f)
  stream : ∀ p x f, I p → I (p.onStream x f)
  slots : ∀ p x f, I p → I (p.onSlots x f)
  pairs : ∀ p f, I p → I (p.onPairs f)
  ctx : ∀ p (f : PerReader ReaderCtx → PerReader ReaderCtx), I p → I (p.onReaders fun u => { u with ctx := f u.ctx })
  report : ∀ p f, (∀ u, (f u).flags = u.flags) → I p → I (p.onReport f)
  flag : ∀ p f, I p → I (setFlag f p)

namespace RigMoves

variable {I : Part → Prop} (m : RigMoves I)
include m

theorem setPost (p : Part) (k : Section) (v : PostState) (h : I p) : I (p.setPost k v) :=
  m.rig p (fun u => { u with shadow := u.shadow.set k { u.shadow.get k with post := v } }) h

theorem raise (p : Part) (c : Counter) (h : I p) : I (raise c p) :=
  m.report p (fun u => { u with counters := u.counters.modify c.index (· + BitVec.ofNat 32 1) }) (fun _ => rfl) h

theorem queueRecord (p : Part) (stamp : Stamp) (take : Word) (body : RecordBody) (h : I p) : I (queueRecord stamp take body p) :=
  keeps_ite (m.report _ _ (fun _ => rfl) h) (m.flag _ _ (m.raise _ _ h))

theorem rejectSection (p : Part) (k : Section) (reason : RejectReason) (loadFault : Bool) (h : I p) :
    I (rejectSection k reason loadFault p) := m.queueRecord _ _ _ _ (m.flag _ _ (m.setPost _ _ _ h))

/-! ### Pairs and readers -/

theorem evaluatePrdy (p : Part) (h : I p) : I (evaluatePrdy p) := keeps_ite (m.pairs p _ h) h

theorem evaluateRetirement (p : Part) (h : I p) : I (evaluateRetirement p) := by
  have retired : I ((retiring p p.pairs.queue).foldl retireSlots (p.onPairs fun u => { u with queue := staying p u.queue })) :=
    ReaderMoves.foldl retireSlots (fun _ _ hq => m.slots _ _ _ (m.slots _ _ _ hq)) _ _ (m.pairs _ _ h)
  exact keeps_ite retired (m.evaluatePrdy _ retired)

theorem latchReader (r : ReaderId) (p : Part) (h : I p) : I (latchReader r p) := by
  unfold Machine.latchReader
  split
  · exact m.rejectSection _ _ _ _ h
  · exact m.evaluateRetirement _ (m.evaluatePrdy _ (m.ctx _ (fun c => c.set r _) (m.setPost _ _ _ (m.rig _ _ h))))

/-! ### GLOBAL -/

theorem takeChange (old : Word) (p : Part) (h : I p) : I (takeChange old p) := by
  have numbered := m.pairs _ (fun u => { u with nextNumber := some 1 }) (m.evaluateRetirement _ (m.pairs p (fun u => { u with queue := u.queue.map fun r => { r with stale := true } }) h))
  have framed := m.stream _ .right (fun c => { c with frameNumber := 0 })
    (m.stream _ .left (fun c => { c with frameNumber := 0 }) numbered)
  exact m.queueRecord _ _ _ _ (m.evaluatePrdy _ (m.ctx _ (fun c => c.map _) framed))

theorem prdyOnLatch (old new : GlobalSettings) (p : Part) (h : I p) : I (prdyOnLatch old new p) :=
  keeps_ite (m.evaluatePrdy _ h) (m.evaluatePrdy _ (m.pairs _ _ h))

theorem latchGlobal (b : Bool) (p : Part) (h : I p) : I (latchGlobal b p) := by
  have alert : ∀ q, I q → I (evaluateAlert q) := fun _ hq => m.report _ _ (fun _ => rfl) hq
  have region : ∀ old new q, I q → I (reportOnLatch old new q) := fun _ _ _ hq => keeps_ite hq (m.report _ _ (fun _ => rfl) hq)
  unfold Machine.latchGlobal
  split
  · exact m.rejectSection _ _ _ _ h
  · have latched := fun g w => m.setPost _ .global .unposted (m.rig p (fun u => { u with global := g, windowChange := w }) h)
    exact alert _ (region _ _ _ (m.prdyOnLatch _ _ _ (keeps_ite (m.takeChange _ _ (latched _ _)) (latched _ _))))

/-! ### SYNC -/

theorem limitEvents (a b c d : Bool) (p : Part) (h : I p) : I (limitEvents a b c d p) := by
  have event : ∀ k q, I q → I (skewEvent k q) := fun _ _ hq => m.queueRecord _ _ _ _ hq
  have warned : I (if !a && c then setFlag .skewWarn (skewEvent .warnEnter p) else p) :=
    keeps_ite (m.flag _ _ (event _ _ h)) h
  have faulted := keeps_ite (c := (!b && d) = true) (m.flag _ .skewFault (event .faultEnter _ warned)) warned
  have left := keeps_ite (c := (b && !d) = true) (event .faultLeave _ faulted) faulted
  exact keeps_ite (event _ _ left) left

theorem rejudge (old : SyncSettings) (p : Part) (h : I p) : I (rejudge old p) := by
  have judged : ∀ q, I q → I (judgeIfMeasured q) := fun q hq => keeps_ite (m.limitEvents _ _ _ _ _ (m.skew q _ hq)) hq
  exact judged _ (keeps_ite h (m.skew _ _ h))

theorem moveTrim (v : Int) (p : Part) (h : I p) : I (moveTrim v p) := by
  have told : ∀ q, I q → I (tellSender q) := fun q hq => by
    unfold tellSender
    split <;> exact m.skew _ _ hq
  exact keeps_ite h (told _ (m.skew _ _ h))

theorem latchSync (b : Bool) (p : Part) (h : I p) : I (latchSync b p) := by
  unfold Machine.latchSync
  split
  · exact m.rejectSection _ _ _ _ h
  · rename_i y _
    have fresh := m.rejudge p.rig.sync _ (m.setPost _ .sync .unposted (m.rig p (fun u => { u with sync := y }) h))
    exact keeps_ite (keeps_ite fresh (m.skew _ _ (m.skew _ _ fresh))) (keeps_ite fresh (m.moveTrim _ _ (m.skew _ _ fresh)))

/-! ### EYE, and every section at its latch point -/

theorem latchEye (x : Eye) (p : Part) (h : I p) : I (latchEye x p).1 := by
  unfold Machine.latchEye
  split
  · exact m.rejectSection _ _ _ _ h
  · rename_i e _
    have put := m.setPost _ (.eye x) .unposted (m.rig p (fun u => { u with eye := u.eye.set x e }) h)
    exact keeps_ite put (m.slots _ _ _ put)

theorem latchEyeIdle (x : Eye) (p : Part) (h : I p) : I (latchEyeIdle x p) := by
  have latched := m.latchEye x p h
  unfold Machine.latchEyeIdle
  split <;> rename_i heq <;> rw [heq] at latched
  · exact latched
  · exact m.stream _ _ _ latched

theorem latchIfDue (k : Section) (p : Part) (h : I p) : I (latchIfDue k p) := by
  cases k with
  | global => exact m.latchGlobal _ _ h
  | sync => exact m.latchSync _ _ h
  | eye x => exact keeps_ite (m.latchEyeIdle _ _ h) h
  | reader r => exact keeps_ite (m.latchReader _ _ h) h

theorem latchAtLoadEnd (k : Section) (p : Part) (h : I p) : I (latchAtLoadEnd k p) := by
  cases k with
  | global => exact m.latchGlobal _ _ h
  | sync => exact m.latchSync _ _ h
  | eye x => exact m.latchEyeIdle _ _ h
  | reader r => exact m.latchReader _ _ h

/-! ### The rig unit -/

theorem onEverySection (p : Part) (f : Section → SectionShadow → SectionShadow) (h : I p) : I (p.onEverySection f) :=
  ReaderMoves.foldl (fun q k => q.onSection k (f k)) (fun _ _ hq => m.rig _ _ hq) Section.all p h

theorem treatSection (o n : Nat) (p : Part) (k : Section) (h : I p) : I (treatSection o n p k) :=
  keeps_ite (keeps_ite (m.latchIfDue _ _ (m.setPost _ _ _ h)) (m.rejectSection _ _ _ _ h)) (keeps_ite (m.setPost _ _ _ h) h)

theorem treatSections (o : Nat) (data : List Byte) (p : Part) (h : I p) :
    I (treatSections o data.length (writeShadow o data p)) := by
  have written := m.onEverySection p (SectionShadow.write (p.rig.partState == .loading) o data) h
  unfold Machine.treatSections
  split
  · exact written
  · exact ReaderMoves.foldl _ (fun _ _ hq => m.treatSection _ _ _ _ hq) _ _ written

theorem loadSection (p : Part) (k : Section) (h : I p) : I (loadSection p k) :=
  keeps_ite (m.rejectSection _ _ _ _ h) (keeps_ite (m.latchAtLoadEnd _ _ h) (m.rejectSection _ _ _ _ h))

theorem endLoad (p : Part) (h : I p) : I (endLoad p) := by
  have treated : I (Section.all.foldl Machine.loadSection p) := ReaderMoves.foldl _ (fun q k hq => m.loadSection q k hq) _ p h
  have cleared := m.onEverySection _ (fun _ => SectionShadow.clearMarks) treated
  have sent : ∀ q, I q → I (sendTrimStart q) := fun _ hq => by
    unfold sendTrimStart startTrimWord
    exact m.skew _ _ (m.skew _ _ hq)
  have ran : ∀ q, I q → I (becomeRunning q) := fun _ hq => by
    unfold becomeRunning
    exact m.report _ _ (fun _ => rfl) (m.rig _ _ hq)
  exact ran _ (sent _ cleared)

/-- The result of a load read, for a property that the next read's offer keeps too. -/
theorem loadReadResult (offers : ∀ p i, I p → I (p.onTxn fun u => { u with injected := u.injected ++ [i] })) (res : MResult) (p : Part)
    (h : I p) : I (loadReadResult res p) := by
  have loaded := m.onEverySection p (SectionShadow.load (p.rig.loadIndex * Config.loadReadBytes) res) h
  have next : ∀ k q, I q → I (offerLoadRead k q) := fun k q hq => by
    unfold offerLoadRead offerInjected
    exact offers _ _ (m.rig _ _ hq)
  unfold Machine.loadReadResult
  dsimp only
  split
  · exact next _ _ loaded
  · exact m.endLoad _ loaded

end RigMoves

theorem wholeRig : RigMoves Part.IntakeWhole where
  rig _ _ h := h
  skew _ _ h := h
  stream _ _ _ h := h
  slots _ _ _ h := h
  pairs _ _ h := h
  ctx _ _ h := h
  report _ _ _ h := h
  flag p _ h := whole_changeFlags p _ h

theorem whole_rigUnitWrite (o : Nat) (data : List Byte) (p : Part) (h : p.IntakeWhole) :
    (rigUnitWrite o data p).IntakeWhole := by
  have treated := wholeRig.treatSections o data p h
  exact keeps_ite (I := Part.IntakeWhole) (whole_changeFlags _ _ treated) treated

theorem whole_loadReadResult (res : MResult) (p : Part) (h : p.IntakeWhole) : (loadReadResult res p).IntakeWhole :=
  wholeRig.loadReadResult (fun _ _ hq => hq) res p h

/-! ### Capture streams -/

theorem whole_settleCursor (x : Eye) (i c : Nat) (p : Part) (h : p.IntakeWhole) : (settleCursor x i c p).IntakeWhole :=
  keeps_ite (I := Part.IntakeWhole) (wholeMoves.endReached _ _ _ h) h

theorem whole_forwardWrite (x : Eye) (i : Nat) (w : CaptureWrite) (p : Part) (h : p.IntakeWhole) :
    (forwardWrite x i w p).IntakeWhole := by
  have counted : (countOverrun (p.stream x).geom w (raiseBy .clippedBytes (clippedBytes (cutOf p x i w)) p)).IntakeWhole :=
    keeps_ite (I := Part.IntakeWhole) h h
  exact keeps_ite (I := Part.IntakeWhole) (wholeMoves.answerAtOnce _ _ _ counted) (wholeMoves.handOn _ _ _ _ _ counted)

theorem whole_judgeOpen (x : Eye) (i : Nat) (w : CaptureWrite) (p : Part) (h : p.IntakeWhole) :
    (judgeOpen x i w p).IntakeWhole := by
  refine keeps_ite (I := Part.IntakeWhole) ?_ (keeps_ite (I := Part.IntakeWhole) ?_ ?_)
  · exact whole_settleCursor _ _ _ _ (wholeMoves.raise _ _ (wholeMoves.answerAtOnce _ _ _ h))
  · exact whole_settleCursor _ _ _ _ (wholeMoves.raise _ _ (wholeMoves.answerAtOnce _ _ _ h))
  · exact whole_settleCursor _ _ _ _ (whole_forwardWrite _ _ _ _ h)

theorem whole_streamWrite (x : Eye) (w : CaptureWrite) (p : Part) (h : p.IntakeWhole) : (streamWrite x w p).IntakeWhole := by
  unfold streamWrite
  split
  · exact whole_judgeOpen _ _ _ _ h
  all_goals exact wholeMoves.raise _ _ (wholeMoves.answerAtOnce _ _ _ h)

theorem whole_dropOpenFrame (x : Eye) (reason : LostReason) (p : Part) (h : p.IntakeWhole) :
    (dropOpenFrame x reason p).IntakeWhole := by
  unfold dropOpenFrame
  split
  · exact wholeMoves.abandon _ _ _ _ h
  · exact h

theorem whole_openFrame (x : Eye) (stamp : Stamp) (p : Part) (h : p.IntakeWhole) : (openFrame x stamp p).IntakeWhole := by
  have asked := wholeMoves.requestSlot (numberFrame x p) x ((numberFrame x p).stream x).frameNumber stamp
    ((numberFrame x p).stream x).geom h
  unfold openFrame placeFrame
  dsimp only
  split <;> exact asked

theorem whole_takeFrameStart (x : Eye) (stamp : Stamp) (p : Part) (h : p.IntakeWhole) :
    (takeFrameStart x stamp p).IntakeWhole := by
  have latched : (frameStartLatch x p).1.IntakeWhole := by
    have passed := wholeRig.latchEye x p h
    unfold frameStartLatch
    split
    · exact passed
    · exact h
  have dropped := whole_dropOpenFrame x .truncated _ latched
  unfold takeFrameStart
  dsimp only
  split
  · exact dropped
  · exact whole_openFrame _ _ _ dropped

theorem whole_streamDeparture (x : Eye) (p : Part) (h : p.IntakeWhole) : (streamDeparture x p).IntakeWhole := by
  have dropped := whole_dropOpenFrame x .syncLost p h
  exact keeps_ite (I := Part.IntakeWhole) h (keeps_ite (I := Part.IntakeWhole) (wholeRig.latchEyeIdle _ _ dropped) dropped)

/-! ### The sync unit and the skew unit -/

theorem whole_departLocked (x : Eye) (cause : LossCause) (a : Option Stamp) (r : Option Int) (stamp : Stamp) (p : Part)
    (h : p.IntakeWhole) : (departLocked x cause a r stamp p).IntakeWhole := wholeMoves.record _ _ _ _ (wholeMoves.flag _ _ h)

theorem whole_judgePulse (x : Eye) (stamp : Stamp) (p : Part) (h : p.IntakeWhole) : (judgePulse x stamp p).IntakeWhole := by
  unfold judgePulse
  dsimp only
  split
  · exact h
  · split
    · exact keeps_ite (I := Part.IntakeWhole) h h
    · exact h
  · split
    · refine keeps_ite (I := Part.IntakeWhole) h ?_
      exact keeps_ite (I := Part.IntakeWhole) h (whole_departLocked _ _ _ _ _ _ h)
    · exact h

theorem whole_takeSample (d : Int) (p : Part) (h : p.IntakeWhole) : (takeSample d p).IntakeWhole := by
  have judged := wholeSkew.judgeLimits (p.onSkew fun u =>
    { u with d := some d, f := filtered u.seed u.f d p.rig.sync.filterShift, seed := false, sampleCount := u.sampleCount + 1 }) h
  exact keeps_ite (I := Part.IntakeWhole) (wholeSkew.judgeSaturation _ (wholeRig.moveTrim _ _ judged)) judged

/-! ### The request path -/

theorem whole_toOwner (e : Nat) (q : Request) (c : ReqClass) (o : Nat) (p : Part) (h : p.IntakeWhole) :
    (toOwner e q c o p).IntakeWhole := by
  unfold toOwner
  split
  · exact whole_streamWrite _ _ _ h
  · exact wholeMoves.raise _ _ (wholeMoves.answerAtOnce _ _ _ h)
  · exact wholeMoves.readerUnitRead _ _ h
  · exact wholeMoves.handOn _ _ _ _ _ (whole_rigUnitWrite _ _ _ h)
  · exact wholeMoves.handOn _ _ _ _ _ h
  · exact wholeMoves.handOn _ _ _ _ _ h
  · exact h
  · exact h

theorem whole_handleHead (row : Part → Request → Bool) (p : Part) (h : p.IntakeWhole) : (handleHead row p).IntakeWhole := by
  have popped : (popIntake p).IntakeWhole := fun q hq => h q (List.mem_of_mem_tail hq)
  have refused : ∀ e q, (refuseRequest e q (popIntake p)).IntakeWhole := fun e q =>
    wholeMoves.raise _ _ (wholeMoves.answerAtOnce _ _ _ (wholeMoves.setEntry _ _ _ popped))
  unfold handleHead
  split
  · refine keeps_ite (I := Part.IntakeWhole) ?_ h
    unfold handleRequest
    split
    · exact whole_toOwner _ _ _ _ _ (wholeMoves.setEntry _ _ _ popped)
    · exact refused _ _
    · exact refused _ _
  · exact h

/-- A request record whose data fits its header is read as a whole request (R141, R187). -/
theorem parseRequest_whole (header : BitVec 128) (data : List Byte) : (parseRequest header data).Whole := by
  refine ⟨?_, ?_, fun write => ?_⟩
  · show 1 ≤ headerLength header.toNat
    unfold headerLength
    omega
  · show headerLength header.toNat ≤ 512
    unfold headerLength
    omega
  · have isWrite : headerField header.toNat 0 1 = 1 := by
      have small : headerField header.toNat 0 1 < 256 := by unfold headerField; omega
      have byte := congrArg BitVec.toNat write
      simpa [parseRequest, Nat.mod_eq_of_lt small] using byte
    simp [parseRequest, isWrite, fitBytes]

theorem whole_acceptRequest (q : Request) (fits : q.Whole) (p : Part) (h : p.IntakeWhole) : (acceptRequest q p).IntakeWhole := by
  refine keeps_ite (I := Part.IntakeWhole) (fun k hk => ?_) h
  rcases List.mem_append.mp hk with old | new
  · exact h k old
  · rw [List.mem_singleton.mp new]
    exact fits

/-! ### The transaction unit -/

theorem whole_takeResult (t : Nat) (te : TagEntry) (res : MResult) (p : Part) (h : p.IntakeWhole) :
    (takeResult t te res p).IntakeWhole := by
  have delivered : ∀ q : Part, q.IntakeWhole → (deliverResult te res q).IntakeWhole := by
    intro q hq
    unfold deliverResult
    split
    · exact wholeMoves.slotResult _ _ _ (wholeMoves.entryResult _ _ _ _ _ hq)
    · unfold injectedResult
      split
      · exact hq
      · exact hq
      · exact whole_loadReadResult _ _ hq
  have reported : ∀ q : Part, q.IntakeWhole → (resultEvent t te res q).IntakeWhole := by
    have event : ∀ cause (q : Part), q.IntakeWhole → (memoryFaultEvent cause t te q).IntakeWhole := fun cause q hq =>
      keeps_ite (I := Part.IntakeWhole) (wholeMoves.flag _ _ hq) (wholeMoves.record _ _ _ _ (wholeMoves.flag _ _ hq))
    intro q hq
    unfold resultEvent
    split
    · exact hq
    · exact event _ _ hq
    · exact event _ _ hq
  exact keeps_ite (I := Part.IntakeWhole) (delivered _ (reported _ h)) (reported _ (delivered _ h))

theorem whole_takeResponse (m : MResponse) (p : Part) (h : p.IntakeWhole) : (takeResponse m p).IntakeWhole := by
  unfold takeResponse
  split
  · exact h
  · split
    · exact h
    · rename_i te _ _ _
      have taken := whole_takeResult m.tag te (formResult te m) p h
      exact taken
    · unfold lateResponse
      dsimp only
      split <;> exact h

theorem whole_mTimeoutExpiry (t : Nat) (p : Part) (h : p.IntakeWhole) : (mTimeoutExpiry t p).IntakeWhole := by
  unfold mTimeoutExpiry
  split
  · exact h
  · split
    · refine whole_onExpiry _ _ (fun q hq => ?_) _ h
      unfold tagTimesOut
      exact whole_takeResult _ _ _ (q.setTag t _) hq
    · exact h
    · exact h

/-! ### Every step -/

theorem whole_syncLossTimerExpiry (x : Eye) (p : Part) (h : p.IntakeWhole) : (syncLossTimerExpiry x p).IntakeWhole := by
  refine whole_onExpiry _ _ (fun q hq => ?_) _ h
  unfold loseSync
  dsimp only
  split
  · exact whole_departLocked _ _ _ _ _ _ hq
  · exact hq

theorem whole_fsyncPulse (x : Eye) (time : Stamp) (p : Part) (h : p.IntakeWhole) : (fsyncPulse x time p).IntakeWhole := by
  have later := whole_passTime p (ticksUntil p time) h
  unfold fsyncPulse
  split
  · exact h
  · exact whole_judgePulse _ _ _ later

/-- A command keeps the waiting requests whole. -/
theorem whole_exec (c : Instr) (s t : State) (h : s.hw.IntakeWhole) (ht : exec c s = .next t) : t.hw.IntakeWhole := by
  have onRun : ∀ f : Part → Part, (∀ p, p.IntakeWhole → (f p).IntakeWhole) → whenRunning f s = .next t → t.hw.IntakeWhole := by
    intro f hf hrun
    cases hrun
    exact keeps_ite (I := Part.IntakeWhole) h (hf _ h)
  cases c with
  | resetNAssert k =>
    cases ht
    exact fun q hq => absurd hq (by simp [Part.reset, RequestPath.reset])
  | resetNRelease =>
    cases ht
    exact keeps_ite (I := Part.IntakeWhole) h h
  | resetQuietTimeEnd => exact onRun _ (whole_onExpiry _ endQuietTime fun _ hp => hp) ht
  | fsyncPulse x time => exact onRun _ (whole_fsyncPulse x time) ht
  | syncLossTimerExpiry x => exact onRun _ (whole_syncLossTimerExpiry x) ht
  | frameStart x =>
    refine onRun _ (fun p hp => ?_) ht
    unfold frameStart
    split
    · exact keeps_ite (I := Part.IntakeWhole) hp (whole_takeFrameStart _ _ _ hp)
    · exact hp
  | lockGained x =>
    refine onRun _ (fun p hp => ?_) ht
    unfold lockGained
    split <;> exact hp
  | lockLost x =>
    refine onRun _ (fun p hp => ?_) ht
    unfold lockLost
    split
    · exact whole_streamDeparture _ _ hp
    · exact hp
  | skewPulseHandover x =>
    refine onRun _ (fun p hp => ?_) ht
    unfold skewPulseHandover
    split
    · unfold takePulse
      split
      · unfold acceptedPulse
        split
        · exact whole_takeSample _ _ hp
        · exact hp
      · exact hp
      · exact hp
    · exact hp
  | skewLockNotice x =>
    refine onRun _ (fun p hp => ?_) ht
    unfold skewLockNotice
    split <;> exact hp
  | skewDepartureNotice x =>
    refine onRun _ (fun p hp => ?_) ht
    unfold skewDepartureNotice
    split <;> exact hp
  | trimWordEnd =>
    refine onRun _ (fun p hp => ?_) ht
    unfold trimWordEnd
    split
    · exact whole_onExpiry _ endTrimWord (fun _ hq => hq) _ hp
    · exact hp
    · exact hp
  | trimGapEnd =>
    refine onRun _ (fun p hp => ?_) ht
    unfold trimGapEnd
    split
    · exact whole_onExpiry _ endTrimGap (fun _ hq => keeps_ite (I := Part.IntakeWhole) hq hq) _ hp
    · exact hp
    · exact hp
  | requestAccept header data => exact onRun _ (whole_acceptRequest _ (parseRequest_whole header data)) ht
  | captureWrite => exact onRun _ (whole_handleHead _) ht
  | captureRead => exact onRun _ (whole_handleHead _) ht
  | pairRead => exact onRun _ (whole_handleHead _) ht
  | rigWrite => exact onRun _ (whole_handleHead _) ht
  | checkWordWrite => exact onRun _ (whole_handleHead _) ht
  | eventClearWord => exact onRun _ (whole_handleHead _) ht
  | passThrough => exact onRun _ (whole_handleHead _) ht
  | responseAccept =>
    refine onRun _ (fun p hp => ?_) ht
    unfold acceptResponse
    split <;> exact hp
  | arbiterIssue => exact onRun arbiterIssue (fun _ hp => hp) ht
  | mportAccept =>
    refine onRun _ (fun p hp => ?_) ht
    unfold mportAccept
    split <;> exact hp
  | mportResponse header data => exact onRun _ (whole_takeResponse _) ht
  | mTimeout m => exact onRun _ (whole_mTimeoutExpiry m) ht
  | frameTimerExpiry x i => exact onRun _ (fun p => whole_onExpiry _ _ (fun _ hq => wholeMoves.abandon _ _ _ _ hq) p) ht
  | matchTimerExpiry x i =>
    exact onRun _ (fun p => whole_onExpiry _ _
      (fun _ hq => wholeMoves.abandon _ _ _ _ (wholeMoves.setMatchTimer _ _ _ _ hq)) p) ht
  | leaseExpiry r => exact onRun _ (fun p => whole_onExpiry _ _ (fun _ hq => wholeMoves.leaseLapses _ _ hq) p) ht
  | parkTimerExpiry e =>
    refine onRun _ (fun p hp => ?_) ht
    unfold parkTimerExpiry
    split
    · exact hp
    · exact whole_onExpiry _ _ (fun _ hq => wholeMoves.parkLapses _ _ hq) p hp
  | prdyPulseEnd => exact onRun _ (fun p => whole_onExpiry _ endPrdyPulse (fun _ hq => hq) p) ht
  | statusIntervalExpiry => exact onRun _ (fun p => whole_onExpiry _ restartInterval (fun _ hq => hq) p) ht
  | statusWriteOffer => exact onRun statusWriteOffer (fun _ hp => keeps_ite (I := Part.IntakeWhole) hp hp) ht
  | recordWriteOffer =>
    refine onRun _ (fun p hp => ?_) ht
    unfold recordWriteOffer
    split
    · exact keeps_ite (I := Part.IntakeWhole) hp hp
    · exact hp
  | refusedRequest => exact onRun _ (whole_handleHead _) ht

/-! ### The statements about the invariants -/

/-- Settles O59: a step is a tick or a command, and each of the four invariants survives both. -/
theorem everyStepKeepsTheRules : Obligations.EveryStepKeepsTheRules := by
  refine ⟨fun s t h => ?_, fun s t h => ?_, fun s t h => ?_, fun s t h _ => ?_⟩
  · exact step_cases inv_passTime (fun c _ u same ht => inv_exec c u t (same ▸ h) ht) h
  · exact step_cases rigSoundLoose.time (fun c _ u same ht => rigSound_exec c u t (same ▸ h) ht) h
  · exact step_cases prdyLoose.time (fun c _ u same ht => prdyDriven_exec c u t (same ▸ h) ht) h
  · exact step_cases whole_passTime (fun c _ u same ht => whole_exec c u t (same ▸ h) ht) h

/-- Settles O58: the reset values meet each of the four invariants, whatever the strap reads. -/
theorem resetKeepsTheRules : Obligations.ResetKeepsTheRules :=
  ⟨inv_reset 0, fun k => ⟨inv_reset k, rigSound_reset k, prdyDriven_reset k, fun _ hq => absurd hq (by
    simp [Part.reset, RequestPath.reset])⟩⟩

end Sys2Proof.Machine

/-! SUPPORT. Commands that answer at once: what every command answers, reset and its release, one tick. -/

namespace Sys2Proof.Machine

/-! ### What running a command gives -/

/-- A command of the part whose work is known. -/
theorem whenRunning_eq {f : Part → Part} {s : State} {u : Part} (running : s.hw.resetAsserted = false) (work : f s.hw = u) :
    whenRunning f s = .next { s with hw := markChanged s.hw u } := by
  rw [whenRunning_running f s running, work]

theorem markChanged_self (p : Part) : markChanged p p = p := by
  simp [markChanged, Part.onReport]

/-- A command that does nothing to the part changes nothing, not even the changed mark. -/
theorem whenRunning_idle {f : Part → Part} {s : State} (nothing : f s.hw = s.hw) : whenRunning f s = .next s := by
  rw [whenRunning_next, nothing, markChanged_self, ite_self]

/-- Only the two commands of RESET_N are not run as `whenRunning` runs a command. -/
theorem exec_eq_whenRunning {c : Instr} (noAssert : ∀ k, c ≠ .resetNAssert k) (noRelease : c ≠ .resetNRelease) :
    ∃ f : Part → Part, ∀ s : State, exec c s = whenRunning f s := by
  cases c with
  | resetNAssert k => exact absurd rfl (noAssert k)
  | resetNRelease => exact absurd rfl noRelease
  | _ => exact ⟨_, fun _ => rfl⟩

/-- Settles O3: all commands but those of RESET_N run alike, and those two answer a next state themselves. -/
theorem everyCommandAnswersNext : Obligations.EveryCommandAnswersNext := by
  constructor
  · intro c s
    by_cases assert : ∃ k, c = .resetNAssert k
    · obtain ⟨k, rfl⟩ := assert
      exact ⟨_, rfl, rfl⟩
    · by_cases release : c = .resetNRelease
      · subst release
        exact ⟨_, rfl, rfl⟩
      · obtain ⟨f, runs⟩ := exec_eq_whenRunning (fun k same => assert ⟨k, same⟩) release
        exact ⟨_, runs s, rfl⟩
  · intro c s asserted noAssert noRelease
    obtain ⟨f, runs⟩ := exec_eq_whenRunning noAssert noRelease
    rw [runs, whenRunning_reset f s asserted]

/-- Settles O1. -/
theorem stepRunsFrontCommand : Obligations.StepRunsFrontCommand := by
  intro c rest s front
  unfold step
  simp only [front]

/-! ### One tick -/

/-- Time that passes outside reset, with every block written out. -/
theorem passTime_of_running (n : Nat) (p : Part) (running : p.resetAsserted = false) :
    passTime n p =
      { p with
        sync :=
          { p.sync with
            timebase := p.sync.timebase + BitVec.ofNat 48 n
            acq := p.sync.acq.map fun c => { c with lossTimer := c.lossTimer.passes n }
            pulsed := p.sync.pulsed.map fun b => b && n == 0 }
        slots := p.slots.map fun l => l.map fun r => { r with frameTimer := r.frameTimer.passes n }
        pairs :=
          { p.pairs with
            matchTimers := p.pairs.matchTimers.map fun l => l.map (Timer.passes n)
            prdyPulse := p.pairs.prdyPulse.passes n }
        readers :=
          { ctx := p.readers.ctx.map fun c => { c with lease := c.lease.passes n }
            parkList := p.readers.parkList.map fun k => { k with timer := k.timer.passes n } }
        txn :=
          { p.txn with
            tags := p.txn.tags.map fun t => t.map fun e => { e with timer := e.timer.passes n }
            quiet := p.txn.quiet.passes n }
        skew := { p.skew with sender := { p.skew.sender with timer := p.skew.sender.timer.passes n } }
        report := { p.report with interval := p.report.interval.passes n } } := by
  unfold passTime
  rw [if_neg (by simp [running])]

theorem getD_map_of_fixed {α β : Type} (f : α → β) (l : List α) (i : Nat) (a : α) : (l.map f).getD i (f a) = f (l.getD i a) := by
  simp only [List.getD_eq_getElem?_getD, List.getElem?_map]
  cases l[i]? <;> rfl

theorem passTime_slot (n : Nat) (p : Part) (x : Eye) (i : Nat) (running : p.resetAsserted = false) :
    (passTime n p).slot x i = { p.slot x i with frameTimer := (p.slot x i).frameTimer.passes n } := by
  rw [passTime_of_running n p running]
  simp only [Part.slot, PerEye.get_map]
  exact getD_map_of_fixed (fun r : SlotRecord => { r with frameTimer := r.frameTimer.passes n }) _ i SlotRecord.free

theorem passTime_matchTimer (n : Nat) (p : Part) (x : Eye) (i : Nat) (running : p.resetAsserted = false) :
    (passTime n p).matchTimer x i = (p.matchTimer x i).passes n := by
  rw [passTime_of_running n p running]
  simp only [Part.matchTimer, PerEye.get_map]
  exact getD_map_of_fixed (Timer.passes n) _ i .stopped

theorem passTime_reader (n : Nat) (p : Part) (r : ReaderId) (running : p.resetAsserted = false) :
    (passTime n p).reader r = { p.reader r with lease := (p.reader r).lease.passes n } := by
  rw [passTime_of_running n p running]
  exact PerReader.get_map _ _ r

/-- Settles O2: field by field of the passing of time. -/
theorem emptyQueueIsOneTick : Obligations.EmptyQueueIsOneTick := by
  refine ⟨fun s empty => ?_, passTime_of_reset, fun n r => ⟨rfl, rfl⟩, fun n p running => ?_⟩
  · unfold step
    simp only [empty]
    cases s
    subst empty
    rfl
  · have acquisition : ∀ x, (passTime n p).acq x = { p.acq x with lossTimer := (p.acq x).lossTimer.passes n } := by
      intro x
      rw [passTime_acq, if_neg (by simp [running])]
    have pulsed : ∀ x, (passTime n p).sync.pulsed.get x = (p.sync.pulsed.get x && n == 0) := by
      intro x
      rw [passTime_of_running n p running]
      exact PerEye.get_map _ _ x
    refine ⟨passTime_timebase n p running, acquisition, fun x i => passTime_slot n p x i running,
      fun x i => passTime_matchTimer n p x i running, fun r => passTime_reader n p r running, ?_,
      fun t => tag_passTime p n t running, ?_, ?_, ?_, ?_, ?_, ?_, pulsed, passTime_streams n p, passTime_req n p,
      passTime_rig n p, ?_⟩
    all_goals rw [passTime_of_running n p running]
    exact running

/-! ### Reset -/

/-- The words of a section's defaults (R172). -/
def defaultWords : Section → List Word
  | .global => encodeGlobal GlobalSettings.default
  | .sync => encodeSync SyncSettings.default
  | .eye x => encodeEye (EyeSettings.default x)
  | .reader _ => encodeReader ReaderSettings.default

/-- Words followed by their check word pass the check (R172). -/
theorem checkMatches_withCheck (ws : List Word) : checkMatches (withCheck ws) = true := by
  simp [checkMatches, withCheck]

/-- Settles O4: every field of the reset part is read off its definition. -/
theorem resetAssertGivesResetValues : Obligations.ResetAssertGivesResetValues := by
  intro k s
  refine ⟨{ s with hw := Part.reset k }, rfl, rfl, rfl, rfl, fun x => by cases x <;> rfl, fun x => by cases x <;> exact ⟨rfl, rfl, rfl⟩,
    fun x => by cases x <;> rfl, ?_, rfl, rfl, rfl, rfl, rfl, fun r => by cases r <;> rfl, rfl, rfl, rfl, ?_, rfl, rfl, ?_, rfl, rfl,
    rfl, rfl, rfl, rfl, rfl, rfl, rfl, fun x => by cases x <;> rfl, fun r => by cases r <;> rfl, ?_, ?_, rfl⟩
  · intro x
    have timers : (Part.reset k).pairs.matchTimers.get x = List.replicate 8 .stopped := by cases x <;> rfl
    have slots : (Part.reset k).slots.get x = List.replicate 4 SlotRecord.free := by cases x <;> rfl
    refine ⟨congrArg List.length slots, fun i => ⟨?_, ?_⟩⟩
    · exact (congrArg (fun l => l.getD i Timer.stopped) timers).trans (List.getElem?_getD_replicate_default_eq ..)
    · exact (congrArg (fun l => l.getD i SlotRecord.free) slots).trans (List.getElem?_getD_replicate_default_eq ..)
  · exact fun e => List.getElem?_getD_replicate_default_eq (none : Option Entry) 48 e
  · exact fun m => List.getElem?_getD_replicate_default_eq (none : Option TagEntry) 64 m
  · intro j
    have staged : (Part.reset k).staged j = withCheck (defaultWords j) := by
      cases j with
      | global => rfl
      | sync => rfl
      | eye x => cases x <;> rfl
      | reader r => cases r <;> rfl
    refine ⟨?_, (congrArg checkMatches staged).trans (checkMatches_withCheck _), ?_⟩
    all_goals
      cases j with
      | global => rfl
      | sync => rfl
      | eye x => cases x <;> rfl
      | reader r => cases r <;> rfl
  · exact fun c => List.getElem?_getD_replicate_default_eq (0 : Word) 20 c.index

/-- Settles O5. -/
theorem releaseStartsTheLoadAndTheQuietTime : Obligations.ReleaseStartsTheLoadAndTheQuietTime := by
  constructor
  · intro s asserted
    show Host.Outcome.next { s with hw := if s.hw.resetAsserted then releaseReset s.hw else s.hw } = _
    rw [if_pos asserted]
    simp [releaseReset, offerLoadRead, offerInjected, Part.onTxn, Part.onRig, Part.rigBase, Config.quietTicks, Config.ticksPerUs]
  · intro s r running left
    exact whenRunning_eq running (onExpiry_running _ r endQuietTime s.hw left)

end Sys2Proof.Machine

/-! SUPPORT. The sync unit: how a pulse is judged in each acquisition state, what a judgement changes, and the two ways out of
LOCKED (R112 to R118); the notices that a capture stream takes with no frame open (R3, R5, R6, R11). -/

namespace Sys2Proof.Machine

/-! ### The part at the moment of a pulse -/

/-- The part with the time of the pulse come and the line marked as pulsed (R110). -/
def Part.atPulse (x : Eye) (time : Stamp) (p : Part) : Part :=
  (passTime (ticksUntil p time) p).onSync fun u => { u with pulsed := u.pulsed.set x true }

theorem fsyncPulse_fresh {x : Eye} {time : Stamp} {p : Part} (fresh : pulseTaken x time p = false) :
    fsyncPulse x time p = judgePulse x time (p.atPulse x time) := by
  unfold fsyncPulse
  rw [if_neg (by simp [fresh])]
  rfl

@[simp] theorem atPulse_rig (x : Eye) (time : Stamp) (p : Part) : (p.atPulse x time).rig = p.rig := passTime_rig _ p

/-- Time that passes leaves a context as it is, but for its sync loss timer. -/
theorem atPulse_acq {x y : Eye} {time : Stamp} {p : Part} (running : p.resetAsserted = false) :
    (p.atPulse x time).acq y =
      { p.acq y with lossTimer := (p.acq y).lossTimer.passes (ticksUntil p time) } := by
  have later := passTime_acq (ticksUntil p time) p y
  rw [if_neg (by simp [running])] at later
  exact later

/-! ### The judgement, state by state -/

theorem judgePulse_of_absent {x : Eye} {stamp : Stamp} {p : Part} (absent : (p.acq x).state = .absent) :
    judgePulse x stamp p = pulseInAbsent x stamp p := by
  unfold judgePulse
  simp only [absent]

theorem judgePulse_of_acquiring {x : Eye} {stamp last : Stamp} {p : Part} (acquiring : (p.acq x).state = .acquiring)
    (since : (p.acq x).lastPulse = some last) : judgePulse x stamp p = pulseInAcquiring x last stamp p := by
  unfold judgePulse
  simp only [acquiring, since]

theorem judgePulse_of_locked {x : Eye} {stamp accepted : Stamp} {reference : Int} {p : Part}
    (locked : (p.acq x).state = .locked) (since : (p.acq x).lastAccepted = some accepted)
    (rhythm : (p.acq x).reference = some reference) :
    judgePulse x stamp p = pulseInLocked x accepted reference stamp p := by
  unfold judgePulse
  simp only [locked, since, rhythm]

/-- Settles O6: the pulse is judged in ABSENT. -/
theorem pulseInAbsentBeginsAcquisition : Obligations.PulseInAbsentBeginsAcquisition := by
  intro x time s running fresh absent q
  have context := atPulse_acq (x := x) (y := x) (time := time) running
  have judged : fsyncPulse x time s.hw = pulseInAbsent x time (s.hw.atPulse x time) :=
    (fsyncPulse_fresh fresh).trans (judgePulse_of_absent (by rw [context]; exact absent))
  have reference : (s.hw.acq x).reference = (q.acq x).reference := by
    rw [show q.acq x = (s.hw.atPulse x time).acq x from rfl, context]
  refine whenRunning_eq running (judged.trans ?_)
  rw [reference, ← show q.rig = s.hw.rig from passTime_rig _ _]
  cases x <;> rfl

/-! ### A pulse judged in ACQUIRING -/

/-- The period matches the candidate (R114). -/
theorem pulseInAcquiring_of_match {x : Eye} {last stamp : Stamp} {c : Int} {p : Part} (candidate : (p.acq x).candidate = some c)
    (near : (stampDiff stamp last - c).natAbs ≤ p.rig.sync.periodTolerance) :
    pulseInAcquiring x last stamp p =
      handOver x stamp .acquisition (lockEye x stamp (stampDiff stamp last) (restartLossTimer x p)) := by
  have locks : periodMatches p (stampDiff stamp last) c = true := decide_eq_true near
  unfold pulseInAcquiring
  simp only [candidate, locks, if_true]

/-- There is no candidate, or the period does not match it (R113). -/
theorem pulseInAcquiring_of_miss {x : Eye} {last stamp : Stamp} {p : Part}
    (far : ∀ c, (p.acq x).candidate = some c → p.rig.sync.periodTolerance < (stampDiff stamp last - c).natAbs) :
    pulseInAcquiring x last stamp p =
      handOver x stamp .acquisition ((restartLossTimer x p).onAcq x fun c =>
        { c with lastPulse := some stamp, candidate := some (stampDiff stamp last) }) := by
  unfold pulseInAcquiring
  cases candidate : (p.acq x).candidate with
  | none => rfl
  | some c =>
    have misses : periodMatches p (stampDiff stamp last) c = false := decide_eq_false (by have := far c candidate; omega)
    simp only [misses]
    rfl

/-- Settles O7: by whether the period matches the candidate. -/
theorem pulseInAcquiringMeasuresAndLocks : Obligations.PulseInAcquiringMeasuresAndLocks := by
  intro x time last s running fresh acquiring since q period timer
  have context := atPulse_acq (x := x) (y := x) (time := time) running
  have judged : fsyncPulse x time s.hw = pulseInAcquiring x last time (s.hw.atPulse x time) :=
    (fsyncPulse_fresh fresh).trans (judgePulse_of_acquiring (by rw [context]; exact acquiring) (by rw [context]; exact since))
  have reference : (s.hw.acq x).reference = (q.acq x).reference := by
    rw [show q.acq x = (s.hw.atPulse x time).acq x from rfl, context]
  have rig : s.hw.rig = q.rig := (passTime_rig _ _).symm
  refine ⟨fun far => ?_, fun c candidate near => ?_⟩
  · have missed := pulseInAcquiring_of_miss (x := x) (last := last) (stamp := time) (p := s.hw.atPulse x time)
      (by rw [context, atPulse_rig]; exact far)
    refine whenRunning_eq running ((judged.trans missed).trans ?_)
    simp only [timer, reference, rig]
    cases x <;> rfl
  · have locked := pulseInAcquiring_of_match (x := x) (last := last) (stamp := time) (c := c) (p := s.hw.atPulse x time)
      (by rw [context]; exact candidate) (by rw [atPulse_rig]; exact near)
    refine whenRunning_eq running ((judged.trans locked).trans ?_)
    simp only [timer, rig]
    rw [List.append_cons _ SkewNotice.lock]
    cases x <;> rfl

/-! ### A pulse judged in LOCKED -/

theorem pulseInLocked_of_match {x : Eye} {accepted stamp : Stamp} {reference : Int} {p : Part}
    (near : (stampDiff stamp accepted - reference).natAbs ≤ p.rig.sync.periodTolerance) :
    pulseInLocked x accepted reference stamp p = acceptPulse x stamp (stampDiff stamp accepted) p := by
  unfold pulseInLocked
  dsimp only
  rw [if_pos (show periodMatches p _ _ = true from decide_eq_true near)]

theorem pulseInLocked_of_miss {x : Eye} {accepted stamp : Stamp} {reference : Int} {p : Part}
    (far : p.rig.sync.periodTolerance < (stampDiff stamp accepted - reference).natAbs) :
    pulseInLocked x accepted reference stamp p = periodFault x stamp p := by
  have misses : periodMatches p (stampDiff stamp accepted) reference = false := decide_eq_false (by omega)
  unfold pulseInLocked
  dsimp only
  rw [if_neg (by simp [misses])]

/-- One of the first three period faults in a row (R116). -/
theorem periodFault_of_few {x : Eye} {stamp : Stamp} {p : Part} (few : (p.acq x).faultRun < 3) :
    periodFault x stamp p = handOver x stamp .periodFault
      ((raise (.periodFaults x) (restartLossTimer x p)).onAcq x fun c => { c with faultRun := c.faultRun + 1 }) := by
  unfold periodFault
  dsimp only
  rw [if_pos few]

/-- The fourth period fault in a row (R116). -/
theorem periodFault_of_fourth {x : Eye} {stamp : Stamp} {p : Part} (fourth : 3 ≤ (p.acq x).faultRun) :
    periodFault x stamp p =
      handOver x stamp .periodFault (loseRhythm x stamp (raise (.periodFaults x) (restartLossTimer x p))) := by
  unfold periodFault
  dsimp only
  rw [if_neg (by omega)]

/-- Of a part, the departure from LOCKED changes the notices on their way and the report unit (R118). -/
theorem departLocked_eq (x : Eye) (cause : LossCause) (a : Option Stamp) (r : Option Int) (stamp : Stamp) (p : Part) :
    departLocked x cause a r stamp p =
      { queueRecord stamp p.take (.syncLost x cause a r) (setFlag (.syncLost x) p) with
        sync := { p.sync with
          streamNotices := p.sync.streamNotices.set x (p.sync.streamNotices.get x ++ [.lockLost])
          skewNotices := p.sync.skewNotices.set x (p.sync.skewNotices.get x ++ [.departure]) } } := by
  unfold departLocked
  simp only [queueRecord_eq, setFlag_eq]
  rfl

/-- Settles O8: the accepted pulse, and the period fault by the faults before it in a row. -/
theorem pulseInLockedIsJudgedByItsPeriod : Obligations.PulseInLockedIsJudgedByItsPeriod := by
  constructor
  · intro x time accepted reference s running fresh locked since rhythm near q period
    have context := atPulse_acq (x := x) (y := x) (time := time) running
    have judged : fsyncPulse x time s.hw = pulseInLocked x accepted reference time (s.hw.atPulse x time) :=
      (fsyncPulse_fresh fresh).trans (judgePulse_of_locked (by rw [context]; exact locked) (by rw [context]; exact since)
        (by rw [context]; exact rhythm))
    have kept := pulseInLocked_of_match (x := x) (p := s.hw.atPulse x time) (by rw [atPulse_rig]; exact near)
    refine whenRunning_eq running ((judged.trans kept).trans ?_)
    rw [← show q.rig = s.hw.rig from passTime_rig _ _]
    cases x <;> rfl
  · intro x time accepted reference s running fresh locked since rhythm far q timer counted oneMore reported lost
    have context := atPulse_acq (x := x) (y := x) (time := time) running
    have judged : fsyncPulse x time s.hw = pulseInLocked x accepted reference time (s.hw.atPulse x time) :=
      (fsyncPulse_fresh fresh).trans (judgePulse_of_locked (by rw [context]; exact locked) (by rw [context]; exact since)
        (by rw [context]; exact rhythm))
    have faulty := pulseInLocked_of_miss (x := x) (p := s.hw.atPulse x time) (by rw [atPulse_rig]; exact far)
    have rig : s.hw.rig = q.rig := (passTime_rig _ _).symm
    have now : q.acq x = (s.hw.atPulse x time).acq x := rfl
    have faultRun : (s.hw.acq x).faultRun = (q.acq x).faultRun := by rw [now, context]
    have isReference : some reference = (q.acq x).reference := by rw [now, context]; exact rhythm.symm
    have isAccepted : some accepted = (q.acq x).lastAccepted := by rw [now, context]; exact since.symm
    refine ⟨fun few => ?_, fun fourth => ?_⟩
    · have again := periodFault_of_few (x := x) (stamp := time) (p := s.hw.atPulse x time) (by rw [context]; exact few)
      refine whenRunning_eq running ((judged.trans (faulty.trans again)).trans ?_)
      simp only [oneMore, timer, faultRun, isReference, rig]
      cases x <;> rfl
    · have last := periodFault_of_fourth (x := x) (stamp := time) (p := s.hw.atPulse x time) (by rw [context]; exact fourth)
      refine whenRunning_eq running ((judged.trans (faulty.trans last)).trans ?_)
      unfold loseRhythm
      simp only [lost, reported, timer, isReference, isAccepted, rig, departLocked_eq, queueRecord_eq, setFlag_eq]
      rw [List.append_cons _ SkewNotice.departure [_]]
      cases x <;> rfl

/-! ### Silence -/

/-- Settles O9: by whether the eye was LOCKED. -/
theorem syncLossTimerExpiryGivesAbsent : Obligations.SyncLossTimerExpiryGivesAbsent := by
  intro x s r running left q absent reported lost silent
  have expired : syncLossTimerExpiry x s.hw = loseSync x q := onExpiry_running _ r (loseSync x) s.hw left
  have context : q.acq x = { s.hw.acq x with lossTimer := (s.hw.acq x).lossTimer.passes r } := by
    have later := passTime_acq r s.hw x
    rw [if_neg (by simp [running])] at later
    exact later
  have accepted : (s.hw.acq x).lastAccepted = (q.acq x).lastAccepted := by rw [context]
  have reference : (s.hw.acq x).reference = (q.acq x).reference := by rw [context]
  refine ⟨fun locked => ?_, fun unlocked => ?_⟩
  · refine whenRunning_eq running (expired.trans ?_)
    unfold loseSync
    dsimp only
    rw [if_pos (by rw [context]; exact locked)]
    simp only [lost, reported, accepted, reference, departLocked_eq, queueRecord_eq, setFlag_eq]
    cases x <;> rfl
  · refine whenRunning_eq running (expired.trans ?_)
    unfold loseSync
    dsimp only
    rw [if_neg (by rw [context]; exact unlocked)]
    rfl

/-! ### Notices to a capture stream with no frame open -/

/-- The head of the way is dropped, and what lies behind it stays (R119). -/
theorem dropStreamNotice_eq {x : Eye} {n : StreamNotice} {rest : List StreamNotice} {p : Part}
    (head : p.sync.streamNotices.get x = n :: rest) :
    dropStreamNotice x p = { p with sync := { p.sync with streamNotices := p.sync.streamNotices.set x rest } } := by
  unfold dropStreamNotice
  rw [show rest = (p.sync.streamNotices.get x).tail by rw [head]; rfl]
  rfl

theorem lockGained_of_head {x : Eye} {rest : List StreamNotice} {p : Part}
    (head : p.sync.streamNotices.get x = .lockGained :: rest) :
    lockGained x p = (dropStreamNotice x p).onStream x StreamCtx.lockGained := by
  unfold lockGained
  simp only [head]

theorem lockLost_of_head {x : Eye} {rest : List StreamNotice} {p : Part}
    (head : p.sync.streamNotices.get x = .lockLost :: rest) : lockLost x p = streamDeparture x (dropStreamNotice x p) := by
  unfold lockLost
  simp only [head]

theorem frameStart_of_head {x : Eye} {stamp : Stamp} {rest : List StreamNotice} {p : Part}
    (head : p.sync.streamNotices.get x = .frameStart stamp :: rest) :
    frameStart x p =
      if ignoresFrames (p.stream x).state then dropStreamNotice x p else takeFrameStart x stamp (dropStreamNotice x p) := by
  unfold frameStart
  simp only [head]

theorem ignoresFrames_iff (state : StreamState) : ignoresFrames state = true ↔ state = .off ∨ state = .waitingSync := by
  cases state <;> simp [ignoresFrames]

/-- Settles O10: by the state of the stream. -/
theorem lockGainedEndsWaitingSync : Obligations.LockGainedEndsWaitingSync := by
  intro x rest s running head told between
  have taken : lockGained x s.hw = { s.hw with
      sync := told, streams := s.hw.streams.set x (StreamCtx.lockGained (s.hw.stream x)) } := by
    rw [lockGained_of_head head, dropStreamNotice_eq head]
    rfl
  refine ⟨fun waiting => whenRunning_eq running (taken.trans ?_), fun other => whenRunning_eq running (taken.trans ?_)⟩
  · rw [StreamCtx.lockGained, if_pos waiting]
  · rw [StreamCtx.lockGained, if_neg other, show s.hw.stream x = s.hw.streams.get x from rfl, PerEye.set_get]

/-- Settles O11: the departure notice by the state of the stream, and the ignored frame start. -/
theorem noticesWithNoFrameOpen : Obligations.NoticesWithNoFrameOpen := by
  constructor
  · intro x rest s running head told waiting
    refine ⟨fun ignored => whenRunning_eq running ?_, fun idle unposted => whenRunning_eq running ?_⟩
    · rw [lockLost_of_head head, dropStreamNotice_eq head]
      exact if_pos ((ignoresFrames_iff _).mpr ignored)
    · rw [lockLost_of_head head, dropStreamNotice_eq head]
      have listens : ¬ignoresFrames (s.hw.stream x).state = true := by
        rw [ignoresFrames_iff]
        rcases idle with state | state <;> simp [state]
      have noFrame : openSlot { s.hw with sync := told } x = none := by
        unfold openSlot
        rcases idle with state | state <;> simp [Part.stream] at state ⊢ <;> simp [state]
      refine (if_neg listens).trans ?_
      unfold dropOpenFrame enterWaitingSync
      simp only [told] at noFrame
      simp only [noFrame]
      exact if_neg unposted
  · intro x stamp rest s running head ignored
    refine whenRunning_eq running ?_
    rw [frameStart_of_head head, if_pos ((ignoresFrames_iff _).mpr ignored), dropStreamNotice_eq head]

end Sys2Proof.Machine

/-! SUPPORT. The report unit's part of an event, read after it: flags, counters and the records an operation raises (R181, R182,
R184); the event clear word (R180). -/

namespace Sys2Proof.Machine

/-! ### Flags -/

theorem mask_getLsbD (f g : EventFlag) : f.mask.getLsbD g.bit = decide (f = g) := by
  cases f with
  | syncLost x => cases x <;> cases g with
    | syncLost y => cases y <;> rfl
    | _ => rfl
  | _ => cases g with
    | syncLost y => cases y <;> rfl
    | _ => rfl

theorem setFlag_getLsbD (f g : EventFlag) (p : Part) :
    (setFlag f p).report.flags.getLsbD g.bit = (p.report.flags.getLsbD g.bit || decide (f = g)) := by
  rw [setFlag_flags, BitVec.getLsbD_or, mask_getLsbD]

/-- A record changes no flag but REPORT_OVERFLOW (R184). -/
theorem queueRecord_getLsbD (stamp : Stamp) (take : Word) (body : RecordBody) (p : Part) {g : EventFlag}
    (other : g ≠ .reportOverflow) :
    (queueRecord stamp take body p).report.flags.getLsbD g.bit = p.report.flags.getLsbD g.bit := by
  unfold queueRecord
  split
  · rfl
  · rw [setFlag_getLsbD]
    simp [other.symm, raise]

/-- A flag that is set already stays as it is, and nothing else changes (R181). -/
theorem setFlag_of_set {f : EventFlag} {p : Part} (set : p.report.flags.getLsbD f.bit = true) : setFlag f p = p := by
  have same : p.report.flags ||| f.mask = p.report.flags := by
    refine BitVec.eq_of_getLsbD_eq fun i hi => ?_
    rw [BitVec.getLsbD_or]
    by_cases bit : i = f.bit
    · rw [bit, set, mask_bit, Bool.or_true]
    · have clear : f.mask.getLsbD i = false := by
        unfold EventFlag.mask
        rw [BitVec.getLsbD_ofNat, Nat.testBit_two_pow_of_ne (Ne.symm bit), Bool.and_false]
      rw [clear, Bool.or_false]
  unfold setFlag changeFlags
  rw [if_pos same]

theorem setFlag_of_clear {f : EventFlag} {p : Part} (clear : p.report.flags.getLsbD f.bit = false) :
    setFlag f p = { p with report := { p.report with
      flags := p.report.flags ||| f.mask, due := true,
      alertN := alertLevel (p.report.flags ||| f.mask) p.rig.global.alertEnables } } := by
  have changes : ¬p.report.flags ||| f.mask = p.report.flags := by
    intro same
    have bit := congrArg (fun v => v.getLsbD f.bit) same
    simp only [BitVec.getLsbD_or, clear, mask_bit, Bool.or_true] at bit
    cases bit
  unfold setFlag changeFlags
  rw [if_neg changes]
  rfl

/-! ### Counters -/

theorem raise_count (c d : Counter) (p : Part) (sized : p.report.counters.length = 20) :
    (raise c p).count d = if d = c then p.count d + 1 else p.count d := raiseBy_count c d 1 p sized

theorem count_of_counters {p q : Part} (same : q.report.counters = p.report.counters) (c : Counter) : q.count c = p.count c := by
  unfold Part.count
  rw [same]

/-- A record that finds no room raises the counter of records lost, and no other (R184). -/
theorem queueRecord_count (stamp : Stamp) (take : Word) (body : RecordBody) (p : Part) (c : Counter)
    (sized : p.report.counters.length = 20) (other : c ≠ .recordsLost) :
    (queueRecord stamp take body p).count c = p.count c := by
  unfold queueRecord
  split
  · rfl
  · rw [count_of_counters (setFlag_counters _ _), raise_count _ _ _ sized, if_neg other]

@[simp] theorem queueRecord_length (stamp : Stamp) (take : Word) (body : RecordBody) (p : Part) :
    (queueRecord stamp take body p).report.counters.length = p.report.counters.length := by
  unfold queueRecord
  split
  · rfl
  · rw [setFlag_counters, raise, raiseBy_length]

/-! ### Records -/

theorem queueRecord_lost {stamp : Stamp} {take : Word} {body : RecordBody} {p : Part} (full : 16 ≤ p.report.queue.length) :
    queueRecord stamp take body p = setFlag .reportOverflow (raise .recordsLost p) := by
  unfold queueRecord
  rw [if_neg (by simp only [Config.reportDepth]; omega)]

/-- Settles O55: flags by whether they are set, records by whether they find room, and a counter alone. -/
theorem eventsReachTheReportUnit : Obligations.EventsReachTheReportUnit := by
  have level : ∀ flags enables : BitVec 11, alertLevel flags enables = decide (flags &&& enables = 0) := fun _ _ => rfl
  refine ⟨fun f p => ⟨setFlag_flags f p, setFlag_of_set, fun clear => ?_⟩, fun before after => ?_, rfl,
    fun stamp take body p => ⟨queueRecord_room stamp take body p, queueRecord_lost, fun c sized => ⟨?_, fun d other => ?_, rfl⟩⟩⟩
  · rw [setFlag_of_clear clear, level]
    rfl
  · have shown : ∀ p : Part, (statusBlock p).drop 6 = shownBytes p := fun p => List.drop_left' rfl
    rw [shown, shown]
    rfl
  · rw [raise_count c c p sized, if_pos rfl]
  · rw [raise_count c d p sized, if_neg other]

/-! ### The event clear word -/

end Sys2Proof.Machine

/-! SUPPORT. The request path: the ports (R142, R155, R162), the fields of a request record (R141, R187), the checks of handling
and the classes (R144, R146), the request that passes through (R149). -/

namespace Sys2Proof.Machine

/-! ### The ports -/

theorem acceptRequest_of_full {q : Request} {p : Part} (full : 32 ≤ p.req.intake.length) : acceptRequest q p = p := by
  unfold acceptRequest
  rw [if_neg (by simp only [Config.intakeDepth]; omega)]

theorem tag_getElem? {p : Part} {t : Nat} {te : TagEntry} (used : p.tag t = some te) : p.txn.tags[t]? = some (some te) := by
  unfold Part.tag at used
  rw [List.getD_eq_getElem?_getD] at used
  cases found : p.txn.tags[t]? with
  | none => rw [found] at used; cases used
  | some v => rw [found] at used; exact congrArg some used

/-- Changing the entry of a used tag is setting it. -/
theorem modify_tag {p : Part} {t : Nat} {te : TagEntry} (f : TagEntry → TagEntry) (used : p.tag t = some te) :
    p.txn.tags.modify t (Option.map f) = p.txn.tags.set t (some (f te)) := by
  have found := tag_getElem? used
  refine List.ext_getElem? fun n => ?_
  rw [List.getElem?_modify, List.getElem?_set]
  by_cases same : t = n
  · subst same
    have inside : t < p.txn.tags.length := (List.getElem?_eq_some_iff.mp found).1
    rw [found]
    simp [inside]
  · simp [same]

/-- Settles O21, port by port. -/
theorem portsAcceptRecords : Obligations.PortsAcceptRecords := by
  refine ⟨fun header data s running => ⟨fun room => ?_, fun full => ?_⟩,
    fun e rest s running => ⟨fun first => ?_, fun first => ?_, fun empty => ?_⟩, fun out te s running offered used => ?_⟩
  · exact whenRunning_eq running (if_pos room)
  · exact whenRunning_idle (acceptRequest_of_full full)
  · refine whenRunning_eq running ?_
    unfold acceptResponse
    simp only [first]
    rfl
  · unfold Part.offeredResponse
    rw [first]
    rfl
  · refine whenRunning_idle ?_
    unfold acceptResponse
    simp only [empty]
  · refine whenRunning_eq running ?_
    unfold mportAccept
    simp only [offered]
    unfold acceptOutput Part.onTxn
    simp only [modify_tag _ used]

/-! ### The fields of a request record -/

/-- Data of the length it is fitted to is left as it is. -/
theorem fitBytes_of_length {n : Nat} {data : List Byte} (fits : data.length = n) : fitBytes n data = data := by
  subst fits
  refine List.ext_getElem (by simp [fitBytes]) fun i h _ => ?_
  have inside : i < data.length := by simpa [fitBytes] using h
  simp [fitBytes, inside]

/-- Some bit of a field is set exactly when the field is not 0. -/
theorem field_ne_zero_iff (h a n : Nat) : h / 2 ^ a % 2 ^ n ≠ 0 ↔ ∃ i, h.testBit i = true ∧ a ≤ i ∧ i < a + n := by
  rw [← Nat.shiftRight_eq_div_pow]
  constructor
  · intro nonzero
    obtain ⟨i, set⟩ := Nat.exists_testBit_of_ne_zero nonzero
    rw [Nat.testBit_mod_two_pow, Nat.testBit_shiftRight] at set
    simp only [Bool.and_eq_true, decide_eq_true_eq] at set
    exact ⟨a + i, set.2, by omega, by omega⟩
  · rintro ⟨i, set, low, high⟩ zero
    have bit := congrArg (fun v => v.testBit (i - a)) zero
    simp only [Nat.testBit_mod_two_pow, Nat.testBit_shiftRight, Nat.zero_testBit, Bool.and_eq_false_iff,
      decide_eq_false_iff_not] at bit
    rcases bit with beyond | clear
    · omega
    · rw [show a + (i - a) = i by omega, set] at clear
      cases clear

/-- The stray bits of a header are those outside its fields (R144 check 1, R187). -/
theorem strayHeader_iff (h : Nat) :
    strayHeader h = true ↔ ∃ i : Nat, h.testBit i = true ∧
      ((14 ≤ i ∧ i ≤ 15) ∨ (24 ≤ i ∧ i ≤ 31) ∨ (41 ≤ i ∧ i ≤ 63) ∨ (104 ≤ i ∧ i ≤ 127)) := by
  have split : strayHeader h = true ↔ h / 2 ^ 14 % 2 ^ 2 ≠ 0 ∨ h / 2 ^ 24 % 2 ^ 8 ≠ 0 ∨ h / 2 ^ 41 % 2 ^ 23 ≠ 0 ∨
      h / 2 ^ 104 % 2 ^ 24 ≠ 0 := by
    simp only [strayHeader, headerField, Bool.or_eq_true, bne_iff_ne]
    omega
  rw [split, field_ne_zero_iff, field_ne_zero_iff, field_ne_zero_iff, field_ne_zero_iff]
  constructor
  · rintro (⟨i, set, low, high⟩ | ⟨i, set, low, high⟩ | ⟨i, set, low, high⟩ | ⟨i, set, low, high⟩)
    all_goals exact ⟨i, set, by omega⟩
  · rintro ⟨i, set, place | place | place | place⟩
    · exact .inl ⟨i, set, by omega, by omega⟩
    · exact .inr (.inl ⟨i, set, by omega, by omega⟩)
    · exact .inr (.inr (.inl ⟨i, set, by omega, by omega⟩))
    · exact .inr (.inr (.inr ⟨i, set, by omega, by omega⟩))

/-- A run of bytes of a header is a run of its bits. -/
theorem headerField_extract (header : BitVec 128) (lo n width : Nat) (inside : width ≤ 8 * n) :
    BitVec.ofNat width (headerField header.toNat lo n) = header.extractLsb' (8 * lo) width := by
  refine BitVec.eq_of_toNat_eq ?_
  rw [BitVec.toNat_ofNat, BitVec.extractLsb'_toNat, Nat.shiftRight_eq_div_pow, headerField,
    show (256 : Nat) = 2 ^ 8 from rfl, ← Nat.pow_mul, ← Nat.pow_mul]
  exact Nat.mod_mod_of_dvd _ (Nat.pow_dvd_pow 2 inside)

theorem parseRequest_kindByte_eq_one (header : BitVec 128) (data : List Byte) :
    (parseRequest header data).kindByte = 1 ↔ headerField header.toNat 0 1 = 1 := by
  have small : headerField header.toNat 0 1 < 256 := by unfold headerField; omega
  constructor
  · intro write
    have byte := congrArg BitVec.toNat write
    simpa [parseRequest, Nat.mod_eq_of_lt small] using byte
  · intro one
    simp [parseRequest, one]

/-- Settles O22: the fields written into a record are read back, and each field of any record is its run of bits. -/
theorem requestRecordsAreReadByTheirBytes : Obligations.RequestRecordsAreReadByTheirBytes := by
  constructor
  · intro kind source ttag address length data kindSmall sourceSmall ttagSmall addressSmall positive short carries q
    have value : (BitVec.ofNat 128
        (kind + source * 2 ^ 8 + ttag * 2 ^ 16 + (length - 1) * 2 ^ 32 + address * 2 ^ 64)).toNat =
        kind + source * 2 ^ 8 + ttag * 2 ^ 16 + (length - 1) * 2 ^ 32 + address * 2 ^ 64 := by
      rw [BitVec.toNat_ofNat, Nat.mod_eq_of_lt (by omega)]
    have lengthField : headerLength (kind + source * 2 ^ 8 + ttag * 2 ^ 16 + (length - 1) * 2 ^ 32 + address * 2 ^ 64) =
        length := by
      unfold headerLength
      omega
    have kindField :
        headerField (kind + source * 2 ^ 8 + ttag * 2 ^ 16 + (length - 1) * 2 ^ 32 + address * 2 ^ 64) 0 1 = kind := by
      unfold headerField
      omega
    refine ⟨?_, ?_, ?_, ?_, ?_, ?_, fun write => ?_, parseRequest_whole _ _⟩
    · simp only [q, parseRequest, value, headerField, BitVec.toNat_ofNat]
      omega
    · simp only [q, parseRequest, value, headerField, BitVec.toNat_ofNat]
      omega
    · simp only [q, parseRequest, value, headerField, BitVec.toNat_ofNat]
      omega
    · simp only [q, parseRequest, value, headerField, BitVec.toNat_ofNat]
      omega
    · simp only [q, parseRequest, value, lengthField]
    · simp only [q, parseRequest, value, strayHeader, headerField, Bool.or_eq_false_iff, bne_eq_false_iff_eq]
      omega
    · simp only [q, parseRequest, value, kindField, lengthField]
      rw [if_pos write]
      exact fitBytes_of_length (carries write)
  · intro header data q
    have kindByte := parseRequest_kindByte_eq_one header data
    refine ⟨headerField_extract header 0 1 8 (by omega), headerField_extract header 1 1 6 (by omega),
      headerField_extract header 2 1 8 (by omega), headerField_extract header 8 5 40 (by omega), ?_, fun notWrite => ?_,
      fun write fits => ?_, ?_⟩
    · show headerLength header.toNat = _
      rw [headerLength, BitVec.extractLsb'_toNat, Nat.shiftRight_eq_div_pow]
    · have other : headerField header.toNat 0 1 ≠ 1 := fun one => notWrite (kindByte.mpr one)
      simp [q, parseRequest, other]
    · have one := kindByte.mp write
      have whole : data.length = headerLength header.toNat := fits
      simp only [q, parseRequest, one, if_true]
      exact fitBytes_of_length whole
    · have bits : ∀ i, header.getLsbD i = header.toNat.testBit i := fun i => BitVec.testBit_toNat header |>.symm
      simp only [bits]
      exact strayHeader_iff header.toNat

/-! ### The head of the intake queue -/

/-- A command of handling acts on the head that it names, once the head passes the checks. -/
theorem exec_handle {row : Part → Request → Bool} {s : State} {q : Request} {e : Nat} {cls : ReqClass} {o : Nat} {u : Part}
    (running : s.hw.resetAsserted = false) (accepts : s.hw.Accepts q e cls o) (named : row s.hw q = true)
    (work : toOwner e q cls o (s.hw.taken e (entryOf q cls (entryOffset cls o))) = u) :
    whenRunning (handleHead row) s = .next { s with hw := markChanged s.hw u } :=
  whenRunning_eq running ((handleHead_accepts row s.hw q e cls o accepts named).trans work)

/-- Whatever is taken into an entry stands there until it is answered or handed on. -/
theorem handOn_taken {p : Part} {e : Nat} (v : Entry) (code : Code) (data : List Byte) (pieces : List Piece)
    (unused : unusedEntry p = some e) :
    handOn e code data pieces (p.taken e v) = { p with
      req := p.req.waiting e { v with state := .inProgress, outstanding := pieces.length, code := code, data := data }
      txn := { p.txn with issue := p.txn.issue ++ [pieces] } } := by
  rw [handOn_eq _ _ _ _ _ _ (entry_taken p e v unused)]
  simp [Part.taken, RequestPath.waiting, List.set_set]

theorem answerAtOnce_taken {p : Part} {e : Nat} (v : Entry) (code : Code) (unused : unusedEntry p = some e) :
    answerAtOnce e code (p.taken e v) = { p with
      req := p.req.answered e { v with
        outstanding := 0, code := code
        data := if v.kind = .read then fillBytes p.rig.global.fill v.addr.toNat v.length else [] } } := by
  rw [answerAtOnce_eq _ _ _ _ (entry_taken p e v unused)]
  simp [Part.taken, RequestPath.waiting, RequestPath.answered, List.set_set]

/-- Settles O24: both classes go to the same owner. -/
theorem passThroughHandsOnOnePiece : Obligations.PassThroughHandsOnOnePiece := by
  intro q e cls o s running accepts passes data
  obtain ⟨base, classified, _⟩ := accepts.cls
  have named : isPassThrough s.hw q = true := by
    unfold isPassThrough
    rcases passes with rfl | ⟨rfl, read⟩
    · simp [classified]
    · simp [classified, read]
  have owner : toOwner e q cls o (s.hw.taken e (entryOf q cls (entryOffset cls o))) =
      passOn e q (s.hw.taken e (entryOf q cls 0)) := by
    rcases passes with rfl | ⟨rfl, read⟩
    · cases kind : q.kind <;> simp [toOwner, entryOffset]
    · simp [toOwner, read, entryOffset]
  refine exec_handle running accepts named (owner.trans ?_)
  exact handOn_taken _ _ _ _ accepts.unused

end Sys2Proof.Machine

/-! SUPPORT. The checks of handling and the classes of a request (R143 to R147), and the fill pattern (R154). -/

namespace Sys2Proof.Machine

/-! ### The first element that satisfies a test -/

theorem firstIndex_eq_none_iff {α : Type} (test : α → Bool) (l : List α) :
    firstIndex test l = none ↔ ∀ a ∈ l, test a = false := by
  induction l with
  | nil => simp [firstIndex]
  | cons a as ih =>
    unfold firstIndex
    by_cases found : test a = true
    · simp [found]
    · simp [found, ih]

theorem firstIndex_eq_some_iff {α : Type} (test : α → Bool) (l : List α) (i : Nat) :
    firstIndex test l = some i ↔
      (∃ a, l[i]? = some a ∧ test a = true) ∧ ∀ n, n < i → ∀ a, l[n]? = some a → test a = false := by
  induction l generalizing i with
  | nil => simp [firstIndex]
  | cons a as ih =>
    unfold firstIndex
    by_cases found : test a = true
    · rw [if_pos found]
      constructor
      · rintro ⟨⟩
        exact ⟨⟨a, rfl, found⟩, fun n before => absurd before (Nat.not_lt_zero n)⟩
      · rintro ⟨_, before⟩
        cases i with
        | zero => rfl
        | succ i => exact absurd found (by simp [before 0 (Nat.succ_pos i) a rfl])
    · rw [if_neg found]
      cases i with
      | zero => simp [found]
      | succ i =>
        simp only [Option.map_eq_some_iff, Nat.add_right_cancel_iff, exists_eq_right, ih i, List.getElem?_cons_succ]
        refine and_congr_right fun _ => ⟨fun before n small b at_n => ?_, fun before n small b at_n => ?_⟩
        · cases n with
          | zero => cases at_n; exact Bool.eq_false_iff.mpr found
          | succ n => exact before n (by omega) b at_n
        · exact before (n + 1) (by omega) b at_n

/-- The first unused place of a table. -/
theorem firstIndex_isNone_eq_some_iff {α : Type} (l : List (Option α)) (i : Nat) :
    firstIndex Option.isNone l = some i ↔ l[i]? = some none ∧ ∀ n, n < i → l[n]? ≠ some none := by
  rw [firstIndex_eq_some_iff]
  refine and_congr ?_ (forall₂_congr fun n _ => ?_)
  · simp [Option.isNone_iff_eq_none]
  · constructor
    · intro used free
      exact absurd (used none free) (by simp)
    · intro notFree v found
      cases v with
      | none => exact absurd found notFree
      | some v => rfl

theorem unusedEntry_eq_some_iff (p : Part) (e : Nat) :
    unusedEntry p = some e ↔ p.req.table[e]? = some none ∧ ∀ n, n < e → p.req.table[n]? ≠ some none :=
  firstIndex_isNone_eq_some_iff p.req.table e

/-! ### Checks -/

theorem isDuplicate_iff (p : Part) (q : Request) :
    isDuplicate p q = true ↔ ∃ v : Entry, some v ∈ p.req.table ∧ v.source = q.source ∧ v.ttag = q.ttag := by
  unfold isDuplicate
  rw [List.any_eq_true]
  constructor
  · rintro ⟨v, used, same⟩
    cases v with
    | none => cases same
    | some v => exact ⟨v, used, by simpa using same⟩
  · rintro ⟨v, used, same⟩
    exact ⟨some v, used, by simpa using same⟩

/-- Checks 4 and 5: what a class is refused for (R147, R150). -/
theorem classRefused_iff (state : PartState) (kind : Kind) (c : Option (ReqClass × Nat)) :
    classRefused state kind c = true ↔
      (state = .loading ∧ ∀ base, c ≠ some (.rig, base)) ∨ c = none ∨ (∃ base, c = some (.pool, base)) ∨
      (∃ base, c = some (.refused, base)) ∨ ((∃ base, c = some (.pair, base)) ∧ kind = .write) := by
  cases c with
  | none => simp [classRefused]
  | some c =>
    obtain ⟨cls, base⟩ := c
    cases cls <;> simp [classRefused]

theorem isRefused_iff (p : Part) (q : Request) : isRefused p q = true ↔
    q.source.toNat = 63 ∨ (q.kindByte ≠ 0 ∧ q.kindByte ≠ 1) ∨ q.stray = true ∨
    (∃ v : Entry, some v ∈ p.req.table ∧ v.source = q.source ∧ v.ttag = q.ttag) ∨
    2 ^ 40 < q.addr.toNat + q.length ∨
    (p.rig.partState = .loading ∧ ∀ base, classify p q ≠ some (.rig, base)) ∨
    classify p q = none ∨ (∃ base, classify p q = some (.pool, base)) ∨
    (∃ base, classify p q = some (.refused, base)) ∨ ((∃ base, classify p q = some (.pair, base)) ∧ q.kind = .write) := by
  have header : q.badHeader = true ↔ q.source.toNat = 63 ∨ (q.kindByte ≠ 0 ∧ q.kindByte ≠ 1) ∨ q.stray = true := by
    simp [Request.badHeader, Request.kindDefined, or_assoc]
  have space : q.beyondSpace = true ↔ 2 ^ 40 < q.addr.toNat + q.length := decide_eq_true_iff
  unfold isRefused
  rw [Bool.or_eq_true, Bool.or_eq_true, Bool.or_eq_true, header, isDuplicate_iff, space, classRefused_iff]
  simp only [or_assoc]

/-! ### Classes -/

/-- A run that is not empty and lies in a region overlaps it. -/
theorem overlaps_of_holds {a b : Region} (holds : a.holds b = true) (some_byte : 1 ≤ b.size) : a.overlaps b = true := by
  simp only [Region.holds, Region.overlaps, decide_eq_true_eq] at *
  omega

/-- No run that is not empty lies in two regions that are apart. -/
theorem not_holds_both {a b r : Region} (apart : a.overlaps b = false) (some_byte : 1 ≤ r.size) (first : a.holds r = true) :
    b.holds r = false := by
  simp only [Region.holds, Region.overlaps, decide_eq_true_eq, decide_eq_false_iff_not] at *
  omega

/-- The ranges in force do not overlap (R176). -/
theorem classRanges_apart {p : Part} (apart : p.RegionsApart) :
    (classRanges p).Pairwise fun a b => a.region.overlaps b.region = false := by
  have eyes := apart.eyes
  have window := fun a => apart.windows (windowRegion p.rig.global) (by simp [windowRegions]) a
  simp only [eyeRegions, List.pairwise_cons, List.mem_cons, List.not_mem_nil, or_false, forall_eq_or_imp, forall_eq] at eyes window
  obtain ⟨⟨rl, rpl, rr, rpr⟩, ⟨lpl, lr, lpr⟩, ⟨plr, plpr⟩, rpr', _⟩ := eyes
  obtain ⟨wrig, wl, wpl, wr, wpr⟩ := window
  simp only [classRanges, List.pairwise_cons, List.mem_cons, List.not_mem_nil, or_false, forall_eq_or_imp, forall_eq]
  refine ⟨⟨rl, rr, wrig, rpl, rpr⟩, ⟨lr, wl, lpl, lpr⟩, ⟨wr, ?_, rpr'⟩, ⟨?_, ?_⟩, plpr, ?_, List.Pairwise.nil⟩
  · rw [Region.overlaps_comm]; exact plr
  · rw [Region.overlaps_comm]; exact wpl
  · rw [Region.overlaps_comm]; exact wpr
  · simp

/-- Among ranges that are apart the one that holds the request is the first to do so. -/
theorem find?_holds {r : Region} (some_byte : 1 ≤ r.size) {l : List ClassRange}
    (apart : l.Pairwise fun a b => a.region.overlaps b.region = false) {c : ClassRange} (listed : c ∈ l)
    (holds : c.region.holds r = true) : (l.find? fun c => c.region.holds r) = some c := by
  induction l with
  | nil => cases listed
  | cons a as ih =>
    obtain ⟨from_a, rest⟩ := List.pairwise_cons.mp apart
    rcases List.mem_cons.mp listed with rfl | later
    · exact List.find?_cons_of_pos holds
    · rw [List.find?_cons_of_neg (by simp [not_holds_both (by rw [Region.overlaps_comm]; exact from_a c later) some_byte holds])]
      exact ih rest later

theorem classify_of_holds {p : Part} {q : Request} {c : ClassRange} (apart : p.RegionsApart) (some_byte : 1 ≤ q.length)
    (listed : c ∈ classRanges p) (holds : c.region.holds q.region = true) :
    classify p q = some (c.cls, c.region.base) := by
  unfold classify
  rw [find?_holds some_byte (classRanges_apart apart) listed holds]

theorem classify_of_none_holds {p : Part} {q : Request} (outside : ∀ c ∈ classRanges p, ¬c.region.holds q.region = true) :
    classify p q = if (classRanges p).any (fun c => c.region.overlaps q.region) then none else some (.other, 0) := by
  unfold classify
  rw [List.find?_eq_none.mpr outside]

/-! ### The fill pattern -/

theorem fillByte_eq (fill : BitVec 16) (a : Nat) :
    fillByte fill a = if a % 2 = 0 then fill.extractLsb' 0 8 else fill.extractLsb' 8 8 := by
  unfold fillByte
  split
  · refine BitVec.eq_of_toNat_eq ?_
    simp [BitVec.extractLsb'_toNat]
  · refine BitVec.eq_of_toNat_eq ?_
    simp [BitVec.extractLsb'_toNat, Nat.shiftRight_eq_div_pow]

/-! ### The statement about refused requests and classes -/

/-- Settles O23: the checks, the answer, the classes by the ranges, the lowest unused entry, the fill pattern. -/
theorem requestsThatFailACheckAreRejected : Obligations.RequestsThatFailACheckAreRejected := by
  refine ⟨isRefused_iff, ?_, ?_, unusedEntry_eq_some_iff, fun fill a n => ⟨by simp [fillBytes], fun i inside =>
    ⟨by simp [fillBytes, inside], fillByte_eq fill (a + i)⟩⟩⟩
  · intro q e s running head refused cls answer counted
    have isClass : refusedClass s.hw q = cls := rfl
    refine whenRunning_eq running ((handleHead_refuses isRefused s.hw q e head refused refused).trans ?_)
    rw [answerAtOnce_taken _ _ head.unused, isClass]
    rfl
  · intro p q apart some_byte eye ranges inside touched
    have listed : ∀ cls base size, (cls, base, size) ∈ ranges → (⟨cls, ⟨base, size⟩⟩ : ClassRange) ∈ classRanges p := by
      intro cls base size hr
      have mapped : classRanges p = ranges.map fun r => ⟨r.1, ⟨r.2.1, r.2.2⟩⟩ := rfl
      rw [mapped]
      exact List.mem_map.mpr ⟨_, hr, rfl⟩
    have unlisted : ∀ c ∈ classRanges p, (c.cls, c.region.base, c.region.size) ∈ ranges := by
      intro c hc
      have mapped : ranges = (classRanges p).map fun c => (c.cls, c.region.base, c.region.size) := rfl
      rw [mapped]
      exact List.mem_map.mpr ⟨_, hc, rfl⟩
    have holds_iff : ∀ c : ClassRange, c.region.holds q.region = true ↔ inside c.region.base c.region.size :=
      fun c => decide_eq_true_iff
    have touches_iff : ∀ c : ClassRange, c.region.overlaps q.region = true ↔ touched c.region.base c.region.size :=
      fun c => decide_eq_true_iff
    refine ⟨fun cls base size hr within => ?_, fun none_touched => ?_, fun none_inside => ?_⟩
    · exact classify_of_holds apart some_byte (listed cls base size hr) ((holds_iff _).mpr within)
    · have clear : ∀ c ∈ classRanges p, ¬c.region.overlaps q.region = true := fun c hc meets =>
        none_touched _ _ _ (unlisted c hc) ((touches_iff c).mp meets)
      rw [classify_of_none_holds fun c hc holds => clear c hc (overlaps_of_holds holds some_byte)]
      rw [if_neg (by simpa [List.any_eq_true] using clear)]
    · rintro ⟨cls, base, size, hr, meets⟩
      rw [classify_of_none_holds fun c hc holds => none_inside _ _ _ (unlisted c hc) ((holds_iff c).mp holds)]
      exact if_pos (List.any_eq_true.mpr ⟨_, listed cls base size hr, (touches_iff ⟨cls, ⟨base, size⟩⟩).mpr meets⟩)

end Sys2Proof.Machine

/-! SUPPORT. Commands that find nothing to act on (notes/assumptions/1.md, 8.md), and responses of unknown tags (R169). -/

namespace Sys2Proof.Machine

/-! ### Nothing to act on -/

/-- A row of handling that does not describe the head, or finds no entry, leaves the part as it is. -/
theorem handleHead_idle {row : Part → Request → Bool} {p : Part}
    (nothing : ∀ q e, p.req.intake.head? = some q → unusedEntry p = some e → row p q = false) : handleHead row p = p := by
  unfold handleHead
  split
  · rename_i q rest e first unused
    rw [if_neg (by simp [nothing q e (by rw [first]; rfl) unused])]
  · rfl

theorem handleHead_of_head {row : Part → Request → Bool} {p : Part} {q : Request} (first : p.req.intake.head? = some q)
    (other : row p q = false) : handleHead row p = p :=
  handleHead_idle fun k _ firstK _ => by
    rw [first] at firstK
    cases firstK
    exact other

theorem arbiterStep_idle {u : TxnUnit} (idle : u.quiet ≠ .stopped ∨ u.output ≠ none ∨
    (u.choice = none ∧ u.issue = [] ∧ u.injected = [])) : arbiterStep u = u := by
  unfold arbiterStep
  by_cases stands : (u.quiet.isRunning || u.output.isSome) = true
  · rw [if_pos stands]
  · rw [if_neg stands]
    have empty : nextChoice u = none := by
      rcases idle with quiet | output | ⟨choice, issue, injected⟩
      · cases timer : u.quiet with
        | stopped => exact absurd timer quiet
        | running r => exact absurd (by simp [timer, Timer.isRunning]) stands
      · exact absurd (by simp [Option.isSome_iff_ne_none.mpr output]) stands
      · simp [nextChoice, choice, boundaryChoice, issue, injected]
    rw [empty]

theorem isCapture_iff (kind : Kind) (p : Part) (q : Request) :
    isCapture kind p q = true ↔ q.kind = kind ∧ ∃ x base, classify p q = some (.capture x, base) := by
  unfold isCapture
  rw [Bool.and_eq_true, beq_iff_eq]
  refine and_congr_right fun _ => ?_
  split
  · rename_i x base classified
    simp [classified]
  · rename_i other
    simp only [Bool.false_eq_true, false_iff, not_exists]
    exact fun x base => other x base

theorem isPairRead_iff (p : Part) (q : Request) :
    isPairRead p q = true ↔ q.kind = .read ∧ ∃ base, classify p q = some (.pair, base) := by
  unfold isPairRead
  rw [Bool.and_eq_true, beq_iff_eq]
  refine and_congr_right fun _ => ?_
  split
  · rename_i base classified
    simp [classified]
  · rename_i other
    simp only [Bool.false_eq_true, false_iff, not_exists]
    exact fun base => other base

theorem isRigWrite_iff (test : Nat → Nat → Bool) (p : Part) (q : Request) :
    isRigWrite test p q = true ↔
      q.kind = .write ∧ ∃ base, classify p q = some (.rig, base) ∧ test (q.addr.toNat - base) q.length = true := by
  unfold isRigWrite
  rw [Bool.and_eq_true, beq_iff_eq]
  refine and_congr_right fun _ => ?_
  split
  · rename_i base classified
    simp [classified]
  · rename_i other
    simp only [Bool.false_eq_true, false_iff, not_exists]
    exact fun base both => other base both.1

theorem isPassThrough_iff (p : Part) (q : Request) :
    isPassThrough p q = true ↔
      (∃ base, classify p q = some (.other, base)) ∨ q.kind = .read ∧ ∃ base, classify p q = some (.rig, base) := by
  unfold isPassThrough
  split
  · rename_i base classified
    simp [classified]
  · rename_i base classified
    simp [classified]
  · rename_i notOther notRig
    simp only [Bool.false_eq_true, false_iff, not_or, not_exists, not_and]
    exact ⟨notOther, fun _ => notRig⟩

/-- Settles O60, occasion by occasion: the command's work leaves the part as it is, so it leaves its mark as it is too. -/
theorem commandsWithoutOccasionChangeNothing : Obligations.CommandsWithoutOccasionChangeNothing := by
  have expired : ∀ (t : Timer) (f : Part → Part) (p : Part), t = .stopped → onExpiry t f p = p := onExpiry_stopped
  intro s
  have idle : ∀ {f : Part → Part}, f s.hw = s.hw → whenRunning f s = .next s := fun nothing => whenRunning_idle nothing
  refine ⟨fun running => ?_, fun stopped => idle (expired _ endQuietTime _ stopped), fun x time taken => idle (if_pos taken),
    fun x stopped => idle (expired _ (loseSync x) _ stopped), fun x empty => ⟨idle ?_, idle ?_, idle ?_⟩,
    fun x empty => ⟨idle ?_, idle ?_, idle ?_⟩, fun stopped => ⟨idle ?_, idle ?_⟩, fun none_waits c listed => ?_,
    fun empty => idle ?_, fun m free => idle ?_, fun x i stopped => idle (expired _ (abandon x i .timedOut) _ stopped),
    fun x i stopped => idle (expired _ (matchLapses x i) _ stopped), fun r stopped => idle (expired _ (leaseLapses r) _ stopped),
    fun e absent => idle ?_, fun stopped => idle (expired _ endPrdyPulse _ stopped),
    fun stopped => idle (expired _ restartInterval _ stopped), fun blocked => idle ?_, fun blocked => idle ?_,
    fun loading => ⟨idle ?_, idle ?_⟩, fun waits turn => idle ?_, fun due turn => idle ?_, fun x n rest head => ?_,
    fun x n rest head => ?_, fun q first => ?_, fun other => idle ?_, fun other => idle ?_, fun nothing => idle ?_,
    fun m te used other => idle ?_, fun full header data => idle (acceptRequest_of_full full), fun empty => idle ?_⟩
  · show Host.Outcome.next { s with hw := if s.hw.resetAsserted then releaseReset s.hw else s.hw } = _
    rw [if_neg (by simp [running])]
  · simp only [frameStart, empty]
  · simp only [lockGained, empty]
  · simp only [lockLost, empty]
  · simp only [skewPulseHandover, empty]
  · simp only [skewLockNotice, empty]
  · simp only [skewDepartureNotice, empty]
  · unfold trimWordEnd
    split
    · exact expired _ _ _ stopped
    · rfl
    · rfl
  · unfold trimGapEnd
    split
    · exact expired _ _ _ stopped
    · rfl
    · rfl
  · have unhandled : ∀ row, whenRunning (handleHead row) s = .next s := fun row => idle (handleHead_idle fun q e first unused => by
      rcases none_waits with empty | full
      · rw [empty] at first; cases first
      · rw [full] at unused; cases unused)
    simp only [List.mem_cons, List.not_mem_nil, or_false] at listed
    rcases listed with rfl | rfl | rfl | rfl | rfl | rfl | rfl | rfl <;> exact unhandled _
  · simp only [mportAccept, empty]
  · simp only [mTimeoutExpiry, free]
  · have missing : s.hw.readers.parkList.find? (fun k => k.entry == e) = none := by
      simpa using absent
    simp only [parkTimerExpiry, missing]
  · have refused : choosesStatus s.hw = false := by
      rcases blocked with clear | outstanding
      · simp [choosesStatus, clear]
      · simp [choosesStatus, offerFree, outstanding]
    simp [statusWriteOffer, refused]
  · unfold recordWriteOffer
    rcases blocked with empty | outstanding
    · simp only [empty]
    · have refused : choosesRecord s.hw = false := by simp [choosesRecord, offerFree, outstanding]
      split
      · simp [refused]
      · rfl
  · have refused : choosesStatus s.hw = false := by simp [choosesStatus, offerFree, loading]
    simp [statusWriteOffer, refused]
  · have refused : choosesRecord s.hw = false := by simp [choosesRecord, offerFree, loading]
    unfold recordWriteOffer
    split
    · simp [refused]
    · rfl
  · have refused : choosesStatus s.hw = false := by simp [choosesStatus, recordWaits, waits, turn]
    simp [statusWriteOffer, refused]
  · have refused : choosesRecord s.hw = false := by simp [choosesRecord, due, turn]
    unfold recordWriteOffer
    split
    · simp [refused]
    · rfl
  · refine ⟨fun other => idle ?_, fun other => idle ?_, fun other => idle ?_⟩
    · cases n with
      | frameStart stamp => exact absurd rfl (other stamp)
      | _ => simp only [frameStart, head]
    · cases n with
      | lockGained => exact absurd rfl other
      | _ => simp only [lockGained, head]
    · cases n with
      | lockLost => exact absurd rfl other
      | _ => simp only [lockLost, head]
  · refine ⟨fun other => idle ?_, fun other => idle ?_, fun other => idle ?_⟩
    · cases n with
      | pulse stamp outcome reference => exact absurd rfl (other stamp outcome reference)
      | _ => simp only [skewPulseHandover, head]
    · cases n with
      | lock => exact absurd rfl other
      | _ => simp only [skewLockNotice, head]
    · cases n with
      | departure => exact absurd rfl other
      | _ => simp only [skewDepartureNotice, head]
  · intro isOf rigWrite
    have unnamed : ∀ {row : Part → Request → Bool}, ¬row s.hw q = true → whenRunning (handleHead row) s = .next s :=
      fun other => idle (handleHead_of_head first (Bool.eq_false_iff.mpr other))
    refine ⟨fun other => unnamed ?_, fun other => unnamed ?_, fun other => unnamed ?_, fun other => unnamed ?_,
      fun other => unnamed ?_, fun other => unnamed ?_, fun other => unnamed ?_, fun accepted => unnamed (by simp [accepted])⟩
    · rw [isCapture_iff]; exact other
    · rw [isCapture_iff]; exact other
    · rw [isPairRead_iff]; exact other
    · rw [isRigWrite_iff]
      exact fun ⟨write, base, classified, _⟩ => other ⟨write, base, classified, trivial⟩
    · rw [isRigWrite_iff]
      rintro ⟨write, base, classified, touches⟩
      obtain ⟨k, _, covers⟩ := List.any_eq_true.mp touches
      exact other ⟨write, base, classified, k, covers⟩
    · rw [isRigWrite_iff]
      rintro ⟨write, base, classified, touches⟩
      have covers : q.addr.toNat - base < 4092 + 4 ∧ 4092 < q.addr.toNat - base + q.length := of_decide_eq_true touches
      exact other ⟨write, base, classified, covers.1, covers.2⟩
    · rw [isPassThrough_iff]; exact other
  · unfold trimWordEnd
    split
    · rename_i sending
      exact absurd sending other
    · rfl
    · rfl
  · unfold trimGapEnd
    split
    · rename_i gap
      exact absurd gap other
    · rfl
    · rfl
  · have step := arbiterStep_idle nothing
    unfold arbiterIssue Part.onTxn
    rw [step]
  · simp only [mTimeoutExpiry, used]
    split
    · rename_i inFlight
      rcases other with state | stopped
      · exact absurd inFlight state
      · exact expired _ _ _ stopped
    · rfl
    · rfl
  · simp only [acceptResponse, empty]

/-! ### Responses of unknown tags -/

/-- Settles O50: the tag is FREE, or OFFERED. -/
theorem unknownTagResponsesAreCounted : Obligations.UnknownTagResponsesAreCounted := by
  intro header data s running unknown
  refine whenRunning_eq running ?_
  have tag : (parseResponse header data).tag = header.toNat / 2 ^ 16 % 256 := parseResponse_tag header data
  unfold takeResponse
  rw [tag]
  split
  · rfl
  · rename_i te used
    rw [unknown te used]
    rfl

end Sys2Proof.Machine

/-! SUPPORT. The skew unit: notices (R126), samples and the filter (R127, R128), the limits (R129), the trim update (R131 to R134)
and the trim sender (R136, R137). -/

namespace Sys2Proof.Machine

/-! ### Notices -/

theorem dropSkewNotice_eq {x : Eye} {n : SkewNotice} {rest : List SkewNotice} {p : Part}
    (head : p.sync.skewNotices.get x = n :: rest) :
    dropSkewNotice x p = { p with sync := { p.sync with skewNotices := p.sync.skewNotices.set x rest } } := by
  unfold dropSkewNotice
  rw [show rest = (p.sync.skewNotices.get x).tail by rw [head]; rfl]
  rfl

theorem skewPulseHandover_of_head {x : Eye} {stamp : Stamp} {outcome : PulseOutcome} {reference : Option Int}
    {rest : List SkewNotice} {p : Part} (head : p.sync.skewNotices.get x = .pulse stamp outcome reference :: rest) :
    skewPulseHandover x p = takePulse x stamp outcome reference
      { p with sync := { p.sync with skewNotices := p.sync.skewNotices.set x rest } } := by
  unfold skewPulseHandover
  simp only [head]
  rw [dropSkewNotice_eq head]

/-- What makes a pulse the partner of an accepted one (R127). -/
theorem samplePartner_eq_some_iff (p : Part) (x : Eye) (s o : Stamp) (r : Option Int) :
    samplePartner p x s r = some o ↔
      p.skew.lockView = ⟨true, true⟩ ∧ p.rig.partState = .running ∧ p.skew.latest.get x.other = some ⟨o, false⟩ ∧
        ∃ period, r = some period ∧ 2 * ((stampDiff s o).natAbs : Int) ≤ period := by
  have views : p.skew.lockView = ⟨true, true⟩ ↔ p.skew.lockView.left = true ∧ p.skew.lockView.right = true := by
    cases p.skew.lockView
    simp
  unfold samplePartner
  split
  · rename_i q period latest
    have unused : some q = some (⟨o, false⟩ : LatestPulse) ↔ q.stamp = o ∧ q.used = false := by
      cases q
      simp
    rw [latest, views, unused]
    simp only [Bool.and_eq_true, Bool.not_eq_true', beq_iff_eq, decide_eq_true_eq, Option.ite_none_right_eq_some,
      Option.some.injEq, exists_eq_left']
    constructor
    · rintro ⟨⟨⟨⟨⟨l, r⟩, state⟩, fresh⟩, near⟩, rfl⟩
      exact ⟨⟨l, r⟩, state, ⟨rfl, fresh⟩, by omega⟩
    · rintro ⟨⟨l, r⟩, state, ⟨rfl, fresh⟩, near⟩
      exact ⟨⟨⟨⟨⟨l, r⟩, state⟩, fresh⟩, by omega⟩, rfl⟩
  · rename_i missing
    constructor
    · intro impossible
      cases impossible
    · rintro ⟨_, _, latest, period, rfl, _⟩
      exact absurd rfl (missing _ _ latest)

/-- Settles O17: the two notices, and the pulses by their outcome and their partner. -/
theorem skewNoticesAndUnusedPulses : Obligations.SkewNoticesAndUnusedPulses := by
  constructor
  · intro x rest s running told
    refine ⟨fun head => whenRunning_eq running ?_, fun head => whenRunning_eq running ?_⟩
    · simp only [skewLockNotice, head]
      rw [dropSkewNotice_eq head]
      rfl
    · simp only [skewDepartureNotice, head]
      rw [dropSkewNotice_eq head]
      rfl
  · intro x stamp outcome reference rest s running head told
    refine ⟨fun other => whenRunning_eq running ?_, fun accepted alone => whenRunning_eq running ?_⟩
    · rw [skewPulseHandover_of_head head]
      cases outcome with
      | accepted => exact absurd rfl other
      | periodFault => rfl
      | acquisition => rfl
    · rw [skewPulseHandover_of_head head, accepted]
      have no_partner : samplePartner { s.hw with sync := told } x stamp reference = none := by
        cases partner : samplePartner { s.hw with sync := told } x stamp reference with
        | none => rfl
        | some o =>
          obtain ⟨views, state, latest, period, isReference, near⟩ := (samplePartner_eq_some_iff _ _ _ _ _).mp partner
          have far := alone o period views state latest isReference
          omega
      show acceptedPulse x stamp reference { s.hw with sync := told } = _
      unfold acceptedPulse
      rw [no_partner]
      rfl

/-! ### The trim sender -/

/-- Settles O20: the two expiries by what is pending, and the two lines at each remaining time. -/
theorem trimSenderTurns : Obligations.TrimSenderTurns := by
  constructor
  · intro s r running left q sender
    have turned : q.skew = { s.hw.skew with sender := { s.hw.skew.sender with timer := .running (r - r) } } := by
      simp only [q]
      rw [passTime_of_running r s.hw running]
      simp only [left, Timer.passes]
    have expired : ∀ f, onExpiry s.hw.skew.sender.timer f s.hw = f q := fun f => onExpiry_running _ r f s.hw left
    refine ⟨fun sending => whenRunning_eq running ?_, fun gap pending changed => whenRunning_eq running ?_,
      fun gap nothing => whenRunning_eq running ?_⟩
    · simp only [trimWordEnd, show s.hw.skew.sender.state = .sending from sending, expired]
      simp only [endTrimWord, Part.onSkew, turned]
      rfl
    · simp only [trimGapEnd, show s.hw.skew.sender.state = .gap from gap, expired]
      unfold endTrimGap
      rw [if_pos (by rw [turned]; exact ⟨pending, changed⟩)]
      simp only [startTrimWord, Part.onSkew, turned]
      rfl
    · simp only [trimGapEnd, show s.hw.skew.sender.state = .gap from gap, expired]
      unfold endTrimGap
      rw [if_neg (by
        rw [turned]
        rintro ⟨pending, changed⟩
        rcases nothing with clear | same
        · exact absurd (show s.hw.skew.sender.pending = true from pending) (by simp [show s.hw.skew.sender.pending = false from clear])
        · exact changed same)]
      simp only [Part.onSkew, turned]
      rfl
  · intro p
    refine ⟨fun other => ?_, fun t r sending word left positive small => ⟨?_, ?_⟩⟩
    · cases state : p.skew.sender.state with
      | sending => exact absurd state other
      | idle => exact ⟨by simp [Part.trimD, state], by simp [Part.trimCk, state]⟩
      | gap => exact ⟨by simp [Part.trimD, state], by simp [Part.trimCk, state]⟩
    · have place : (trimBitPosition r).1 = (4000 - r) / 250 := by
        simp only [trimBitPosition, Config.trimWordTicks, Config.ticksPerUs]
        omega
      simp only [Part.trimD, sending, word, left, place]
      rfl
    · simp only [Part.trimCk, sending, left, trimBitPosition, Config.trimWordTicks, Config.ticksPerUs, decide_eq_true_eq]
      omega

end Sys2Proof.Machine

/-! SUPPORT. What an operation that only reports leaves alone and raises; the judgement of the limits (R129); the trim update (R131
to R134); the statements about samples. -/

namespace Sys2Proof.Machine

/-! ### Operations that only report -/

/-- `q` is `p` but for the report unit. -/
def Part.OnlyReports (p q : Part) : Prop := q = { p with report := q.report }

theorem Part.OnlyReports.refl (p : Part) : p.OnlyReports p := rfl

theorem Part.OnlyReports.trans {p q r : Part} (first : p.OnlyReports q) (second : q.OnlyReports r) : p.OnlyReports r := by
  unfold Part.OnlyReports at *
  rw [second, first]

theorem Part.OnlyReports.skew {p q : Part} (only : p.OnlyReports q) : q.skew = p.skew := by rw [only]

theorem Part.OnlyReports.rig {p q : Part} (only : p.OnlyReports q) : q.rig = p.rig := by rw [only]

theorem Part.OnlyReports.now {p q : Part} (only : p.OnlyReports q) : q.now = p.now := by rw [only]; rfl

theorem Part.OnlyReports.take {p q : Part} (only : p.OnlyReports q) : q.take = p.take := by rw [only]; rfl

theorem setFlag_onlyReports (f : EventFlag) (p : Part) : p.OnlyReports (setFlag f p) := by
  rw [setFlag_eq]
  rfl

theorem queueRecord_onlyReports (stamp : Stamp) (take : Word) (body : RecordBody) (p : Part) :
    p.OnlyReports (queueRecord stamp take body p) := by
  rw [queueRecord_eq]
  rfl

/-- Between `p` and `q` the records with these bodies have been raised, in this order, at the present moment (R184). -/
def Part.Raises (p q : Part) (bodies : List RecordBody) : Prop :=
  ∃ raised : List ReportRecord, q.report.queue = p.report.queue ++ raised ∧
    (∀ r ∈ raised, r.stamp = p.now ∧ r.take = p.take) ∧ raised.map (·.body) = bodies

theorem Part.Raises.of_queue {p q : Part} (same : q.report.queue = p.report.queue) : p.Raises q [] :=
  ⟨[], by rw [same, List.append_nil], fun _ impossible => absurd impossible List.not_mem_nil, rfl⟩

theorem Part.Raises.length {p q : Part} {bodies : List RecordBody} (raises : p.Raises q bodies) :
    q.report.queue.length = p.report.queue.length + bodies.length := by
  obtain ⟨raised, queue, _, rfl⟩ := raises
  simp [queue]

theorem Part.Raises.trans {p q r : Part} {first second : List RecordBody} (a : p.Raises q first) (b : q.Raises r second)
    (now : q.now = p.now) (take : q.take = p.take) : p.Raises r (first ++ second) := by
  obtain ⟨raisedA, queueA, stampsA, rfl⟩ := a
  obtain ⟨raisedB, queueB, stampsB, rfl⟩ := b
  refine ⟨raisedA ++ raisedB, by rw [queueB, queueA, List.append_assoc], fun k listed => ?_, List.map_append⟩
  rcases List.mem_append.mp listed with inA | inB
  · exact stampsA k inA
  · rw [← now, ← take]
    exact stampsB k inB

theorem queueRecordNow_raises {body : RecordBody} {p : Part} (room : p.report.queue.length < 16) :
    p.Raises (queueRecordNow body p) [body] := by
  refine ⟨[{ seq := p.report.seq, stamp := p.now, take := p.take, body := body }], ?_, ?_, rfl⟩
  · unfold queueRecordNow
    rw [queueRecord_room _ _ _ _ room]
  · intro r listed
    rw [List.mem_singleton.mp listed]
    exact ⟨rfl, rfl⟩

/-! ### The limits -/

/-- The record of a SKEW_EVENT as the skew unit stands (R129, R190). -/
def Part.skewBody (p : Part) (kind : SkewEventKind) : RecordBody :=
  .skewEvent kind p.skew.f p.skew.trim p.skew.d p.rig.sync.target

theorem skewEvent_onlyReports (kind : SkewEventKind) (p : Part) : p.OnlyReports (skewEvent kind p) :=
  queueRecord_onlyReports _ _ _ p

/-- One of the four events of a judgement: raised where its condition holds, with its flag where it has one (R129). -/
def raiseIf (c : Bool) (kind : SkewEventKind) (flag : Option EventFlag) (p : Part) : Part :=
  if c then (match flag with | some f => setFlag f (skewEvent kind p) | none => skewEvent kind p) else p

theorem limitEvents_eq (warn0 fault0 warn1 fault1 : Bool) (p : Part) :
    limitEvents warn0 fault0 warn1 fault1 p =
      raiseIf (warn0 && !warn1) .warnLeave none (raiseIf (fault0 && !fault1) .faultLeave none
        (raiseIf (!fault0 && fault1) .faultEnter (some .skewFault) (raiseIf (!warn0 && warn1) .warnEnter (some .skewWarn) p))) :=
  rfl

theorem raiseIf_onlyReports (c : Bool) (kind : SkewEventKind) (flag : Option EventFlag) (p : Part) :
    p.OnlyReports (raiseIf c kind flag p) := by
  unfold raiseIf
  split
  · cases flag with
    | none => exact skewEvent_onlyReports kind p
    | some f => exact (skewEvent_onlyReports kind p).trans (setFlag_onlyReports f _)
  · exact .refl p

theorem raiseIf_raises {c : Bool} {kind : SkewEventKind} {flag : Option EventFlag} {p : Part}
    (room : c = true → p.report.queue.length < 16) : p.Raises (raiseIf c kind flag p) (if c then [p.skewBody kind] else []) := by
  unfold raiseIf
  cases c with
  | false => exact .of_queue rfl
  | true =>
    have event : p.Raises (skewEvent kind p) [p.skewBody kind] := queueRecordNow_raises (room rfl)
    cases flag with
    | none => exact event
    | some f =>
      obtain ⟨raised, queue, stamps, bodies⟩ := event
      exact ⟨raised, (setFlag_queue f _).trans queue, stamps, bodies⟩

theorem raiseIf_getLsbD (c : Bool) (kind : SkewEventKind) (flag : Option EventFlag) (p : Part) {g : EventFlag}
    (other : g ≠ .reportOverflow) :
    (raiseIf c kind flag p).report.flags.getLsbD g.bit =
      (p.report.flags.getLsbD g.bit || (c && decide (flag = some g))) := by
  unfold raiseIf
  cases c with
  | false => simp
  | true =>
    have event : (skewEvent kind p).report.flags.getLsbD g.bit = p.report.flags.getLsbD g.bit := queueRecord_getLsbD _ _ _ _ other
    cases flag with
    | none => simp [event]
    | some f => simp [setFlag_getLsbD, event]

theorem limitEvents_onlyReports (warn0 fault0 warn1 fault1 : Bool) (p : Part) :
    p.OnlyReports (limitEvents warn0 fault0 warn1 fault1 p) := by
  rw [limitEvents_eq]
  exact (((raiseIf_onlyReports ..).trans (raiseIf_onlyReports ..)).trans (raiseIf_onlyReports ..)).trans (raiseIf_onlyReports ..)

/-- The kinds of the events of one judgement, in their order (R129). -/
def limitKinds (warn0 fault0 warn1 fault1 : Bool) : List SkewEventKind :=
  (if !warn0 && warn1 then [.warnEnter] else []) ++ (if !fault0 && fault1 then [.faultEnter] else []) ++
    (if fault0 && !fault1 then [.faultLeave] else []) ++ (if warn0 && !warn1 then [.warnLeave] else [])

/-- A judgement enters or leaves each limit at most once. -/
theorem limitKinds_length (warn0 fault0 warn1 fault1 : Bool) : (limitKinds warn0 fault0 warn1 fault1).length ≤ 2 := by
  revert warn0 fault0 warn1 fault1
  decide

theorem limitEvents_raises {warn0 fault0 warn1 fault1 : Bool} {p : Part} (room : p.report.queue.length ≤ 14) :
    p.Raises (limitEvents warn0 fault0 warn1 fault1 p) ((limitKinds warn0 fault0 warn1 fault1).map p.skewBody) := by
  have body : ∀ {q : Part} (kind : SkewEventKind), p.OnlyReports q → q.skewBody kind = p.skewBody kind := by
    intro q kind only
    rw [Part.skewBody, only.skew, only.rig]
    rfl
  have listed : ∀ (c : Bool) (kind : SkewEventKind),
      List.map p.skewBody (if c then [kind] else []) = if c then [p.skewBody kind] else [] := by
    intro c kind
    cases c <;> rfl
  have only1 := raiseIf_onlyReports (!warn0 && warn1) .warnEnter (some .skewWarn) p
  have only2 := only1.trans (raiseIf_onlyReports (!fault0 && fault1) .faultEnter (some .skewFault) _)
  have only3 := only2.trans (raiseIf_onlyReports (fault0 && !fault1) .faultLeave none _)
  have raises1 := raiseIf_raises (c := !warn0 && warn1) (kind := .warnEnter) (flag := some .skewWarn) (p := p) (fun _ => by omega)
  have length1 := raises1.length
  have raises2 := raises1.trans (raiseIf_raises (c := !fault0 && fault1) (kind := .faultEnter) (flag := some .skewFault)
    (fun _ => by rw [length1]; split <;> simp <;> omega)) only1.now only1.take
  have length2 := raises2.length
  have raises3 := raises2.trans (raiseIf_raises (c := fault0 && !fault1) (kind := .faultLeave) (flag := none)
    (fun leaves => by
      have noEnter : (!fault0 && fault1) = false := by revert leaves; cases fault0 <;> simp
      rw [length2, noEnter]
      split <;> simp <;> omega)) only2.now only2.take
  have length3 := raises3.length
  have raises4 := raises3.trans (raiseIf_raises (c := warn0 && !warn1) (kind := .warnLeave) (flag := none)
    (fun leaves => by
      have noEnter : (!warn0 && warn1) = false := by revert leaves; cases warn0 <;> simp
      rw [length3, noEnter]
      cases fault0 <;> simp <;> split <;> simp <;> omega)) only3.now only3.take
  rw [limitEvents_eq]
  simp only [limitKinds, List.map_append, listed]
  rwa [body _ only1, body _ only2, body _ only3] at raises4

theorem limitEvents_getLsbD (warn0 fault0 warn1 fault1 : Bool) (p : Part) {g : EventFlag} (other : g ≠ .reportOverflow) :
    (limitEvents warn0 fault0 warn1 fault1 p).report.flags.getLsbD g.bit =
      (p.report.flags.getLsbD g.bit || (!warn0 && warn1 && decide (EventFlag.skewWarn = g)) ||
        (!fault0 && fault1 && decide (EventFlag.skewFault = g))) := by
  rw [limitEvents_eq]
  simp only [raiseIf_getLsbD _ _ _ _ other]
  simp

theorem limitAfter_eq_true_iff (state : Bool) (e limit hysteresis : Nat) :
    limitAfter state e limit hysteresis = true ↔
      if state then 256 * ((limit : Int) - hysteresis) < e else 256 * limit < e := by
  cases state <;> simp [limitAfter]

/-! ### The trim update -/

/-- The sender once it has been told of a new trim value (R137). -/
def TrimSender.told (t : Int) (k : TrimSender) : TrimSender :=
  if k.state = .idle then { k with state := .sending, word := some t, timer := .running 4000 } else { k with pending := true }

theorem moveTrim_eq (t : Int) (p : Part) :
    moveTrim t p = { p with skew := { p.skew with
      trim := t, sender := if t = p.skew.trim then p.skew.sender else p.skew.sender.told t } } := by
  unfold moveTrim
  split
  · rename_i same
    rw [same]
  · unfold tellSender TrimSender.told
    cases state : p.skew.sender.state with
    | idle =>
      simp only [Part.onSkew, state]
      rfl
    | sending =>
      simp only [Part.onSkew, state]
      rfl
    | gap =>
      simp only [Part.onSkew, state]
      rfl

/-- The trim value stands at a bound with the error above the warn limit (R134). -/
def Part.Saturated (p : Part) : Prop :=
  (p.skew.trim = p.rig.sync.trimMin ∨ p.skew.trim = p.rig.sync.trimMax) ∧ 256 * p.rig.sync.warnLimit < p.skewError.natAbs

theorem judgeSaturation_of_not {p : Part} (clear : ¬p.Saturated) :
    judgeSaturation p = { p with skew := { p.skew with satCount := 0 } } := if_neg clear

theorem judgeSaturation_of_saturated {p : Part} (saturated : p.Saturated) :
    judgeSaturation p =
      if p.skew.satCount = 15 then
        setFlag .trimSaturated (skewEvent .trimSaturated { p with skew := { p.skew with satCount := min (p.skew.satCount + 1) 16 } })
      else { p with skew := { p.skew with satCount := min (p.skew.satCount + 1) 16 } } := by
  have reached : p.skew.satCount + 1 = 16 ↔ p.skew.satCount = 15 := by omega
  refine (if_pos saturated).trans ?_
  simp only [Config.saturationLimit, reached]
  rfl

theorem limitedStep_eq (y : SyncSettings) (fault : Bool) (step : Int) :
    limitedStep y fault step =
      if fault && y.directOnFault then step else max (-(y.downRate : Int)) (min step y.upRate) := by
  unfold limitedStep
  split
  · rfl
  · split
    · omega
    · split <;> omega

theorem clampTrim_eq {a b : Int} (x : Int) (ordered : a ≤ b) : clampTrim x a b = max a (min x b) := by
  unfold clampTrim
  split
  · omega
  · split <;> omega

end Sys2Proof.Machine

/-! SUPPORT. Samples: what the filter and the limits leave (R127 to R129), and what a trim update adds (R131 to R134, R137). -/

namespace Sys2Proof.Machine

/-! ### What a trim update changes -/

/-- The part once an update has moved the trim value (R132, R133). -/
def Part.trimMoved (p : Part) : Part := moveTrim (trimAfter p) p

theorem trimMoved_eq (p : Part) : p.trimMoved = { p with skew := { p.skew with
    trim := trimAfter p, sender := if trimAfter p = p.skew.trim then p.skew.sender else p.skew.sender.told (trimAfter p) } } :=
  moveTrim_eq _ p

theorem trimUpdate_eq (p : Part) : trimUpdate p = judgeSaturation p.trimMoved := rfl

theorem trimUpdate_skew (p : Part) : (trimUpdate p).skew = { p.trimMoved.skew with satCount := (trimUpdate p).skew.satCount } := by
  show (judgeSaturation p.trimMoved).skew = { p.trimMoved.skew with satCount := (judgeSaturation p.trimMoved).skew.satCount }
  by_cases saturated : p.trimMoved.Saturated
  · rw [judgeSaturation_of_saturated saturated]
    split
    · rw [(skewEvent_onlyReports ..).trans (setFlag_onlyReports ..)]
    · rfl
  · rw [judgeSaturation_of_not saturated]

/-- A trim update changes the skew unit and the report unit alone. -/
theorem trimUpdate_frame (p : Part) : trimUpdate p = { p with skew := (trimUpdate p).skew, report := (trimUpdate p).report } := by
  show judgeSaturation p.trimMoved =
    { p with skew := (judgeSaturation p.trimMoved).skew, report := (judgeSaturation p.trimMoved).report }
  by_cases saturated : p.trimMoved.Saturated
  · rw [judgeSaturation_of_saturated saturated]
    split
    · rw [(skewEvent_onlyReports ..).trans (setFlag_onlyReports ..), trimMoved_eq]
    · rw [trimMoved_eq]
  · rw [judgeSaturation_of_not saturated, trimMoved_eq]

/-- Saturation sets its own flag only. -/
theorem trimUpdate_getLsbD (p : Part) {g : EventFlag} (other : g ≠ .reportOverflow) (notSaturated : g ≠ .trimSaturated) :
    (trimUpdate p).report.flags.getLsbD g.bit = p.report.flags.getLsbD g.bit := by
  show (judgeSaturation p.trimMoved).report.flags.getLsbD g.bit = _
  have moved : p.trimMoved.report = p.report := by rw [trimMoved_eq]
  by_cases saturated : p.trimMoved.Saturated
  · rw [judgeSaturation_of_saturated saturated]
    split
    · rw [setFlag_getLsbD]
      simp only [notSaturated.symm, decide_false, Bool.or_false, skewEvent, queueRecordNow]
      rw [queueRecord_getLsbD _ _ _ _ other]
      exact congrArg (fun u : ReportUnit => u.flags.getLsbD g.bit) moved
    · exact congrArg (fun u : ReportUnit => u.flags.getLsbD g.bit) moved
  · rw [judgeSaturation_of_not saturated]
    exact congrArg (fun u : ReportUnit => u.flags.getLsbD g.bit) moved

theorem trimUpdate_trim (p : Part) : (trimUpdate p).skew.trim = trimAfter p := by rw [trimUpdate_skew, trimMoved_eq]

theorem trimMoved_report (p : Part) : p.trimMoved.report = p.report := by rw [trimMoved_eq]

/-- An update that reaches the saturation limit and finds room raises TRIM_SATURATED (R134). -/
theorem trimUpdate_raises_of_full {p : Part} (saturated : p.trimMoved.Saturated) (full : p.trimMoved.skew.satCount = 15)
    (room : p.report.queue.length < 16) :
    p.Raises (trimUpdate p) [.skewEvent .trimSaturated p.skew.f (trimUpdate p).skew.trim p.skew.d p.rig.sync.target] := by
  have judged := (trimUpdate_eq p).trans (judgeSaturation_of_saturated saturated)
  rw [if_pos full] at judged
  have counted : ({ p.trimMoved with skew := { p.trimMoved.skew with satCount := min (p.trimMoved.skew.satCount + 1) 16 } } : Part).skewBody
      .trimSaturated = .skewEvent .trimSaturated p.skew.f (trimUpdate p).skew.trim p.skew.d p.rig.sync.target := by
    rw [trimUpdate_trim]
    simp only [Part.skewBody, trimMoved_eq]
  obtain ⟨raised, queue, stamps, bodies⟩ :=
    queueRecordNow_raises
      (p := { p.trimMoved with skew := { p.trimMoved.skew with satCount := min (p.trimMoved.skew.satCount + 1) 16 } })
      (body := .skewEvent .trimSaturated p.skew.f (trimUpdate p).skew.trim p.skew.d p.rig.sync.target)
      (show p.trimMoved.report.queue.length < 16 by rw [trimMoved_report]; exact room)
  have clocks : p.trimMoved.now = p.now ∧ p.trimMoved.take = p.take := by
    rw [trimMoved_eq]
    exact ⟨rfl, rfl⟩
  refine ⟨raised, ?_, fun r mem => ?_, bodies⟩
  · rw [judged, setFlag_queue, skewEvent]
    exact (congrArg (fun b => (queueRecordNow b _).report.queue) counted).trans
      (queue.trans (congrArg (fun u : ReportUnit => u.queue ++ raised) (trimMoved_report p)))
  · obtain ⟨now, take⟩ := clocks
    exact now ▸ take ▸ stamps r mem

/-- An update that finds room raises TRIM_SATURATED or nothing. -/
theorem trimUpdate_raises {p : Part} (room : p.report.queue.length < 16) :
    p.Raises (trimUpdate p) [] ∨
      p.Raises (trimUpdate p) [.skewEvent .trimSaturated p.skew.f (trimUpdate p).skew.trim p.skew.d p.rig.sync.target] := by
  by_cases saturated : p.trimMoved.Saturated
  · by_cases full : p.trimMoved.skew.satCount = 15
    · exact .inr (trimUpdate_raises_of_full saturated full room)
    · have judged := (trimUpdate_eq p).trans (judgeSaturation_of_saturated saturated)
      rw [if_neg full] at judged
      exact .inl (.of_queue (by rw [judged]; exact congrArg ReportUnit.queue (trimMoved_report p)))
  · have judged := (trimUpdate_eq p).trans (judgeSaturation_of_not saturated)
    exact .inl (.of_queue (by rw [judged]; exact congrArg ReportUnit.queue (trimMoved_report p)))

/-! ### A sample -/

/-- The skew unit with the sample taken into the filter (R128) and the limits judged (R129). -/
def SkewUnit.sampled (d : Int) (y : SyncSettings) (u : SkewUnit) : SkewUnit :=
  let f := filtered u.seed u.f d y.filterShift
  let e := (f - 256 * y.target).natAbs
  { u with
    d := some d, f := f, seed := false, sampleCount := u.sampleCount + 1
    warn := limitAfter u.warn e y.warnLimit y.hysteresis, fault := limitAfter u.fault e y.faultLimit y.hysteresis }

/-- The part with the sample taken and the limits judged, the events of the judgement not yet raised. -/
def Part.sampled (d : Int) (p : Part) : Part := { p with skew := p.skew.sampled d p.rig.sync }

/-- The same with the events raised. -/
def Part.judged (d : Int) (p : Part) : Part :=
  limitEvents p.skew.warn p.skew.fault (p.sampled d).skew.warn (p.sampled d).skew.fault (p.sampled d)

theorem judged_onlyReports (d : Int) (p : Part) : (p.sampled d).OnlyReports (p.judged d) := limitEvents_onlyReports ..

/-- The trim value moves only at the divider (R131). -/
theorem takeSample_eq (d : Int) (p : Part) :
    takeSample d p =
      if p.rig.sync.divider ≤ p.skew.sampleCount + 1 then
        { trimUpdate (p.judged d) with skew := { (trimUpdate (p.judged d)).skew with sampleCount := 0 } }
      else p.judged d := by
  have counted : (p.judged d).skew.sampleCount = p.skew.sampleCount + 1 := by
    rw [(judged_onlyReports d p).skew]
    rfl
  rw [← counted]
  rfl

/-- The part with the notice of an accepted pulse taken and its partner found: both pulses are used (R127). -/
def Part.pulsesUsed (x : Eye) (stamp o : Stamp) (rest : List SkewNotice) (p : Part) : Part :=
  { p with
    sync := { p.sync with skewNotices := p.sync.skewNotices.set x rest }
    skew := { p.skew with
      latest := (p.skew.latest.set x.other (some { stamp := o, used := true })).set x (some { stamp := stamp, used := true }) } }

/-- An accepted pulse that finds its partner gives a sample (R127). -/
theorem skewPulseHandover_sample {x : Eye} {stamp o : Stamp} {period : Int} {rest : List SkewNotice} {p : Part}
    (head : p.sync.skewNotices.get x = .pulse stamp .accepted (some period) :: rest)
    (views : p.skew.lockView = ⟨true, true⟩) (state : p.rig.partState = .running)
    (latest : p.skew.latest.get x.other = some { stamp := o, used := false })
    (near : 2 * (stampDiff stamp o).natAbs ≤ period) :
    skewPulseHandover x p = takeSample (sampleValue x stamp o) (p.pulsesUsed x stamp o rest) := by
  rw [skewPulseHandover_of_head head]
  have partner : samplePartner { p with sync := { p.sync with skewNotices := p.sync.skewNotices.set x rest } } x stamp (some period) =
      some o := (samplePartner_eq_some_iff _ _ _ _ _).mpr ⟨views, state, latest, period, rfl, by omega⟩
  show acceptedPulse x stamp (some period) _ = _
  unfold acceptedPulse
  rw [partner]
  rfl

/-- Of a sample, a trim update changes the trim value, its sender, the two counts and the report unit alone. -/
theorem takeSample_skew (d : Int) (p : Part) : (takeSample d p).skew =
    { (p.sampled d).skew with
      trim := (takeSample d p).skew.trim, sender := (takeSample d p).skew.sender, satCount := (takeSample d p).skew.satCount,
      sampleCount := (takeSample d p).skew.sampleCount } := by
  have judged := (judged_onlyReports d p).skew
  rw [takeSample_eq]
  split
  · dsimp only
    rw [trimUpdate_skew, trimMoved_eq]
    dsimp only
    rw [judged]
  · rw [judged]

theorem takeSample_frame (d : Int) (p : Part) :
    takeSample d p = { p with skew := (takeSample d p).skew, report := (takeSample d p).report } := by
  have judged := judged_onlyReports d p
  rw [takeSample_eq]
  split
  · rw [trimUpdate_frame, judged]
    rfl
  · rw [judged]
    rfl

theorem takeSample_getLsbD (d : Int) (p : Part) {g : EventFlag} (other : g ≠ .reportOverflow) (notSaturated : g ≠ .trimSaturated) :
    (takeSample d p).report.flags.getLsbD g.bit = (p.judged d).report.flags.getLsbD g.bit := by
  rw [takeSample_eq]
  split
  · exact trimUpdate_getLsbD _ other notSaturated
  · rfl

/-- The records of a sample: the events of the judgement, and TRIM_SATURATED behind them if it is raised. -/
theorem takeSample_raises {d : Int} {p : Part} (room : p.report.queue.length ≤ 13) :
    let events := (limitKinds p.skew.warn p.skew.fault (p.sampled d).skew.warn (p.sampled d).skew.fault).map (p.sampled d).skewBody
    p.Raises (takeSample d p) events ∨
      p.Raises (takeSample d p) (events ++
        [.skewEvent .trimSaturated (p.sampled d).skew.f (takeSample d p).skew.trim (some d) p.rig.sync.target]) := by
  intro events
  have raises : p.Raises (p.judged d) events := limitEvents_raises (p := p.sampled d) (show p.report.queue.length ≤ 14 by omega)
  have few : events.length ≤ 2 := by
    rw [List.length_map]
    exact limitKinds_length ..
  have length := raises.length
  have only := judged_onlyReports d p
  rw [takeSample_eq]
  split
  · have late := trimUpdate_raises (p := p.judged d) (by omega)
    rw [only.skew, only.rig] at late
    rcases late with silent | saturated
    · have all := raises.trans silent only.now only.take
      rw [List.append_nil] at all
      exact .inl all
    · exact .inr (raises.trans saturated only.now only.take)
  · exact .inl raises

/-- Settles O18: the filter and the limits, then what the trim update leaves of them. -/
theorem skewSampleMovesTheFilter : Obligations.SkewSampleMovesTheFilter := by
  intro x stamp o period rest s running head views state latest near y d f e
  have isValue : sampleValue x stamp o = d := by cases x <;> rfl
  have taken := skewPulseHandover_sample head views state latest near
  rw [isValue] at taken
  generalize isP : s.hw.pulsesUsed x stamp o rest = p at taken
  have frame : takeSample d p = _ := takeSample_frame d p
  have skew : (takeSample d p).skew = _ := takeSample_skew d p
  have warn : (takeSample d p).skew.warn = limitAfter s.hw.skew.warn e y.warnLimit y.hysteresis := by rw [skew, ← isP]; rfl
  have fault : (takeSample d p).skew.fault = limitAfter s.hw.skew.fault e y.faultLimit y.hysteresis := by rw [skew, ← isP]; rfl
  have flags : ∀ g, g ≠ .reportOverflow → g ≠ .trimSaturated → (takeSample d p).report.flags.getLsbD g.bit =
      (s.hw.report.flags.getLsbD g.bit ||
        (!s.hw.skew.warn && (takeSample d p).skew.warn && decide (EventFlag.skewWarn = g)) ||
        (!s.hw.skew.fault && (takeSample d p).skew.fault && decide (EventFlag.skewFault = g))) := by
    intro g other notSaturated
    rw [takeSample_getLsbD d p other notSaturated, warn, fault]
    subst isP
    exact limitEvents_getLsbD _ _ _ _ _ other
  refine ⟨_, whenRunning_eq running taken, rfl, ?_⟩
  simp -zeta only [markChanged_skew, markChanged_report]
  refine ⟨by rw [skew, ← isP]; rfl, by rw [skew, ← isP]; rfl, by rw [skew, ← isP]; rfl, by rw [skew, ← isP]; rfl, ?_, ?_, ?_, ?_, ?_, ?_, ?_, ?_⟩
  · rw [skew, ← isP]
    show ((s.hw.skew.latest.set x.other _).set x _).get x = _
    rw [PerEye.get_set, if_pos rfl]
  · rw [skew, ← isP]
    show ((s.hw.skew.latest.set x.other _).set x _).get x.other = _
    rw [PerEye.get_set, if_neg (Eye.ne_other x), PerEye.get_set, if_pos rfl]
  · rw [warn]
    exact limitAfter_eq_true_iff ..
  · rw [fault]
    exact limitAfter_eq_true_iff ..
  · rw [flags .skewWarn (by decide) (by decide)]
    simp
  · rw [flags .skewFault (by decide) (by decide)]
    simp
  · intro room events
    have isEvents : (limitKinds s.hw.skew.warn s.hw.skew.fault (p.sampled d).skew.warn (p.sampled d).skew.fault).map
        (p.sampled d).skewBody = events.map (fun k => .skewEvent k f s.hw.skew.trim (some d) y.target) := by
      simp only [events, warn, fault]
      subst isP
      rfl
    subst isP
    rcases takeSample_raises (d := d) (p := s.hw.pulsesUsed x stamp o rest) room with ⟨raised, queue, stamps, bodies⟩ | ⟨raised, queue, stamps, bodies⟩
    · exact ⟨raised, queue, stamps, .inl (bodies.trans isEvents)⟩
    · refine ⟨raised, queue, stamps, .inr (bodies.trans ?_)⟩
      rw [← isEvents]
      rfl
  · simp only [markChanged_slots, markChanged_pairs, markChanged_readers, markChanged_req, markChanged_txn, markChanged_rig,
      markChanged_sync, markChanged_streams]
    rw [frame, ← isP]
    exact ⟨rfl, rfl, rfl, rfl, rfl, rfl, rfl, rfl⟩

end Sys2Proof.Machine

/-! SUPPORT. Trim updates: the value, the sender, the saturation count and its flag (R131 to R134, R137). -/

namespace Sys2Proof.Machine

/-! ### The parts of a trim update -/

theorem trimUpdate_sender (p : Part) : (trimUpdate p).skew.sender =
    if trimAfter p = p.skew.trim then p.skew.sender else p.skew.sender.told (trimAfter p) := by
  rw [trimUpdate_skew, trimMoved_eq]

theorem trimMoved_saturated_iff (p : Part) : p.trimMoved.Saturated ↔
    ((trimAfter p = p.rig.sync.trimMin ∨ trimAfter p = p.rig.sync.trimMax) ∧
      256 * p.rig.sync.warnLimit < p.skewError.natAbs) := by
  rw [trimMoved_eq]
  rfl

theorem trimMoved_satCount (p : Part) : p.trimMoved.skew.satCount = p.skew.satCount := by rw [trimMoved_eq]

/-- Away from saturation the count is cleared and the report unit is left (R134). -/
theorem trimUpdate_of_not_saturated {p : Part} (clear : ¬p.trimMoved.Saturated) :
    (trimUpdate p).skew.satCount = 0 ∧ (trimUpdate p).report = p.report := by
  rw [trimUpdate_eq, judgeSaturation_of_not clear]
  exact ⟨rfl, trimMoved_report p⟩

/-- A saturated update counts up to 16 (R134). -/
theorem trimUpdate_satCount {p : Part} (saturated : p.trimMoved.Saturated) :
    (trimUpdate p).skew.satCount = min (p.skew.satCount + 1) 16 := by
  rw [trimUpdate_eq, judgeSaturation_of_saturated saturated, ← trimMoved_satCount p]
  split
  · rw [(skewEvent_onlyReports ..).trans (setFlag_onlyReports ..)]
  · rfl

/-- A saturated update that does not reach the limit raises nothing (R134). -/
theorem trimUpdate_report_of_not_full {p : Part} (saturated : p.trimMoved.Saturated) (notFull : p.skew.satCount ≠ 15) :
    (trimUpdate p).report = p.report := by
  rw [trimUpdate_eq, judgeSaturation_of_saturated saturated, if_neg (by rwa [trimMoved_satCount])]
  exact trimMoved_report p

/-- Reaching the limit sets the flag (R134). -/
theorem trimUpdate_flag_of_full {p : Part} (saturated : p.trimMoved.Saturated) (full : p.skew.satCount = 15) :
    (trimUpdate p).report.flags.getLsbD EventFlag.trimSaturated.bit = true := by
  rw [trimUpdate_eq, judgeSaturation_of_saturated saturated, if_pos (by rwa [trimMoved_satCount]), setFlag_getLsbD]
  simp

/-! ### A sample and the update it makes due -/

/-- Before the divider a sample leaves the trim value alone (R131). -/
theorem takeSample_of_not_due {d : Int} {p : Part} (notDue : p.skew.sampleCount + 1 < p.rig.sync.divider) :
    takeSample d p = p.judged d := (takeSample_eq d p).trans (if_neg (by omega))

/-- At the divider a sample makes an update due and starts the count again (R131). -/
theorem takeSample_of_due {d : Int} {p : Part} (due : p.rig.sync.divider ≤ p.skew.sampleCount + 1) :
    takeSample d p =
      { trimUpdate (p.judged d) with skew := { (trimUpdate (p.judged d)).skew with sampleCount := 0 } } :=
  (takeSample_eq d p).trans (if_pos due)

theorem judged_skew (d : Int) (p : Part) : (p.judged d).skew = p.skew.sampled d p.rig.sync := by
  rw [judged_onlyReports d p]
  rfl

theorem judged_rig (d : Int) (p : Part) : (p.judged d).rig = p.rig := by
  rw [judged_onlyReports d p]
  rfl

/-- The judgement of the limits leaves the saturation flag alone. -/
theorem judged_trimSaturated (d : Int) (p : Part) :
    (p.judged d).report.flags.getLsbD EventFlag.trimSaturated.bit = p.report.flags.getLsbD EventFlag.trimSaturated.bit := by
  show (limitEvents _ _ _ _ (p.sampled d)).report.flags.getLsbD _ = _
  rw [limitEvents_getLsbD _ _ _ _ _ (by decide)]
  simp [Part.sampled]

/-- The judgement raises at most two records. -/
theorem judged_queue_length {d : Int} {p : Part} (room : p.report.queue.length ≤ 13) :
    (p.judged d).report.queue.length ≤ 15 := by
  have raises : p.Raises (p.judged d) _ := limitEvents_raises (p := p.sampled d) (show p.report.queue.length ≤ 14 by omega)
  have few := limitKinds_length p.skew.warn p.skew.fault (p.sampled d).skew.warn (p.sampled d).skew.fault
  have length := raises.length
  rw [List.length_map] at length
  omega

/-- The trim value of an update that is due, from the filtered value and the fault state of the judgement (R132, R133). -/
theorem takeSample_trim {d : Int} {p : Part} (due : p.rig.sync.divider ≤ p.skew.sampleCount + 1) :
    (takeSample d p).skew.trim = trimAfter (p.judged d) := by
  rw [takeSample_of_due due]
  exact trimUpdate_trim _

/-- Settles O19: between updates the judgement alone acts, and an update that is due is followed through its three parts. -/
theorem skewSampleTrims : Obligations.SkewSampleTrims := by
  intro x stamp o period rest s running head views state latest near
  have taken := skewPulseHandover_sample head views state latest near
  generalize isP : s.hw.pulsesUsed x stamp o rest = p at taken
  generalize sampleValue x stamp o = d at taken
  have rig : p.rig = s.hw.rig := by rw [← isP]; rfl
  have report : p.report = s.hw.report := by rw [← isP]; rfl
  have trim : p.skew.trim = s.hw.skew.trim := by rw [← isP]; rfl
  have sender : p.skew.sender = s.hw.skew.sender := by rw [← isP]; rfl
  have sampleCount : p.skew.sampleCount = s.hw.skew.sampleCount := by rw [← isP]; rfl
  have satCount : p.skew.satCount = s.hw.skew.satCount := by rw [← isP]; rfl
  refine ⟨_, whenRunning_eq running taken, ?_⟩
  simp -zeta only [markChanged_skew]
  rw [← rig, ← trim, ← sender, ← sampleCount, ← satCount]
  intro y e0 e gained wanted limited saturated flag
  have before : flag s.hw = p.report.flags.getLsbD EventFlag.trimSaturated.bit := by rw [report]
  have after : flag (markChanged s.hw (takeSample d p)) =
      (takeSample d p).report.flags.getLsbD EventFlag.trimSaturated.bit := rfl
  simp -zeta only [before, after]
  refine ⟨fun notDue => ?_, fun due ordered => ?_⟩
  · rw [takeSample_of_not_due notDue, judged_skew]
    exact ⟨rfl, rfl, rfl, rfl, judged_trimSaturated d p⟩
  have isTrim : (takeSample d p).skew.trim = trimAfter (p.judged d) := takeSample_trim due
  have ofUpdate := takeSample_of_due (d := d) due
  have isSender : (takeSample d p).skew.sender =
      if trimAfter (p.judged d) = p.skew.trim then p.skew.sender else p.skew.sender.told (trimAfter (p.judged d)) := by
    rw [ofUpdate]
    refine (trimUpdate_sender _).trans ?_
    rw [judged_skew]
    rfl
  have error : (p.judged d).skewError = e0 := by
    simp only [e0, y]
    rw [takeSample_skew, ← judged_rig d p, Part.skewError, judged_skew]
    rfl
  have isSaturated : saturated ↔ (p.judged d).trimMoved.Saturated := by
    rw [trimMoved_saturated_iff, judged_rig, error, ← isTrim]
  have counted : (p.judged d).skew.satCount = p.skew.satCount := by
    rw [judged_skew]
    rfl
  have flagOf : (takeSample d p).report = (trimUpdate (p.judged d)).report := by rw [ofUpdate]
  have countOf : (takeSample d p).skew.satCount = (trimUpdate (p.judged d)).skew.satCount := by rw [ofUpdate]
  refine ⟨?_, by rw [ofUpdate], fun same => ?_, fun moved idle => ?_, fun moved busy => ?_, fun clear => ?_, fun sat => ?_,
    fun sat notFull => ?_, fun sat full => ⟨?_, fun room => ?_⟩⟩
  · have fault : (p.judged d).skew.fault = (takeSample d p).skew.fault := by
      rw [judged_skew, takeSample_skew]
      rfl
    have trimBefore : (p.judged d).skew.trim = p.skew.trim := by
      rw [judged_skew]
      rfl
    rw [isTrim, trimAfter, judged_rig, clampTrim_eq _ ordered, limitedStep_eq, error, fault, trimBefore]
    rfl
  · rw [isSender, if_pos (isTrim.symm.trans same)]
  · rw [isSender, if_neg (isTrim ▸ moved), TrimSender.told, if_pos idle, isTrim]
  · rw [isSender, if_neg (isTrim ▸ moved), TrimSender.told, if_neg busy]
  · obtain ⟨count, same⟩ := trimUpdate_of_not_saturated (mt isSaturated.mpr clear)
    rw [countOf, flagOf, same]
    exact ⟨count, judged_trimSaturated d p⟩
  · rw [countOf, trimUpdate_satCount (isSaturated.mp sat), counted]
  · rw [flagOf, trimUpdate_report_of_not_full (isSaturated.mp sat) (by rwa [counted])]
    exact judged_trimSaturated d p
  · rw [flagOf]
    exact trimUpdate_flag_of_full (isSaturated.mp sat) (counted.trans full)
  · have late := judged_queue_length (d := d) (p := p) (by rw [report]; exact room)
    obtain ⟨raised, queue, stamps, bodies⟩ := trimUpdate_raises_of_full (p := p.judged d) (isSaturated.mp sat)
      ((trimMoved_satCount _).trans (counted.trans full)) (by omega)
    obtain ⟨r, rfl, body⟩ := List.map_eq_singleton_iff.mp bodies
    refine ⟨r, ?_, body.trans ?_⟩
    · rw [markChanged_report, flagOf, queue, List.getLast?_append]
      rfl
    · rw [takeSample_skew, isTrim, trimUpdate_trim, judged_skew, judged_rig]
      rfl

end Sys2Proof.Machine

/-! SUPPORT. Capture writes and reads of a capture window (R12 to R19, R28, R30). -/

namespace Sys2Proof.Machine

/-! ### Answers to a request that has just been taken -/

theorem answerAtOnce_entryOf {p : Part} {e : Nat} (q : Request) (cls : ReqClass) (o : Nat) (code : Code)
    (unused : unusedEntry p = some e) :
    answerAtOnce e code (p.taken e (entryOf q cls o)) =
      { p with req := p.req.answered e { entryOf q cls o with code := code, data := p.fillFor q } } :=
  answerAtOnce_taken _ _ unused

theorem fillFor_of_write {p : Part} {q : Request} (write : q.kind = .write) : p.fillFor q = [] :=
  if_neg (by rw [write]; decide)

/-- The row of capture requests names a request that is accepted in a capture window. -/
theorem isCapture_of_accepts {p : Part} {q : Request} {e o : Nat} {x : Eye} {kind : Kind} (accepts : p.Accepts q e (.capture x) o)
    (isKind : q.kind = kind) : isCapture kind p q = true := by
  obtain ⟨base, classified, _⟩ := accepts.cls
  exact (isCapture_iff kind p q).mpr ⟨isKind, x, base, classified⟩

/-- A capture write as the request path hands it over (R148). -/
def Request.captureWrite (q : Request) (e o : Nat) : CaptureWrite :=
  { entry := e, source := q.source, offset := o, length := q.length, data := q.data }

theorem toOwner_captureWrite {q : Request} (e o : Nat) (x : Eye) (p : Part) (write : q.kind = .write) :
    toOwner e q (.capture x) o p = streamWrite x (q.captureWrite e o) p := by
  unfold toOwner
  rw [write]
  rfl

/-- The command of capture writes has the stream judge an accepted one. -/
theorem exec_captureWrite {x : Eye} {q : Request} {e o : Nat} {s : State} {u : Part} (running : s.hw.resetAsserted = false)
    (accepts : s.hw.Accepts q e (.capture x) o) (write : q.kind = .write)
    (judged : streamWrite x (q.captureWrite e o) (s.hw.taken e (entryOf q (.capture x) o)) = u) :
    exec .captureWrite s = .next { s with hw := markChanged s.hw u } :=
  exec_handle running accepts (isCapture_of_accepts accepts write) ((toOwner_captureWrite e o x _ write).trans judged)

/-- Outside OPEN a write is discarded, for a reason that the state gives (R12, R17). -/
theorem streamWrite_of_not_open {x : Eye} {w : CaptureWrite} {p : Part} (closed : (p.stream x).state ≠ .open) :
    streamWrite x w p = discardWrite
      (if (p.stream x).state = .spill then .spill
        else if (p.stream x).state = .between ∧ (p.stream x).completed = true then .overrun else .unframed) w.entry p := by
  unfold streamWrite
  match state : (p.stream x).state with
  | .open => exact absurd state closed
  | .between => cases completed : (p.stream x).completed <;> rfl
  | .off => rfl
  | .waitingSync => rfl
  | .spill => rfl

/-- Settles O25: both answers are given as the request is taken. -/
theorem captureRequestsAnsweredAtOnce : Obligations.CaptureRequestsAnsweredAtOnce := by
  constructor
  · intro x q e o s running accepts read answer counted
    have owner : toOwner e q (.capture x) o (s.hw.taken e (entryOf q (.capture x) o)) =
        streamRead e (s.hw.taken e (entryOf q (.capture x) o)) := by
      unfold toOwner
      rw [read]
    refine exec_handle running accepts (isCapture_of_accepts accepts read) (owner.trans ?_)
    unfold streamRead
    rw [answerAtOnce_entryOf _ _ _ _ accepts.unused]
    rfl
  · intro x q e o s running accepts write closed reason answer counted
    have judged : streamWrite x (q.captureWrite e o) (s.hw.taken e (entryOf q (.capture x) o)) =
        discardWrite reason e (s.hw.taken e (entryOf q (.capture x) o)) :=
      streamWrite_of_not_open (p := s.hw.taken e (entryOf q (.capture x) o)) closed
    refine exec_captureWrite running accepts write (judged.trans ?_)
    unfold discardWrite
    rw [answerAtOnce_entryOf _ _ _ _ accepts.unused, fillFor_of_write write]
    rfl

/-! ### One slot changed twice, and the end of its frame -/

theorem onSlot_onSlot (x : Eye) (i : Nat) (f g : SlotRecord → SlotRecord) (p : Part) :
    (p.onSlot x i f).onSlot x i g = p.onSlot x i (g ∘ f) := by
  simp only [Part.onSlot, Part.onSlots, PerEye.get_set, if_true, PerEye.set_set, List.modify_modify_eq]

/-- A change of a slot is what it makes of that slot's record. -/
theorem onSlot_congr {x : Eye} {i : Nat} {f g : SlotRecord → SlotRecord} {p : Part} (same : f (p.slot x i) = g (p.slot x i)) :
    p.onSlot x i f = p.onSlot x i g := by
  have lists : (p.slots.get x).modify i f = (p.slots.get x).modify i g := by
    refine List.ext_getElem? fun n => ?_
    rw [List.getElem?_modify, List.getElem?_modify]
    by_cases at_i : i = n
    · subst at_i
      cases found : (p.slots.get x)[i]? with
      | none => rfl
      | some r =>
        have record : p.slot x i = r := by simp [Part.slot, List.getD_eq_getElem?_getD, found]
        rw [record] at same
        simp [same]
    · simp [at_i]
  exact congrArg (fun l => { p with slots := p.slots.set x l }) lists

theorem onSlot_of_fixed {x : Eye} {i : Nat} {f : SlotRecord → SlotRecord} {p : Part} (fixed : f (p.slot x i) = p.slot x i) :
    p.onSlot x i f = p := by
  rw [onSlot_congr (g := id) fixed]
  simp only [Part.onSlot, Part.onSlots, List.modify_id, PerEye.set_get]

/-- The notice of the frame's end: the slot's record, and the pair manager where the slot is COMPLETE (R30). -/
theorem endReached_eq (x : Eye) (i : Nat) (p : Part) :
    endReached x i p =
      if (p.slot x i).state = .filling ∧ (p.slot x i).writes = 0 then slotCompleted x i (p.onSlot x i SlotRecord.ended)
      else p.onSlot x i SlotRecord.ended := by
  unfold endReached
  by_cases filling : (p.slot x i).state = .filling
  · rw [if_pos filling]
    by_cases landed : (p.slot x i).writes = 0
    · rw [if_pos landed, if_pos ⟨filling, landed⟩]
      unfold completeLanding
      rw [onSlot_onSlot]
      refine congrArg _ (onSlot_congr ?_)
      simp [SlotRecord.ended, filling, landed]
    · rw [if_neg landed, if_neg (fun both => landed both.2), onSlot_onSlot]
      refine onSlot_congr ?_
      simp [SlotRecord.ended, filling, landed]
  · rw [if_neg filling, if_neg (fun both => filling both.1)]
    exact (onSlot_of_fixed (by simp [SlotRecord.ended, filling])).symm

/-- The write cursor set, and the frame's end where it is reached (R19). -/
theorem settleCursor_eq (x : Eye) (i cursor : Nat) (p : Part) :
    settleCursor x i cursor p =
      let moved := p.onStream x fun c => { c with cursor := cursor }
      if cursor = (p.stream x).geom.frameBytes then
        (if (p.slot x i).state = .filling ∧ (p.slot x i).writes = 0 then slotCompleted x i (moved.onSlot x i SlotRecord.ended)
          else moved.onSlot x i SlotRecord.ended).frameEnded x
      else moved := by
  unfold settleCursor
  dsimp only
  rw [endReached_eq]
  rfl

/-- A slot that a change finds in FILLING holds the changed record after it: only slots of the pool are FILLING. -/
theorem filling_onSlot_iff {x : Eye} {i : Nat} {f : SlotRecord → SlotRecord} {p : Part} (keeps : ∀ r, (f r).state = r.state)
    (Q : SlotRecord → Prop) :
    ((p.onSlot x i f).slot x i).state = .filling ∧ Q ((p.onSlot x i f).slot x i) ↔
      (p.slot x i).state = .filling ∧ Q (f (p.slot x i)) := by
  have after : (p.onSlot x i f).slot x i = ((p.slots.get x)[i]?.map f).getD SlotRecord.free := by
    simp [Part.slot, Part.onSlot, Part.onSlots, List.getD_eq_getElem?_getD]
  have before : p.slot x i = (p.slots.get x)[i]?.getD SlotRecord.free := List.getD_eq_getElem?_getD ..
  rw [after, before]
  cases (p.slots.get x)[i]? with
  | none => simp [SlotRecord.free]
  | some r => simp [keeps]

/-- The same, of a slot whose record has just been changed: one change of its record in all. -/
theorem settleCursor_onSlot {x : Eye} {i cursor : Nat} {f : SlotRecord → SlotRecord} {u : Part}
    (keeps : ∀ r, (f r).state = r.state) :
    settleCursor x i cursor (u.onSlot x i f) =
      let settled : Part := { u with
        streams := u.streams.set x { u.stream x with cursor := cursor }
        slots := u.slots.set x ((u.slots.get x).modify i fun r =>
          if cursor = (u.stream x).geom.frameBytes then (f r).ended else f r) }
      if cursor = (u.stream x).geom.frameBytes then
        (if (u.slot x i).state = .filling ∧ (f (u.slot x i)).writes = 0 then slotCompleted x i settled
          else settled).frameEnded x
      else settled := by
  rw [settleCursor_eq]
  dsimp only
  rw [show ((u.onSlot x i f).stream x).geom.frameBytes = (u.stream x).geom.frameBytes from rfl]
  by_cases reached : cursor = (u.stream x).geom.frameBytes
  · simp only [if_pos reached, filling_onSlot_iff keeps fun r => r.writes = 0]
    rw [show ((u.onSlot x i f).onStream x fun c => { c with cursor := cursor }) =
        (u.onStream x fun c => { c with cursor := cursor }).onSlot x i f from rfl, onSlot_onSlot]
    rfl
  · simp only [if_neg reached]
    rfl

end Sys2Proof.Machine

/-! SUPPORT. Capture writes judged in OPEN: forwarded, misaligned, beyond the frame (R13 to R16, R19). -/

namespace Sys2Proof.Machine

theorem judged_in_open {x : Eye} {i : Nat} {w : CaptureWrite} {p : Part} (state : (p.stream x).state = .open)
    (slot : (p.stream x).currentSlot = some i) : streamWrite x w p = judgeOpen x i w p := by
  unfold streamWrite
  rw [state, slot]

theorem judgeOpen_of_misaligned {x : Eye} {i : Nat} {w : CaptureWrite} {p : Part}
    (misaligned : w.misaligned (p.stream x).geom = true) : judgeOpen x i w p = misalignedWrite x i w p := if_pos misaligned

theorem judgeOpen_of_beyond {x : Eye} {i : Nat} {w : CaptureWrite} {p : Part}
    (aligned : w.misaligned (p.stream x).geom = false) (beyond : (p.stream x).geom.frameBytes ≤ w.offset) :
    judgeOpen x i w p = beyondWrite x i w p := (if_neg (by rw [aligned]; decide)).trans (if_pos beyond)

theorem judgeOpen_of_inside {x : Eye} {i : Nat} {w : CaptureWrite} {p : Part}
    (aligned : w.misaligned (p.stream x).geom = false) (inside : w.offset < (p.stream x).geom.frameBytes) :
    judgeOpen x i w p = insideWrite x i w p := (if_neg (by rw [aligned]; decide)).trans (if_neg (Nat.not_le.mpr inside))

theorem misaligned_eq_false_iff (w : CaptureWrite) (g : Geometry) :
    w.misaligned g = false ↔ (g.hflip = true → w.offset % g.pixelBytes = 0 ∧ (w.offset + w.length) % g.pixelBytes = 0) := by
  simp only [CaptureWrite.misaligned, CaptureWrite.stop, Bool.and_eq_false_imp, Bool.or_eq_false_iff, bne_eq_false_iff_eq]

theorem writeDamage_eq (c o : Nat) :
    writeDamage c o = { gap := decide (c < o), rewrite := decide (o < c), misaligned := false, writeFault := false } := by
  rcases Nat.lt_trichotomy c o with below | rfl | above
  · simp [writeDamage, Damage.ofGap, Damage.none, below, Nat.lt_asymm below]
  · simp [writeDamage, Damage.none]
  · simp [writeDamage, Damage.ofRewrite, Damage.none, above, Nat.lt_asymm above]

theorem union_ofMisaligned (d : Damage) : d.union .ofMisaligned = { d with misaligned := true } := by
  simp [Damage.union, Damage.ofMisaligned, Damage.none]

theorem union_ofGap (d : Damage) : d.union .ofGap = { d with gap := true } := by
  simp [Damage.union, Damage.ofGap, Damage.none]

/-! ### Forwarding -/

theorem countOverrun_taken (g : Geometry) (w : CaptureWrite) (p : Part) (e : Nat) (v : Entry) :
    countOverrun g w (p.taken e v) = (countOverrun g w p).taken e v := by
  unfold countOverrun
  split <;> rfl

theorem countOverrun_eq (g : Geometry) (w : CaptureWrite) (p : Part) :
    countOverrun g w p = { p with report := (countOverrun g w p).report } := by
  unfold countOverrun
  split <;> rfl

theorem countOverrun_report (g : Geometry) (w : CaptureWrite) (p : Part) : (countOverrun g w p).report =
    if g.frameBytes < w.stop then p.report.raised (.discarded .overrun) 1 else p.report := by
  unfold countOverrun
  split <;> rfl

/-- The part once the in-frame part of a write that was taken into entry `e` is forwarded (R14, R15, R101). -/
def Part.forwarded (x : Eye) (i e : Nat) (v : Entry) (w : CaptureWrite) (p : Part) : Part :=
  let pieces := cutPieces (cutOf p x i w) w.data
  let entry : Entry := { v with outstanding := pieces.length, code := w.ownCode (p.stream x).geom }
  { p with
    report := (countOverrun (p.stream x).geom w (raiseBy .clippedBytes (clippedBytes (cutOf p x i w)) p)).report
    slots := p.slots.set x ((p.slots.get x).modify i fun r => { r with writes := r.writes + pieces.length })
    req := if pieces = [] then p.req.answered e entry else p.req.waiting e entry
    txn := if pieces = [] then p.txn else { p.txn with issue := p.txn.issue ++ [pieces] } }

theorem forwardWrite_taken {x : Eye} {i o : Nat} {w : CaptureWrite} {p : Part} (q : Request)
    (unused : unusedEntry p = some w.entry) (write : q.kind = .write) :
    forwardWrite x i w (p.taken w.entry (entryOf q (.capture x) o)) =
      p.forwarded x i w.entry (entryOf q (.capture x) o) w := by
  let counted := countOverrun (p.stream x).geom w (raiseBy .clippedBytes (clippedBytes (cutOf p x i w)) p)
  let pieces := cutPieces (cutOf p x i w) w.data
  have steps : forwardWrite x i w (p.taken w.entry (entryOf q (.capture x) o)) =
      if pieces.isEmpty then
        answerAtOnce w.entry (w.ownCode (p.stream x).geom) (counted.taken w.entry (entryOf q (.capture x) o))
      else handOn w.entry (w.ownCode (p.stream x).geom) [] pieces
        ((countWrites x i pieces.length counted).taken w.entry (entryOf q (.capture x) o)) := by
    show _ = if pieces.isEmpty then _ else handOn _ _ _ _
      (countWrites x i pieces.length (counted.taken w.entry (entryOf q (.capture x) o)))
    rw [show counted.taken w.entry (entryOf q (.capture x) o) = _ from (countOverrun_taken ..).symm]
    rfl
  have isCounted : counted = { p with report := counted.report } := countOverrun_eq ..
  have stillUnused : unusedEntry counted = some w.entry := by
    rw [isCounted]
    exact unused
  rw [steps]
  unfold Part.forwarded
  by_cases nothing : pieces = []
  · have same : p.slots.set x ((p.slots.get x).modify i fun r => { r with writes := r.writes + 0 }) = p.slots := by
      rw [show (fun r : SlotRecord => { r with writes := r.writes + 0 }) = id from rfl, List.modify_id, PerEye.set_get]
    rw [answerAtOnce_entryOf _ _ _ _ stillUnused, fillFor_of_write write]
    simp only [show cutPieces (cutOf p x i w) w.data = [] from nothing, nothing, List.isEmpty_nil, if_true, List.length_nil, same]
    rw [isCounted]
    rfl
  · rw [if_neg (by simpa using nothing), handOn_taken (p := countWrites x i pieces.length counted) _ _ _ _ stillUnused]
    simp only [show cutPieces (cutOf p x i w) w.data ≠ [] from nothing, if_false]
    rw [isCounted]
    rfl

/-- Settles O26: an aligned write that starts inside the frame is forwarded, then the cursor is settled. -/
theorem captureWritesInOpenAreForwarded : Obligations.CaptureWritesInOpenAreForwarded := by
  intro x q e o i s running accepts write state slot ctx g frame inside cursor aligned starts cut pieces damage write' entry
    clipped counted settled complete
  let w := q.captureWrite e o
  let p := s.hw.taken e (entryOf q (.capture x) o)
  have judged : streamWrite x w p =
      settleCursor x i cursor (forwardWrite x i w (p.onSlot x i (SlotRecord.addDamage (writeDamage ctx.cursor o)))) :=
    (judged_in_open (p := p) state slot).trans
      (judgeOpen_of_inside (p := p) ((misaligned_eq_false_iff w g).mpr aligned) starts)
  have forwards := forwardWrite_taken (x := x) (i := i) (o := o) (w := w)
    (p := s.hw.onSlot x i (SlotRecord.addDamage (writeDamage ctx.cursor o))) q accepts.unused write
  refine exec_captureWrite running accepts write (judged.trans ?_)
  let handed : Part := { s.hw with
    report := counted.report
    req := if pieces = [] then s.hw.req.answered e entry else s.hw.req.waiting e entry
    txn := if pieces = [] then s.hw.txn else { s.hw.txn with issue := s.hw.txn.issue ++ [pieces] } }
  have isCounted : counted = { s.hw with report := counted.report } := countOverrun_eq g w clipped
  have forwarded : forwardWrite x i w (p.onSlot x i (SlotRecord.addDamage (writeDamage ctx.cursor o))) =
      handed.onSlot x i write' := by
    have both : (fun r : SlotRecord => { r with writes := r.writes + pieces.length }) ∘
        SlotRecord.addDamage (writeDamage ctx.cursor o) = write' := by
      rw [writeDamage_eq]
      rfl
    refine forwards.trans ?_
    rw [← both, ← onSlot_onSlot]
    refine congrArg (fun u : ReportUnit => { (handed.onSlot x i (SlotRecord.addDamage (writeDamage ctx.cursor o))).onSlot x i
      (fun r => { r with writes := r.writes + pieces.length }) with report := u }) ?_
    exact (countOverrun_report ..).trans (countOverrun_report g w clipped).symm
  have isSettled : settled = { handed with
      streams := s.hw.streams.set x { ctx with cursor := cursor }
      slots := s.hw.slots.set x
        ((s.hw.slots.get x).modify i fun r => if cursor = frame then (write' r).ended else write' r) } :=
    congrArg (fun c : Part => { c with
      streams := settled.streams, slots := settled.slots, req := settled.req, txn := settled.txn }) isCounted
  have isComplete : ((handed.slot x i).state = .filling ∧ (write' (handed.slot x i)).writes = 0) ↔ complete := by
    show (s.hw.slot x i).state = .filling ∧ (s.hw.slot x i).writes + pieces.length = 0 ↔ _
    rw [Nat.add_eq_zero_iff, List.length_eq_zero_iff]
  rw [forwarded, settleCursor_onSlot (f := write') (u := handed) (fun _ => rfl), isSettled]
  simp only [isComplete]
  rfl

/-! ### Writes that are not forwarded -/

/-- A write answered at once after its slot is marked: the mark and the cursor are settled together (R15, R16, R19). -/
theorem settleCursor_answered {x : Eye} {i e o cursor : Nat} {q : Request} {p : Part} (code : Code) (counter : Counter)
    {d : Damage} {mark : SlotRecord → SlotRecord} (marks : SlotRecord.addDamage d = mark) (unused : unusedEntry p = some e)
    (write : q.kind = .write) :
    settleCursor x i cursor (raise counter (answerAtOnce e code
        ((p.taken e (entryOf q (.capture x) o)).onSlot x i (SlotRecord.addDamage d)))) =
      let settled : Part := { raise counter p with
        streams := p.streams.set x { p.stream x with cursor := cursor }
        slots := p.slots.set x ((p.slots.get x).modify i fun r =>
          if cursor = (p.stream x).geom.frameBytes then (mark r).ended else mark r)
        req := p.req.answered e { entryOf q (.capture x) o with code := code } }
      if cursor = (p.stream x).geom.frameBytes then
        (if (p.slot x i).state = .filling ∧ (p.slot x i).writes = 0 then slotCompleted x i settled
          else settled).frameEnded x
      else settled := by
  have answered := answerAtOnce_entryOf (p := p.onSlot x i (SlotRecord.addDamage d)) q (.capture x) o code unused
  rw [fillFor_of_write write] at answered
  have handed : raise counter (answerAtOnce e code
        ((p.taken e (entryOf q (.capture x) o)).onSlot x i (SlotRecord.addDamage d))) =
      ({ raise counter p with req := p.req.answered e { entryOf q (.capture x) o with code := code } } : Part).onSlot x i
        (SlotRecord.addDamage d) := congrArg (raise counter) answered
  rw [handed, settleCursor_onSlot (f := SlotRecord.addDamage d) (fun _ => rfl), marks]
  subst marks
  rfl

/-- Settles O27: a misaligned write, and an aligned one beyond the frame. -/
theorem captureWritesThatAreNotForwarded : Obligations.CaptureWritesThatAreNotForwarded := by
  constructor
  · intro x q e o i s running accepts write state slot ctx g cursor flipped misaligned mark answer counted settled complete
    have fails : (q.captureWrite e o).misaligned g = true := by
      by_contra fits
      exact misaligned ((misaligned_eq_false_iff (q.captureWrite e o) g).mp (by simpa using fits) flipped)
    have judged := (judged_in_open (p := s.hw.taken e (entryOf q (.capture x) o)) state slot).trans
      (judgeOpen_of_misaligned (i := i) fails)
    have marks : SlotRecord.addDamage .ofMisaligned = mark := funext fun r => by
      simp only [mark, SlotRecord.addDamage, union_ofMisaligned]
    exact exec_captureWrite running accepts write
      (judged.trans (settleCursor_answered .rejected .rejected marks accepts.unused write))
  · intro x q e o i s running accepts write state slot g aligned beyond mark answer counted settled complete
    have fits : (q.captureWrite e o).misaligned g = false := (misaligned_eq_false_iff (q.captureWrite e o) g).mpr aligned
    have judged := (judged_in_open (p := s.hw.taken e (entryOf q (.capture x) o)) state slot).trans
      (judgeOpen_of_beyond (i := i) fits beyond)
    have marks : SlotRecord.addDamage .ofGap = mark := funext fun r => by
      simp only [mark, SlotRecord.addDamage, union_ofGap]
    refine exec_captureWrite running accepts write
      (judged.trans ((settleCursor_answered .discarded (.discarded .overrun) marks accepts.unused write).trans ?_))
    simp only [show (s.hw.taken e (entryOf q (.capture x) o)).stream x = s.hw.stream x from rfl, if_true]
    rfl

end Sys2Proof.Machine

/-! SUPPORT. The mapper over a whole frame: lines and bytes keep apart, and stay inside the slot (R98 to R104). -/

namespace Sys2Proof.Machine

/-! ### What the checks of a geometry give -/

theorem positive_of_inRange {g : Geometry} (range : geometryInRange g = true) : 0 < g.width ∧ 0 < g.pixelBytes := by
  simp only [geometryInRange, Bool.and_eq_true, decide_eq_true_eq] at range
  omega

theorem lineBytes_pos {g : Geometry} (range : geometryInRange g = true) : 0 < g.lineBytes :=
  Nat.mul_pos (positive_of_inRange range).1 (positive_of_inRange range).2

theorem lineBytes_le_pitch {g : Geometry} (fits : geometryFits g = true) : g.lineBytes ≤ g.pitch := by
  simp only [geometryFits, Bool.and_eq_true, decide_eq_true_eq] at fits
  exact fits.1.2

/-! ### Lines -/

/-- A line that is not clipped keeps its place in a margin, or takes its shifted place inside the band (R99, R100). -/
theorem physicalLine_eq_some_iff (g : Geometry) (l line : Nat) :
    physicalLine g l = some line ↔
      ((correctedLine g l < g.top ∨ g.lines ≤ correctedLine g l + g.bottom) ∧ line = correctedLine g l) ∨
      ((g.top ≤ correctedLine g l ∧ correctedLine g l + g.bottom < g.lines) ∧
        (line : Int) = correctedLine g l + g.shift ∧ g.top ≤ line ∧ line + g.bottom < g.lines) := by
  by_cases margin : isMargin g (correctedLine g l) = true
  · rw [physicalLine_of_margin margin, Option.some_inj]
    rw [isMargin_iff] at margin
    omega
  · have band := margin
    rw [isMargin_iff] at band
    by_cases inside : inBand g (targetLine g (correctedLine g l)) = true
    · have within := (inBand_iff g _).mp inside
      unfold targetLine at within
      rw [physicalLine_of_target (target := (targetLine g (correctedLine g l)).toNat) margin
        (by unfold targetLine; omega) (by rw [Int.toNat_of_nonneg (by unfold targetLine; omega)]; exact inside), Option.some_inj]
      unfold targetLine
      omega
    · rw [physicalLine_of_outside margin inside]
      rw [inBand_iff, targetLine] at inside
      simp only [reduceCtorEq, false_iff]
      omega

/-- No two lines of a frame go to one line (R98 to R100). -/
theorem physicalLine_injective {g : Geometry} {l m line : Nat} (inFrame : l < g.lines) (inFrame' : m < g.lines)
    (first : physicalLine g l = some line) (second : physicalLine g m = some line) : l = m := by
  rw [physicalLine_eq_some_iff] at first second
  have corrected : correctedLine g l = correctedLine g m := by omega
  unfold correctedLine at corrected
  split at corrected <;> omega

theorem physicalLine_lt {g : Geometry} {l line : Nat} (inFrame : l < g.lines) (goes : physicalLine g l = some line) :
    line < g.lines := by
  rw [physicalLine_eq_some_iff] at goes
  have corrected : correctedLine g l < g.lines := by
    unfold correctedLine
    split <;> omega
  omega

/-! ### Bytes of a line -/

/-- Mirroring a line turns the order of its pixels and keeps the bytes inside each (R102). -/
theorem physicalByte_mirrored {g : Geometry} (range : geometryInRange g = true) (flipped : g.hflip = true) (b : Nat) :
    physicalByte g b / g.pixelBytes = g.width - 1 - b / g.pixelBytes ∧ physicalByte g b % g.pixelBytes = b % g.pixelBytes := by
  have pixel := (positive_of_inRange range).2
  have rest := Nat.mod_lt b pixel
  unfold physicalByte
  rw [if_pos flipped, Nat.add_comm, Nat.add_mul_div_right _ _ pixel, Nat.div_eq_of_lt rest, Nat.zero_add, Nat.add_mul_mod_self_right,
    Nat.mod_mod]
  exact ⟨rfl, rfl⟩

theorem physicalByte_lt {g : Geometry} (range : geometryInRange g = true) {b : Nat} (inLine : b < g.lineBytes) :
    physicalByte g b < g.lineBytes := by
  cases flipped : g.hflip with
  | false => simpa [physicalByte, flipped] using inLine
  | true =>
    have place := (physicalByte_mirrored range flipped b).1
    have positive := positive_of_inRange range
    refine (Nat.div_lt_iff_lt_mul positive.2).mp ?_
    rw [place]
    exact Nat.lt_of_le_of_lt (Nat.sub_le ..) (Nat.sub_one_lt_of_lt positive.1)

/-- No two bytes of a line go to one byte (R102). -/
theorem physicalByte_injective {g : Geometry} (range : geometryInRange g = true) {b c : Nat} (inLine : b < g.lineBytes)
    (inLine' : c < g.lineBytes) (same : physicalByte g b = physicalByte g c) : b = c := by
  cases flipped : g.hflip with
  | false => simpa [physicalByte, flipped] using same
  | true =>
    have pixel := (positive_of_inRange range).2
    obtain ⟨pixelB, byteB⟩ := physicalByte_mirrored range flipped b
    obtain ⟨pixelC, byteC⟩ := physicalByte_mirrored range flipped c
    have insideB : b / g.pixelBytes < g.width := (Nat.div_lt_iff_lt_mul pixel).mpr inLine
    have insideC : c / g.pixelBytes < g.width := (Nat.div_lt_iff_lt_mul pixel).mpr inLine'
    rw [same] at pixelB byteB
    have pixels : b / g.pixelBytes = c / g.pixelBytes := by omega
    rw [← Nat.div_add_mod b g.pixelBytes, ← Nat.div_add_mod c g.pixelBytes, pixels, ← byteB, byteC]

/-! ### Bytes of a frame -/

/-- A byte that has an address has a line, and stands in it at its mirrored place (R97, R103). -/
theorem physicalAddress_eq_some_iff (g : Geometry) (base o a : Nat) :
    physicalAddress g base o = some a ↔
      ∃ line, physicalLine g (o / g.lineBytes) = some line ∧ a = base + line * g.pitch + physicalByte g (o % g.lineBytes) := by
  unfold physicalAddress
  cases physicalLine g (o / g.lineBytes) with
  | none => simp
  | some line => simp [eq_comm]

/-- Places in lines of one pitch that agree are one place. -/
theorem place_unique {pitch line line' byte byte' : Nat} (inside : byte < pitch) (inside' : byte' < pitch)
    (same : line * pitch + byte = line' * pitch + byte') : line = line' ∧ byte = byte' := by
  have bytes := congrArg (· % pitch) same
  have lines := congrArg (· / pitch) same
  simp only [Nat.mul_add_mod_self_right, Nat.mod_eq_of_lt inside, Nat.mod_eq_of_lt inside'] at bytes
  simp only [Nat.mul_comm _ pitch, Nat.mul_add_div (Nat.lt_of_le_of_lt (Nat.zero_le _) inside), Nat.div_eq_of_lt inside,
    Nat.div_eq_of_lt inside', Nat.add_zero] at lines
  exact ⟨lines, bytes⟩

/-- Settles O30: lines and bytes are found again from the address. -/
theorem mappedBytesAreDistinctAndInside : Obligations.MappedBytesAreDistinctAndInside := by
  intro g base o1 o2 a range fits _ inFrame1 inFrame2 goes
  have positive := lineBytes_pos range
  have wide := lineBytes_le_pitch fits
  have line_lt : ∀ o, o < g.frameBytes → o / g.lineBytes < g.lines := fun o inFrame =>
    (Nat.div_lt_iff_lt_mul positive).mpr (by rwa [Nat.mul_comm])
  have byte_lt : ∀ o, physicalByte g (o % g.lineBytes) < g.pitch := fun o =>
    Nat.lt_of_lt_of_le (physicalByte_lt range (Nat.mod_lt o positive)) wide
  obtain ⟨line, isLine, rfl⟩ := (physicalAddress_eq_some_iff ..).mp goes
  have lineInside := physicalLine_lt (line_lt o1 inFrame1) isLine
  have byteInside := byte_lt o1
  refine ⟨by omega, ?_, fun goes' => ?_⟩
  · have room : (line + 1) * g.pitch ≤ g.pitch * g.lines := by
      rw [Nat.mul_comm]
      exact Nat.mul_le_mul_left _ lineInside
    rw [Nat.add_mul] at room
    omega
  · obtain ⟨line', isLine', same⟩ := (physicalAddress_eq_some_iff ..).mp goes'
    obtain ⟨rfl, bytes⟩ := place_unique (line := line) (line' := line') byteInside (byte_lt o2) (by omega)
    have lines := physicalLine_injective (line_lt o1 inFrame1) (line_lt o2 inFrame2) isLine isLine'
    have places := physicalByte_injective range (Nat.mod_lt o1 positive) (Nat.mod_lt o2 positive) bytes
    rw [← Nat.div_add_mod o1 g.lineBytes, ← Nat.div_add_mod o2 g.lineBytes, lines, places]

end Sys2Proof.Machine

/-! SUPPORT. Cutting a run at the line boundaries, and the pieces of a cut request (R101, R106). -/

namespace Sys2Proof.Machine

/-! ### Cutting a run -/

/-- The cut is made of nonempty parts within the run, none of which crosses a line boundary (R106). -/
theorem cutRun_part {lb : Nat} (positive : 0 < lb) {fuel o n : Nat} {part : Nat × Nat} (isPart : part ∈ cutRun lb fuel o n) :
    0 < part.2 ∧ o ≤ part.1 ∧ part.1 + part.2 ≤ o + n ∧ part.1 % lb + part.2 ≤ lb := by
  induction fuel generalizing o n with
  | zero => cases isPart
  | succ fuel ih =>
    have place := Nat.mod_lt o positive
    unfold cutRun at isPart
    dsimp only at isPart
    split at isPart
    · cases isPart
    · rcases List.mem_cons.mp isPart with rfl | later
      · dsimp only
        omega
      · obtain ⟨nonempty, after, inside, inLine⟩ := ih later
        omega

/-- Every byte of the run stands in a part, as long as the fuel lasts. -/
theorem cutRun_covers {lb : Nat} (positive : 0 < lb) {fuel o n j : Nat} (enough : n ≤ fuel) (after : o ≤ j) (before : j < o + n) :
    ∃ part ∈ cutRun lb fuel o n, part.1 ≤ j ∧ j < part.1 + part.2 := by
  induction fuel generalizing o n with
  | zero => omega
  | succ fuel ih =>
    have place := Nat.mod_lt o positive
    unfold cutRun
    dsimp only
    rw [if_neg (by omega)]
    by_cases inFirst : j < o + min n (lb - o % lb)
    · exact ⟨_, List.mem_cons_self, after, inFirst⟩
    · obtain ⟨part, isPart, inside⟩ := ih (o := o + min n (lb - o % lb)) (n := n - min n (lb - o % lb))
        (by omega) (by omega) (by omega)
      exact ⟨part, List.mem_cons_of_mem _ isPart, inside⟩

/-- The parts have the length of the run in all. -/
theorem cutRun_sum {lb : Nat} (positive : 0 < lb) {fuel o n : Nat} (enough : n ≤ fuel) :
    ((cutRun lb fuel o n).map Prod.snd).sum = n := by
  induction fuel generalizing o n with
  | zero =>
    have none_left : n = 0 := by omega
    subst none_left
    rfl
  | succ fuel ih =>
    have place := Nat.mod_lt o positive
    unfold cutRun
    dsimp only
    split
    · simp only [List.map_nil, List.sum_nil]
      omega
    · rw [List.map_cons, List.sum_cons, ih (by omega)]
      omega

/-- Where a line is whole pixels and the run begins and ends at pixels, so does every part (R16, R106). -/
theorem cutRun_aligned {lb pb : Nat} (whole : pb ∣ lb) {fuel o n : Nat} (starts : pb ∣ o) (ends : pb ∣ o + n)
    {part : Nat × Nat} (isPart : part ∈ cutRun lb fuel o n) : pb ∣ part.1 ∧ pb ∣ part.2 := by
  induction fuel generalizing o n with
  | zero => cases isPart
  | succ fuel ih =>
    have length : pb ∣ n := (Nat.dvd_add_right starts).mp ends
    have rest : pb ∣ lb - o % lb := Nat.dvd_sub whole ((Nat.dvd_mod_iff whole).mpr starts)
    have first : pb ∣ min n (lb - o % lb) := by
      rcases Nat.le_total n (lb - o % lb) with short | long
      · rwa [Nat.min_eq_left short]
      · rwa [Nat.min_eq_right long]
    unfold cutRun at isPart
    dsimp only at isPart
    split at isPart
    · cases isPart
    · rcases List.mem_cons.mp isPart with rfl | later
      · exact ⟨starts, first⟩
      · refine ih (Nat.dvd_add starts first) ?_ later
        rw [Nat.add_assoc]
        exact Nat.dvd_add starts (Nat.dvd_add first (Nat.dvd_sub length first))

/-- A byte that lies `t` further on in the same line. -/
theorem line_of_add {lb o t : Nat} (inLine : o % lb + t < lb) : (o + t) / lb = o / lb ∧ (o + t) % lb = o % lb + t := by
  have split := Nat.div_add_mod o lb
  have sum : o + t = (o % lb + t) + lb * (o / lb) := by omega
  rw [sum, Nat.add_mul_div_left _ _ (by omega), Nat.div_eq_of_lt inLine, Nat.add_mul_mod_self_left, Nat.mod_eq_of_lt inLine]
  exact ⟨Nat.zero_add _, rfl⟩

/-! ### Pixels in reverse order -/

theorem reversePixels_length (pb : Nat) (data : List Byte) : (reversePixels pb data).length = data.length := by
  simp [reversePixels]

/-- Byte `r` of pixel `n − 1 − u` of the reversed data is byte `r` of pixel `u` (R106). -/
theorem reversePixels_getElem? {pb u r n : Nat} {data : List Byte} (pixel : r < pb) (inside : u < n) (length : data.length = n * pb) :
    (reversePixels pb data)[(n - 1 - u) * pb + r]? = data[u * pb + r]? := by
  have positive : 0 < pb := by omega
  have room : ∀ v, v < n → v * pb + r < data.length := fun v within => by
    have := Nat.mul_le_mul_right pb (show v + 1 ≤ n from within)
    rw [Nat.add_mul] at this
    omega
  have pixels : data.length / pb = n := by rw [length, Nat.mul_div_cancel _ positive]
  have quotient : ((n - 1 - u) * pb + r) / pb = n - 1 - u := by
    rw [Nat.add_comm, Nat.add_mul_div_right _ _ positive, Nat.div_eq_of_lt pixel, Nat.zero_add]
  have remainder : ((n - 1 - u) * pb + r) % pb = r := by
    rw [Nat.add_comm, Nat.add_mul_mod_self_right, Nat.mod_eq_of_lt pixel]
  unfold reversePixels
  rw [List.getElem?_map, List.getElem?_range (room _ (by omega)), Option.map_some, quotient, remainder, pixels,
    show n - 1 - (n - 1 - u) = u by omega, List.getD_eq_getElem?_getD, List.getElem?_eq_getElem (room u inside)]
  rfl

/-! ### The pieces of a cut request -/

theorem pieceData_length {c : CutRequest} {data : List Byte} {part : Nat × Nat} (whole : part.1 - c.offset + part.2 ≤ data.length) :
    (pieceData c data part).length = part.2 := by
  unfold pieceData
  dsimp only
  split
  · rw [reversePixels_length, List.length_take, List.length_drop]
    omega
  · rw [List.length_take, List.length_drop]
    omega

/-- The pieces and the clipped parts together make up a cut, part by part (R101). -/
theorem pieces_and_clipped (c : CutRequest) (data : List Byte) (parts : List (Nat × Nat)) :
    ((parts.filterMap (cutPortion c data)).map (·.length)).sum +
        ((parts.filter fun part => (physicalLine c.geom (part.1 / c.geom.lineBytes)).isNone).map Prod.snd).sum =
      (parts.map Prod.snd).sum := by
  induction parts with
  | nil => rfl
  | cons part parts ih =>
    cases line : physicalLine c.geom (part.1 / c.geom.lineBytes) with
    | none =>
      simp only [List.filterMap_cons, cutPortion, line, Option.map_none, List.filter_cons, Option.isNone_none, if_true,
        List.map_cons, List.sum_cons]
      rw [← ih]
      omega
    | some target =>
      simp only [List.filterMap_cons, cutPortion, line, Option.map_some, List.filter_cons, Option.isNone_some,
        Bool.false_eq_true, if_false, List.map_cons, List.sum_cons]
      rw [← ih]
      omega

/-- Within a portion of a line, the byte `t` of the portion stands in its piece where the mapper puts it (R102, R106). -/
theorem pieceData_place {c : CutRequest} {data : List Byte} {part : Nat × Nat} (range : geometryInRange c.geom = true)
    (inLine : part.1 % c.geom.lineBytes + part.2 ≤ c.geom.lineBytes)
    (whole : part.1 - c.offset + part.2 ≤ data.length)
    (aligned : c.geom.hflip = true → c.geom.pixelBytes ∣ part.1 ∧ c.geom.pixelBytes ∣ part.2) {t : Nat} (inside : t < part.2) :
    ∃ u < part.2, physicalByte c.geom (part.1 % c.geom.lineBytes + t) = pieceStart c.geom part + u ∧
      (pieceData c data part)[u]? = data[part.1 - c.offset + t]? := by
  have bytes : ∀ v < part.2, ((data.drop (part.1 - c.offset)).take part.2)[v]? = data[part.1 - c.offset + v]? := fun v within => by
    rw [List.getElem?_take_of_lt within, List.getElem?_drop]
  cases flipped : c.geom.hflip with
  | false =>
    refine ⟨t, inside, ?_, ?_⟩
    · simp [physicalByte, pieceStart, flipped]
    · simp only [pieceData, flipped, Bool.false_eq_true, if_false]
      exact bytes t inside
  | true =>
    obtain ⟨_, pixel⟩ := positive_of_inRange range
    obtain ⟨starts, n, length⟩ := aligned flipped
    obtain ⟨m, place⟩ : c.geom.pixelBytes ∣ part.1 % c.geom.lineBytes := (Nat.dvd_mod_iff (Nat.dvd_mul_left ..)).mpr starts
    have tPixel : t / c.geom.pixelBytes < n := (Nat.div_lt_iff_lt_mul pixel).mpr (by rw [Nat.mul_comm, ← length]; exact inside)
    have tByte := Nat.mod_lt t pixel
    have tSplit := Nat.div_add_mod' t c.geom.pixelBytes
    have fits : m + n ≤ c.geom.width := by
      refine Nat.le_of_mul_le_mul_left ?_ pixel
      rw [Nat.mul_add, ← place, ← length, Nat.mul_comm _ c.geom.width]
      exact inLine
    have quotient : (c.geom.pixelBytes * m + t) / c.geom.pixelBytes = m + t / c.geom.pixelBytes := Nat.mul_add_div pixel m t
    have remainder : (c.geom.pixelBytes * m + t) % c.geom.pixelBytes = t % c.geom.pixelBytes := Nat.mul_add_mod ..
    generalize t / c.geom.pixelBytes = v at *
    generalize t % c.geom.pixelBytes = r at *
    have pixels : c.geom.width - 1 - (m + v) = c.geom.width - (m + n) + (n - 1 - v) := by
      omega
    have order : (n - 1 - v + 1) * c.geom.pixelBytes ≤ n * c.geom.pixelBytes :=
      Nat.mul_le_mul_right _ (by omega)
    rw [Nat.add_mul] at order
    have cut : ((data.drop (part.1 - c.offset)).take part.2).length = n * c.geom.pixelBytes := by
      rw [List.length_take, List.length_drop, Nat.mul_comm, ← length]
      omega
    refine ⟨(n - 1 - v) * c.geom.pixelBytes + r, ?_, ?_, ?_⟩
    · rw [length, Nat.mul_comm c.geom.pixelBytes n]
      omega
    · have start : pieceStart c.geom part = (c.geom.width - (m + n)) * c.geom.pixelBytes := by
        simp only [pieceStart, flipped, if_true]
        rw [place, length, ← Nat.mul_add, Nat.mul_comm _ (m + n)]
        exact (Nat.sub_mul ..).symm
      unfold physicalByte
      rw [if_pos flipped, place, quotient, remainder, start, pixels, Nat.add_mul, Nat.add_assoc]
    · simp only [pieceData, flipped, if_true]
      rw [reversePixels_getElem? tByte tPixel cut, tSplit]
      exact bytes t inside

/-- Settles O31: every byte stands in the portion that covers it, and each portion is a piece or is clipped. -/
theorem piecesCarryEveryByteToItsAddress : Obligations.PiecesCarryEveryByteToItsAddress := by
  intro c data range _ _ _ carries aligned
  have positive := lineBytes_pos range
  have bounds : ∀ part ∈ c.portions, _ := fun part isPart => cutRun_part positive isPart
  have length : ∀ part ∈ c.portions, (pieceData c data part).length = part.2 := fun part isPart => by
    have := bounds part isPart
    exact pieceData_length (by omega)
  refine ⟨fun i a inside goes => ?_, ?_, fun k isPiece => ?_⟩
  · obtain ⟨part, isPart, before, after⟩ := cutRun_covers positive (Nat.le_refl c.length) (Nat.le_add_right c.offset i)
      (show c.offset + i < c.offset + c.length by omega)
    obtain ⟨nonempty, first, last, inLine⟩ := bounds part isPart
    obtain ⟨line, isLine, rfl⟩ := (physicalAddress_eq_some_iff ..).mp goes
    have cutAligned : c.geom.hflip = true → c.geom.pixelBytes ∣ part.1 ∧ c.geom.pixelBytes ∣ part.2 := fun flipped =>
      cutRun_aligned (Nat.dvd_mul_left ..) (Nat.dvd_of_mod_eq_zero (aligned flipped).1)
        (Nat.dvd_of_mod_eq_zero (aligned flipped).2) isPart
    obtain ⟨u, inPiece, place, byte⟩ := pieceData_place (data := data) range inLine (by omega) cutAligned
      (show c.offset + i - part.1 < part.2 by omega)
    obtain ⟨sameLine, sameByte⟩ := line_of_add (lb := c.geom.lineBytes) (o := part.1) (t := c.offset + i - part.1) (by omega)
    rw [show part.1 + (c.offset + i - part.1) = c.offset + i by omega] at sameLine sameByte
    rw [sameLine] at isLine
    refine ⟨_, List.mem_filterMap.mpr ⟨part, isPart, by rw [cutPortion, isLine]; rfl⟩, ?_⟩
    dsimp only
    rw [sameByte, place]
    refine ⟨by omega, by omega, ?_⟩
    rw [show c.base + line * c.geom.pitch + (pieceStart c.geom part + u) -
      (c.base + line * c.geom.pitch + pieceStart c.geom part) = u by omega, byte]
    congr 1
    omega
  · exact (pieces_and_clipped c data c.portions).trans (cutRun_sum positive (Nat.le_refl _))
  · obtain ⟨part, isPart, cut⟩ := List.mem_filterMap.mp isPiece
    obtain ⟨line, _, rfl⟩ := Option.map_eq_some_iff.mp cut
    exact ⟨rfl, length part isPart, rfl, rfl⟩

end Sys2Proof.Machine

/-! SUPPORT. The issue arbiter: what it issues next, and the tag that is taken (R160 to R162). -/

namespace Sys2Proof.Machine

/-! ### Tags -/

theorem freeTag_eq_some_iff (u : TxnUnit) (m : Nat) :
    freeTag u = some m ↔ u.tags[m]? = some none ∧ ∀ n, n < m → u.tags[n]? ≠ some none :=
  firstIndex_isNone_eq_some_iff u.tags m

theorem freeTag_eq_none_iff (u : TxnUnit) : freeTag u = none ↔ ∀ n : Nat, u.tags[n]? ≠ some none := by
  unfold freeTag
  rw [firstIndex_eq_none_iff]
  constructor
  · intro used n free
    exact absurd (used none (List.mem_of_getElem? free)) (by simp)
  · intro notFree v listed
    obtain ⟨n, found⟩ := List.mem_iff_getElem?.mp listed
    cases v with
    | none => exact absurd found (notFree n)
    | some _ => rfl

theorem isFree_iff (u : TxnUnit) (t : Nat) : u.isFree t = true ↔ u.tags[t]? = some none := by simp [TxnUnit.isFree]

theorem tagToTake_of_unclaimed {u : TxnUnit} (unclaimed : u.claim = none) : tagToTake u = freeTag u := by
  unfold tagToTake
  rw [unclaimed]

theorem tagToTake_of_claim {u : TxnUnit} {t : Nat} (claimed : u.claim = some t) (free : u.tags[t]? = some none) :
    tagToTake u = some t := by
  unfold tagToTake
  rw [claimed]
  exact if_pos ((isFree_iff u t).mpr free)

/-- With no tag FREE no tag can be taken, whatever was waited for. -/
theorem tagToTake_of_none_free {u : TxnUnit} (used : ∀ n : Nat, u.tags[n]? ≠ some none) : tagToTake u = none := by
  have noFree := (freeTag_eq_none_iff u).mpr used
  unfold tagToTake
  cases u.claim with
  | none => exact noFree
  | some t => exact (if_neg fun free => used t ((isFree_iff u t).mp free)).trans noFree

/-- A request waits for a tag where the output is empty, something is next to be issued and no tag is FREE (R162). -/
theorem waitsForTag_iff (u : TxnUnit) :
    waitsForTag u = true ↔ u.output = none ∧ nextChoice u ≠ none ∧ ∀ n : Nat, u.tags[n]? ≠ some none := by
  rw [← freeTag_eq_none_iff]
  simp [waitsForTag, Option.isSome_iff_ne_none, and_assoc]

theorem tagFreed_of_waiting {u : TxnUnit} (t : Nat) (waits : waitsForTag u = true) :
    u.tagFreed t = { u with tags := u.tags.set t none, choice := nextChoice u, claim := some t } := if_pos waits

theorem tagFreed_of_not_waiting {u : TxnUnit} (t : Nat) (idle : ¬waitsForTag u = true) :
    u.tagFreed t = { u with tags := u.tags.set t none } := if_neg idle

/-! ### What is next to be issued -/

theorem nextChoice_of_chosen {u : TxnUnit} {c : Choice} (chosen : u.choice = some c) : nextChoice u = some c := by
  unfold nextChoice
  rw [chosen]

theorem nextChoice_of_boundary {u : TxnUnit} (boundary : u.choice = none) : nextChoice u = boundaryChoice u := by
  unfold nextChoice
  rw [boundary]

/-- At a boundary a group is chosen where one waits and no injected request has waited for 8 groups (R161). -/
theorem boundaryChoice_group {u : TxnUnit} (waits : u.issue ≠ []) (early : ∀ i ∈ u.injected.head?, i.wait < 8) :
    boundaryChoice u = some .group := by
  obtain ⟨g, groups, issue⟩ := List.exists_cons_of_ne_nil waits
  unfold boundaryChoice
  rw [issue]
  cases injected : u.injected with
  | nil => rfl
  | cons i rest =>
    have notYet : i.wait < 8 := early i (by rw [injected]; rfl)
    exact if_neg (by simp only [Config.waitLimit]; omega)

/-- An injected request is chosen where no group waits, or where it has waited for 8 groups (R161). -/
theorem boundaryChoice_injected {u : TxnUnit} {i : Injected} {rest : List Injected} (waits : u.injected = i :: rest)
    (turn : u.issue = [] ∨ 8 ≤ i.wait) : boundaryChoice u = some .injected := by
  unfold boundaryChoice
  rw [waits]
  cases issue : u.issue with
  | nil => rfl
  | cons g groups =>
    have late : 8 ≤ i.wait := turn.resolve_left (by rw [issue]; exact List.cons_ne_nil _ _)
    exact if_pos late

theorem nextChoice_isSome {u : TxnUnit} (work : u.issue ≠ [] ∨ u.injected ≠ [] ∨ u.choice ≠ none) : nextChoice u ≠ none := by
  cases choice : u.choice with
  | some c =>
    rw [nextChoice_of_chosen choice]
    simp
  | none =>
    rw [nextChoice_of_boundary choice]
    unfold boundaryChoice
    cases injected : u.injected with
    | nil =>
      cases issue : u.issue with
      | nil => simp [injected, issue, choice] at work
      | cons g groups => simp
    | cons i rest =>
      cases issue : u.issue with
      | nil => simp
      | cons g groups =>
        dsimp only
        split <;> simp

/-! ### The arbiter's step -/

theorem arbiterStep_group {u : TxnUnit} {t : Nat} (quiet : u.quiet = .stopped) (output : u.output = none)
    (next : nextChoice u = some .group) (tag : tagToTake u = some t) : arbiterStep u = issuePiece t u := by
  unfold arbiterStep
  rw [if_neg (by simp [quiet, output, Timer.isRunning]), next, tag]

theorem arbiterStep_injected {u : TxnUnit} {t : Nat} (quiet : u.quiet = .stopped) (output : u.output = none)
    (next : nextChoice u = some .injected) (tag : tagToTake u = some t) : arbiterStep u = issueInjected t u := by
  unfold arbiterStep
  rw [if_neg (by simp [quiet, output, Timer.isRunning]), next, tag]

theorem arbiterStep_waits {u : TxnUnit} {c : Choice} (quiet : u.quiet = .stopped) (output : u.output = none)
    (next : nextChoice u = some c) (tag : tagToTake u = none) : arbiterStep u = { u with choice := some c } := by
  unfold arbiterStep
  rw [if_neg (by simp [quiet, output, Timer.isRunning]), next, tag]

/-- Settles O49: the three acts of the arbiter, then the tag that is taken. -/
theorem theArbiterIssuesOneRequest : Obligations.TheArbiterIssuesOneRequest := by
  have turn : ∀ {u : TxnUnit} {c : Choice}, u.choice = some c ∨ (u.choice = none ∧ boundaryChoice u = some c) →
      nextChoice u = some c := by
    rintro u c (chosen | ⟨boundary, next⟩)
    · exact nextChoice_of_chosen chosen
    · exact (nextChoice_of_boundary boundary).trans next
  refine ⟨fun k ks groups m s running quiet output issue tag group => ?_, fun s running => ⟨fun i rest m quiet output injected tag
    own => ?_, fun idle => whenRunning_idle (congrArg (fun u => { s.hw with txn := u }) (arbiterStep_idle idle))⟩,
    fun s c running quiet output used waiting => ?_, fun u => ⟨fun m unclaimed => ?_, fun m known output work used => ?_,
    fun m busy => ?_⟩⟩
  · have next : nextChoice s.hw.txn = some .group :=
      turn (group.imp_right fun ⟨none_made, early⟩ => ⟨none_made, boundaryChoice_group (by rw [issue]; simp) early⟩)
    refine whenRunning_eq running (congrArg (fun u => { s.hw with txn := u }) ?_)
    rw [arbiterStep_group quiet output next tag]
    unfold issuePiece
    rw [issue]
    cases ks with
    | nil => simp [countWaits, offerPiece, putOnOutput, quiet]
    | cons l ls => simp [offerPiece, putOnOutput, quiet]
  · have next : nextChoice s.hw.txn = some .injected :=
      turn (own.imp_right fun ⟨none_made, due⟩ => ⟨none_made, boundaryChoice_injected injected due⟩)
    refine whenRunning_eq running (congrArg (fun u => { s.hw with txn := u }) ?_)
    rw [arbiterStep_injected quiet output next tag]
    unfold issueInjected
    rw [injected]
    rfl
  · have next : nextChoice s.hw.txn = some c := by
      refine turn (waiting.imp_right fun ⟨none_made, which⟩ => ⟨none_made, ?_⟩)
      rcases which with ⟨rfl, i, rest, injected, due⟩ | ⟨rfl, waits, early⟩
      · exact boundaryChoice_injected injected due
      · exact boundaryChoice_group waits early
    exact whenRunning_eq running
      (congrArg (fun u => { s.hw with txn := u }) (arbiterStep_waits quiet output next (tagToTake_of_none_free used)))
  · rw [tagToTake_of_unclaimed unclaimed]
    exact freeTag_eq_some_iff u m
  · have freed := tagFreed_of_waiting m ((waitsForTag_iff u).mpr ⟨output, nextChoice_isSome work, used⟩)
    have free : (u.tags.set m none)[m]? = some none := by simp [known]
    refine ⟨?_, by rw [freed], fun n => ?_⟩
    · rw [freed]
      exact tagToTake_of_claim rfl free
    · rw [freed, tagFreed_of_not_waiting n fun waits => ((waitsForTag_iff _).mp waits).2.2 m free]
      refine tagToTake_of_claim rfl ?_
      by_cases same : n = m
      · subst same
        simp [known]
      · simp [same, known]
  · refine tagFreed_of_not_waiting m fun waits => ?_
    obtain ⟨output, _, used⟩ := (waitsForTag_iff u).mp waits
    rcases busy with stands | ⟨n, free⟩
    · exact stands output
    · exact used n free

end Sys2Proof.Machine

/-! SUPPORT. Responses and M-timeouts: the result they form, what it does at the entry, the tag and the flag (R152, R163 to R166). -/

namespace Sys2Proof.Machine

/-! ### Lists changed place by place -/

theorem mapFrom_getElem? {α β : Type} (f : Nat → α → β) (i j : Nat) (l : List α) :
    (mapFrom f i l)[j]? = l[j]?.map (f (i + j)) := by
  induction l generalizing i j with
  | nil => rfl
  | cons a as ih =>
    cases j with
    | zero => rfl
    | succ j =>
      simp only [mapFrom, List.getElem?_cons_succ, ih]
      rw [Nat.add_assoc, Nat.add_comm 1 j]

theorem mapFrom_length {α β : Type} (f : Nat → α → β) (i : Nat) (l : List α) : (mapFrom f i l).length = l.length := by
  induction l generalizing i with
  | nil => rfl
  | cons a as ih => simp [mapFrom, ih]

/-- Bytes that are as many as the data take its place whole. -/
theorem placeBytes_whole {bytes data : List Byte} (fits : bytes.length = data.length) : placeBytes 0 bytes data = bytes := by
  refine List.ext_getElem? fun i => ?_
  unfold placeBytes
  rw [mapFrom_getElem?, Nat.zero_add, Nat.zero_add]
  by_cases inside : i < bytes.length
  · rw [List.getElem?_eq_getElem (show i < data.length by omega), List.getElem?_eq_getElem inside]
    simp [inside]
  · rw [List.getElem?_eq_none (by omega), List.getElem?_eq_none (by omega)]
    rfl

theorem fillBytes_length (fill : BitVec 16) (addr n : Nat) : (fillBytes fill addr n).length = n := by simp [fillBytes]

/-! ### The result of a response -/

/-- A response to an IN_FLIGHT tag gives its result and frees the tag (R163). -/
theorem takeResponse_of_inFlight {m : MResponse} {te : TagEntry} {p : Part} (used : p.tag m.tag = some te)
    (inFlight : te.state = .inFlight) :
    takeResponse m p = (takeResult m.tag te (formResult te m) p).onTxn (TxnUnit.tagFreed m.tag) := by
  unfold takeResponse
  simp only [used, inFlight]
  rfl

/-- The response is what the request asked for: status 0, its kind and, of a READ, its length (R163). -/
def MResponse.Good (te : TagEntry) (m : MResponse) : Prop :=
  m.status = 0 ∧ m.kindByte = kindCode te.kind ∧ (te.kind = .read → m.length = te.length)

theorem formResult_of_bad {te : TagEntry} {m : MResponse} (bad : ¬m.Good te) : formResult te m = .fault := by
  unfold formResult
  by_cases header : m.status ≠ 0 ∨ m.kindByte ≠ kindCode te.kind
  · exact if_pos header
  · rw [not_or, not_not, not_not] at header
    obtain ⟨status, kindByte⟩ := header
    have wrongLength : te.kind = .read ∧ m.length ≠ te.length := by
      by_contra fine
      exact bad ⟨status, kindByte, fun read => by_contra fun length => fine ⟨read, length⟩⟩
    rw [if_neg (by simp [status, kindByte])]
    simp only [wrongLength.1, wrongLength.2, if_false]

theorem formResult_of_good {te : TagEntry} {m : MResponse} (good : m.Good te) :
    formResult te m = .ok (match te.kind with | .read => fitBytes te.length m.data | .write => []) := by
  obtain ⟨status, kindByte, length⟩ := good
  unfold formResult
  rw [if_neg (by rw [status, kindByte]; simp)]
  cases kind : te.kind with
  | read => exact if_pos (length kind)
  | write => rfl

/-- The same of a record, in the bytes of its header (R187). -/
theorem parseResponse_good_iff (header : BitVec 64) (data : List Byte) (te : TagEntry) :
    (parseResponse header data).Good te ↔ header.toNat / 2 ^ 24 % 256 = 0 ∧ header.toNat % 256 = kindCode te.kind ∧
      (te.kind = .read → header.toNat / 2 ^ 32 % 65536 + 1 = te.length) := by
  simp [MResponse.Good, parseResponse, headerField]

/-! ### The result at the entry -/

/-- The last result of an entry finishes it (R152). -/
theorem entryResult_last {e place length : Nat} {res : MResult} {p : Part} {v : Entry} (found : p.entry e = some v)
    (last : v.outstanding = 1) :
    entryResult e place length res p = { p with req := { p.req with
      table := p.req.table.set e (some { v with
        state := .returning, outstanding := 0, code := codeAfter res v.code
        data := dataAfter p.rig.global.fill v place length res })
      returning := p.req.returning ++ [e] } } := by
  unfold entryResult
  rw [found]
  dsimp only
  rw [if_neg (by omega), if_pos last]
  exact finishEntry_eq _ _ _ _ _ found

/-- Any other result leaves one piece less outstanding (R152). -/
theorem entryResult_more {e place length : Nat} {res : MResult} {p : Part} {v : Entry} (found : p.entry e = some v)
    (some_left : v.outstanding ≠ 0) (more : v.outstanding ≠ 1) :
    entryResult e place length res p = { p with req := { p.req with
      table := p.req.table.set e (some { v with
        outstanding := v.outstanding - 1, code := codeAfter res v.code
        data := dataAfter p.rig.global.fill v place length res }) } } := by
  unfold entryResult
  rw [found]
  dsimp only
  rw [if_neg some_left, if_neg more]
  unfold Part.onEntry Part.onReq
  dsimp only
  rw [modify_entry p e v _ found]

/-- Settles O53: the result, at the entry, then its event. -/
theorem passThroughResponsesCompleteTheRequest : Obligations.PassThroughResponsesCompleteTheRequest := by
  intro header data te e v s running h m used inFlight owner found outstanding kind length room carries good freed back fault
  have toOwner : ∀ res, takeResult m te res s.hw = resultEvent m te res { s.hw with
      req := back (codeAfter res v.code) (dataAfter s.hw.rig.global.fill v 0 te.length res) } := fun res => by
    unfold takeResult
    rw [if_neg (by rw [owner]; simp)]
    unfold deliverResult
    rw [owner]
    exact congrArg _ (entryResult_last found outstanding)
  have answered := takeResponse_of_inFlight (m := parseResponse header data) used inFlight
  have lengthOfRead : h % 256 = 0 → data.length = h / 2 ^ 32 % 65536 + 1 := fun read => by rw [carries, if_pos read]
  have isGood : (parseResponse header data).Good te ↔ good := by
    rw [parseResponse_good_iff]
    refine and_congr_right fun _ => and_congr_right fun kindByte => forall_congr' fun read => ?_
    rw [lengthOfRead (kindByte.trans (by rw [read]; rfl))]
  constructor
  · intro fine
    have bytes : dataAfter s.hw.rig.global.fill v 0 te.length
        (.ok (match te.kind with | .read => fitBytes te.length data | .write => [])) = data := by
      obtain ⟨_, kindByte, lengthOf⟩ := fine
      unfold dataAfter
      rw [kind]
      cases ofKind : te.kind with
      | read =>
        dsimp only [resultBytes]
        rw [fitBytes_of_length (lengthOf ofKind)]
        exact placeBytes_whole (by rw [room, if_pos (kind.trans ofKind), length, lengthOf ofKind])
      | write =>
        have none_read : ¬v.kind = .read := by rw [kind, ofKind]; simp
        have notRead : ¬h % 256 = 0 := by rw [kindByte, ofKind]; simp [kindCode]
        rw [if_neg none_read] at room
        rw [if_neg notRead] at carries
        exact (List.eq_nil_of_length_eq_zero room).trans (List.eq_nil_of_length_eq_zero carries).symm
    rw [formResult_of_good (isGood.mpr fine)] at answered
    refine whenRunning_eq running (answered.trans ?_)
    refine (congrArg (Part.onTxn · (TxnUnit.tagFreed m)) (toOwner _)).trans ?_
    rw [show (parseResponse header data).data = data from rfl, bytes]
    rfl
  · intro bad
    have bytes : dataAfter s.hw.rig.global.fill v 0 te.length .fault =
        if v.kind = .read then fillBytes s.hw.rig.global.fill v.addr.toNat v.length else [] := by
      unfold dataAfter
      cases ofKind : v.kind with
      | read =>
        rw [if_pos ofKind] at room
        exact (placeBytes_whole (by rw [room, length]; exact fillBytes_length ..)).trans (by rw [length]; rfl)
      | write =>
        rw [if_neg (by rw [ofKind]; simp)] at room
        exact List.eq_nil_of_length_eq_zero room
    rw [formResult_of_bad (mt isGood.mp bad)] at answered
    refine whenRunning_eq running (answered.trans ?_)
    refine (congrArg (Part.onTxn · (TxnUnit.tagFreed m)) (toOwner _)).trans ?_
    have event : te.owner.isReportWrite = false := by rw [owner]; rfl
    have failed : codeAfter .fault v.code = if v.code.value < Code.memoryFault.value then .memoryFault else v.code := rfl
    rw [bytes, failed]
    simp only [resultEvent, memoryFaultEvent, event, Bool.false_eq_true, if_false, fault, queueRecordNow, queueRecord_eq,
      setFlag_eq, raise_eq]
    rfl

end Sys2Proof.Machine

/-! SUPPORT. A tag after its result (R163, R166), and the flag of a failed one (R165). -/

namespace Sys2Proof.Machine

/-! ### A flag once set stays set through the latches and the load -/

/-- A flag is set. -/
def Part.FlagSet (b : Nat) (p : Part) : Prop := p.report.flags.getLsbD b = true

theorem flagSetRig (b : Nat) : RigMoves (Part.FlagSet b) where
  rig _ _ h := h
  skew _ _ h := h
  stream _ _ _ h := h
  slots _ _ _ h := h
  pairs _ _ h := h
  ctx _ _ h := h
  report p _ keeps h := (congrArg (fun v : BitVec 11 => v.getLsbD b) (keeps p.report)).trans h
  flag p f h := setFlag_keeps f b p h

theorem memoryFaultEvent_flag (cause : MemoryFaultCause) (t : Nat) (te : TagEntry) (p : Part) :
    (memoryFaultEvent cause t te p).FlagSet EventFlag.memoryFault.bit := by
  unfold memoryFaultEvent
  dsimp only
  split
  · exact setFlag_bit _ _
  · exact queueRecord_keeps _ _ _ _ _ (setFlag_bit _ _)

theorem resultEvent_flag (t : Nat) (te : TagEntry) {res : MResult} (p : Part) (failed : res.failed = true) :
    (resultEvent t te res p).FlagSet EventFlag.memoryFault.bit := by
  cases res with
  | ok data => cases failed
  | fault => exact memoryFaultEvent_flag _ _ _ _
  | timedOut => exact memoryFaultEvent_flag _ _ _ _

/-- A failed result sets MEMORY_FAULT, whoever receives it (R165). -/
theorem takeResult_flag (t : Nat) (te : TagEntry) {res : MResult} (p : Part) (failed : res.failed = true) :
    (takeResult t te res p).FlagSet EventFlag.memoryFault.bit := by
  unfold takeResult
  split
  · rename_i loads
    unfold deliverResult
    rw [loads]
    exact (flagSetRig _).loadReadResult (fun _ _ h => h) _ _ (resultEvent_flag _ _ _ failed)
  · exact resultEvent_flag _ _ _ failed

/-! ### The tags -/

theorem takeResult_tags (t : Nat) (te : TagEntry) (res : MResult) (p : Part) : (takeResult t te res p).txn.tags = p.txn.tags :=
  (tags_takeResult t te res p ⟨rfl, rfl⟩).1

theorem tag_set (p : Part) (m n : Nat) (v : Option TagEntry) (known : m < p.txn.tags.length) :
    (p.txn.tags.set m v).getD n none = if n = m then v else p.tag n := by
  unfold Part.tag
  simp only [List.getD_eq_getElem?_getD, List.getElem?_set]
  by_cases same : m = n
  · subst same
    simp [known]
  · simp [same, Ne.symm same]

theorem tag_lt {p : Part} {m : Nat} {te : TagEntry} (used : p.tag m = some te) : m < p.txn.tags.length :=
  (List.getElem?_eq_some_iff.mp (tag_getElem? used)).1

theorem passTime_tags_length (n : Nat) (p : Part) : (passTime n p).txn.tags.length = p.txn.tags.length := by
  unfold passTime
  split
  · rfl
  · simp

/-- The part at the M-timeout of a tag: the time has passed and the tag is QUARANTINED (R166). -/
def Part.tagLate (t : Nat) (te : TagEntry) (r : Nat) (p : Part) : Part :=
  (passTime r p).setTag t (some { te with state := .quarantined, timer := .stopped })

/-- The M-timeout of an IN_FLIGHT tag gives a timed-out result (R166). -/
theorem mTimeoutExpiry_of_inFlight {t : Nat} {te : TagEntry} {r : Nat} {p : Part} (used : p.tag t = some te)
    (inFlight : te.state = .inFlight) (timer : te.timer = .running r) :
    mTimeoutExpiry t p = takeResult t te .timedOut (p.tagLate t te r) := by
  unfold mTimeoutExpiry
  simp only [used, inFlight, timer]
  rfl

/-- Settles O52: the result leaves the tags alone; the response frees its own, the M-timeout has quarantined it. -/
theorem resultsFreeOrQuarantineTheTag : Obligations.ResultsFreeOrQuarantineTheTag := by
  constructor
  · intro header data te s running h m used inFlight
    have answered := takeResponse_of_inFlight (m := parseResponse header data) used inFlight
    have tags : ∀ n, (takeResponse (parseResponse header data) s.hw).tag n = if n = m then none else s.hw.tag n := fun n => by
      rw [answered, ← tag_set s.hw m n none (tag_lt used), ← takeResult_tags]
      unfold Part.tag
      rw [Part.onTxn_txn, tagFreed_eq]
      rfl
    refine ⟨_, whenRunning_eq running rfl, rfl, (tags m).trans (if_pos rfl), fun n other => (tags n).trans (if_neg other),
      fun wrong => ?_⟩
    have bad : ¬(parseResponse header data).Good te := fun good => by
      obtain ⟨status, kindByte, length⟩ := (parseResponse_good_iff header data te).mp good
      rcases wrong with notDone | otherKind | ⟨read, otherLength⟩
      · exact notDone status
      · exact otherKind kindByte
      · exact otherLength (length read)
    show (takeResponse (parseResponse header data) s.hw).FlagSet _
    rw [answered, formResult_of_bad bad]
    exact takeResult_flag _ _ _ rfl
  · intro m te s r running used inFlight timer
    have expired := mTimeoutExpiry_of_inFlight used inFlight timer
    have known : m < (passTime r s.hw).txn.tags.length := by
      rw [passTime_tags_length]
      exact tag_lt used
    have tags : ∀ n, (mTimeoutExpiry m s.hw).tag n =
        if n = m then some { te with state := .quarantined, timer := .stopped } else (passTime r s.hw).tag n := fun n => by
      rw [expired, ← tag_set _ m n _ known]
      exact congrArg (fun l : List (Option TagEntry) => l.getD n none) (takeResult_tags m te .timedOut _)
    refine ⟨_, whenRunning_eq running rfl, rfl, (tags m).trans (if_pos rfl), fun n other => (tags n).trans (if_neg other), ?_⟩
    show (mTimeoutExpiry m s.hw).FlagSet _
    rw [expired]
    exact takeResult_flag _ _ _ rfl

end Sys2Proof.Machine

/-! SUPPORT. The report unit's own writes: their offers and their results (R183, R185). -/

namespace Sys2Proof.Machine

/-! ### Offers -/

theorem choosesStatus_iff (p : Part) : choosesStatus p = true ↔ p.rig.partState = .running ∧ p.report.outstanding = none ∧
    p.report.due = true ∧ (p.report.queue = [] ∨ p.report.lastOffered = .record) := by
  simp [choosesStatus, offerFree, recordWaits, and_assoc]

theorem choosesRecord_iff (p : Part) : choosesRecord p = true ↔ p.rig.partState = .running ∧ p.report.outstanding = none ∧
    p.report.queue ≠ [] ∧ (p.report.due = false ∨ p.report.lastOffered = .status) := by
  simp [choosesRecord, offerFree, recordWaits, and_assoc]

/-! ### Results -/

/-- The M-port counter of a failed result (R165). -/
def MResult.counter : MResult → Counter
  | .ok _ => .mFaults
  | .fault => .mFaults
  | .timedOut => .mTimeouts

/-- The event of a report write's result: a flag and a counter, and no record (R165). -/
theorem resultEvent_of_reportWrite {t : Nat} {te : TagEntry} (own : te.owner.isReportWrite = true) (res : MResult) (p : Part) :
    resultEvent t te res p = if res.failed then setFlag .memoryFault (raise res.counter p) else p := by
  cases res with
  | ok data => rfl
  | fault => exact if_pos own
  | timedOut => exact if_pos own

/-- What setting a flag leaves of the report unit. -/
theorem setFlag_report (f : EventFlag) (p : Part) : (setFlag f p).report = { p.report with
    flags := p.report.flags ||| f.mask, due := (setFlag f p).report.due, alertN := (setFlag f p).report.alertN } := by
  unfold setFlag changeFlags
  split
  · rename_i same
    rw [same]
  · rfl

theorem setFlag_keeps_due {f : EventFlag} {p : Part} (due : p.report.due = true) : (setFlag f p).report.due = true := by
  unfold setFlag changeFlags
  split
  · exact due
  · rfl

/-- The result of a report write changes the report unit alone. -/
theorem takeResult_of_reportWrite {t : Nat} {te : TagEntry} {o : Injector} (owner : te.owner = .injected o) (own : o ≠ .loadRead)
    (res : MResult) (p : Part) :
    takeResult t te res p =
      if res.failed then setFlag .memoryFault (raise res.counter (injectedResult o res p)) else injectedResult o res p := by
  unfold takeResult deliverResult
  rw [if_neg (by rw [owner]; simp [own]), owner]
  exact resultEvent_of_reportWrite (by cases o <;> simp_all [Owner.isReportWrite]) res _

/-- The result of a status write frees the offer, and makes a changed status due (R183). -/
theorem statusWrite_report {t : Nat} {te : TagEntry} (owner : te.owner = .injected .statusWrite) (res : MResult) (p : Part) :
    (takeResult t te res p).report.outstanding = none ∧ (takeResult t te res p).report.queue = p.report.queue ∧
      (p.report.changed = true → (takeResult t te res p).report.due = true) ∧
      (res.failed = false → (takeResult t te res p).report.due = (p.report.due || p.report.changed) ∧
        (takeResult t te res p).report.flags = p.report.flags ∧
        (takeResult t te res p).report.counters = p.report.counters) := by
  rw [takeResult_of_reportWrite owner (by simp)]
  cases failed : res.failed with
  | false => exact ⟨rfl, rfl, fun changed => by simp [injectedResult, statusResult, changed], fun _ => ⟨rfl, rfl, rfl⟩⟩
  | true =>
    rw [if_pos rfl]
    have due : p.report.changed = true → (raise res.counter (injectedResult .statusWrite res p)).report.due = true :=
      fun changed => (congrArg (p.report.due || ·) changed).trans (Bool.or_true _)
    refine ⟨?_, ?_, fun changed => setFlag_keeps_due (due changed), fun other => by cases other⟩
    · rw [setFlag_report]
      rfl
    · rw [setFlag_report]
      rfl

theorem counter_ne_record (res : MResult) : res.counter ≠ .recordsLost ∧ res.counter ≠ .recordsWritten := by
  cases res <;> simp [MResult.counter]

/-- The result of a record write takes the record out of the queue and counts it (R185). -/
theorem recordWrite_report {t : Nat} {te : TagEntry} (owner : te.owner = .injected .recordWrite) (res : MResult) {p : Part}
    (sized : p.report.counters.length = 20) :
    (takeResult t te res p).report.outstanding = none ∧ (takeResult t te res p).report.queue = p.report.queue.tail ∧
      (res.failed = false → (takeResult t te res p).count .recordsWritten = p.count .recordsWritten + 1 ∧
        (takeResult t te res p).count .recordsLost = p.count .recordsLost ∧
        (takeResult t te res p).report.flags = p.report.flags) ∧
      (res.failed = true → (takeResult t te res p).count .recordsLost = p.count .recordsLost + 1 ∧
        (takeResult t te res p).count .recordsWritten = p.count .recordsWritten) := by
  let popped : Part := p.onReport fun u => { u with outstanding := none, queue := u.queue.tail }
  have sizedPopped : popped.report.counters.length = 20 := sized
  have before : ∀ d, popped.count d = p.count d := count_of_counters rfl
  rw [takeResult_of_reportWrite owner (by simp)]
  cases failed : res.failed with
  | false =>
    have result : injectedResult .recordWrite res p = raise .recordsWritten popped := by
      simp only [injectedResult, recordResult, failed]
      rfl
    rw [if_neg (by simp), result]
    refine ⟨rfl, rfl, fun _ => ⟨?_, ?_, rfl⟩, fun other => by cases other⟩
    · rw [raise_count _ _ _ sizedPopped, if_pos rfl, before]
    · rw [raise_count _ _ _ sizedPopped, if_neg (by simp), before]
  | true =>
    have result : injectedResult .recordWrite res p = raise .recordsLost popped := by
      simp only [injectedResult, recordResult, failed]
      rfl
    obtain ⟨notLost, notWritten⟩ := counter_ne_record res
    have counted : ∀ d, (setFlag .memoryFault (raise res.counter (raise .recordsLost popped))).count d =
        (raise res.counter (raise .recordsLost popped)).count d := count_of_counters (setFlag_counters _ _)
    have sizedLost : (raise .recordsLost popped).report.counters.length = 20 := (raiseBy_length ..).trans sizedPopped
    rw [if_pos rfl, result, counted, counted]
    refine ⟨?_, ?_, (fun other => by cases other), fun _ => ⟨?_, ?_⟩⟩
    · rw [setFlag_report]
      rfl
    · rw [setFlag_queue]
      rfl
    · rw [raise_count _ _ _ sizedLost, if_neg notLost.symm, raise_count _ _ _ sizedPopped, if_pos rfl, before]
    · rw [raise_count _ _ _ sizedLost, if_neg notWritten.symm, raise_count _ _ _ sizedPopped, if_neg (by simp), before]

/-- What the result of a report write leaves alone. -/
theorem injectedResult_frame {o : Injector} (own : o ≠ .loadRead) (res : MResult) (p : Part) :
    injectedResult o res p = { p with report := (injectedResult o res p).report } ∧
      (injectedResult o res p).report.ringIndex = p.report.ringIndex ∧ (injectedResult o res p).report.seq = p.report.seq := by
  cases o with
  | statusWrite => exact ⟨rfl, rfl, rfl⟩
  | recordWrite => exact ⟨rfl, rfl, rfl⟩
  | loadRead => exact absurd rfl own

theorem reportWrite_frame {t : Nat} {te : TagEntry} {o : Injector} (owner : te.owner = .injected o) (own : o ≠ .loadRead)
    (res : MResult) (p : Part) :
    takeResult t te res p = { p with report := (takeResult t te res p).report } ∧
      (takeResult t te res p).report.ringIndex = p.report.ringIndex ∧ (takeResult t te res p).report.seq = p.report.seq := by
  obtain ⟨frame, ring, seq⟩ := injectedResult_frame own res p
  rw [takeResult_of_reportWrite owner own]
  split
  · have raised : (injectedResult o res p).OnlyReports (raise res.counter (injectedResult o res p)) := rfl
    refine ⟨(Part.OnlyReports.trans frame raised).trans (setFlag_onlyReports _ _), ?_, ?_⟩
    · rw [setFlag_report]
      exact ring
    · rw [setFlag_report]
      exact seq
  · exact ⟨frame, ring, seq⟩

/-- A failed report write raises its M-port counter and MEMORY_FAULT (R165). -/
theorem reportWrite_failed {t : Nat} {te : TagEntry} {o : Injector} (owner : te.owner = .injected o) (own : o ≠ .loadRead)
    {res : MResult} (failed : res.failed = true) {p : Part} (sized : p.report.counters.length = 20) :
    (takeResult t te res p).report.flags.getLsbD EventFlag.memoryFault.bit = true ∧
      (takeResult t te res p).count res.counter = p.count res.counter + 1 := by
  rw [takeResult_of_reportWrite owner own, if_pos failed]
  refine ⟨setFlag_bit _ _, (count_of_counters (setFlag_counters _ _) _).trans ?_⟩
  have delivered : (injectedResult o res p).report.counters.length = 20 ∧
      (injectedResult o res p).count res.counter = p.count res.counter := by
    cases o with
    | statusWrite => exact ⟨sized, rfl⟩
    | recordWrite =>
      obtain ⟨notLost, notWritten⟩ := counter_ne_record res
      refine ⟨(raiseBy_length ..).trans sized, (raise_count _ _ _ sized).trans (if_neg ?_)⟩
      rw [failed]
      exact notLost
    | loadRead => exact absurd rfl own
  rw [raise_count _ _ _ delivered.1, if_pos rfl, delivered.2]

/-! ### A command that brings a result -/

/-- The command brings the result `res` of the request of tag `m`, the part being `q` at that moment; at most the tag is freed
after it (R163, R166). -/
def BringsResult (c : Instr) (m : Nat) (te : TagEntry) (res : MResult) (q : Part) (s : State) : Prop :=
  ∃ u : Part, exec c s = .next { s with hw := markChanged s.hw u } ∧
    (u = takeResult m te res q ∨ u = (takeResult m te res q).onTxn (TxnUnit.tagFreed m))

theorem response_bringsResult {header : BitVec 64} {data : List Byte} {te : TagEntry} {s : State}
    (running : s.hw.resetAsserted = false) (used : s.hw.tag (header.toNat / 2 ^ 16 % 256) = some te) (inFlight : te.state = .inFlight) :
    BringsResult (.mportResponse header data) (header.toNat / 2 ^ 16 % 256) te (formResult te (parseResponse header data)) s.hw s :=
  ⟨_, whenRunning_eq running (takeResponse_of_inFlight (m := parseResponse header data) used inFlight), .inr rfl⟩

theorem timeout_bringsResult {m r : Nat} {te : TagEntry} {s : State} (running : s.hw.resetAsserted = false)
    (used : s.hw.tag m = some te) (inFlight : te.state = .inFlight) (timer : te.timer = .running r) :
    BringsResult (.mTimeout m) m te .timedOut (s.hw.tagLate m te r) s :=
  ⟨_, whenRunning_eq running (mTimeoutExpiry_of_inFlight used inFlight timer), .inl rfl⟩

theorem passTime_report (n : Nat) (p : Part) :
    (passTime n p).report = { p.report with interval := (passTime n p).report.interval } := by
  unfold passTime
  split <;> rfl

/-- Settles O56: the two offers, the interval, and the results by whose write it was. -/
theorem reportWritesAreOffered : Obligations.ReportWritesAreOffered := by
  refine ⟨fun s running state free due turn => ?_, fun r rest s running state free queue turn => ?_, fun s r running interval => ?_,
    fun c m te o elapsed good late s running sized used inFlight owner kind brings => ?_⟩
  · exact whenRunning_eq running (if_pos ((choosesStatus_iff s.hw).mpr ⟨state, free, due, turn⟩))
  · refine whenRunning_eq running ?_
    unfold recordWriteOffer
    rw [queue]
    exact if_pos ((choosesRecord_iff s.hw).mpr ⟨state, free, by rw [queue]; simp, turn⟩)
  · refine whenRunning_eq running ((onExpiry_running _ r restartInterval s.hw interval).trans ?_)
    unfold restartInterval Part.onReport
    rw [passTime_report, passTime_rig]
  · obtain ⟨res, q, brought, failed, counter, report, streams, pairs, rig, req⟩ : ∃ res q, BringsResult c m te res q s ∧
        res.failed = !good ∧ res.counter = (if late then .mTimeouts else .mFaults) ∧
        q.report = { s.hw.report with interval := q.report.interval } ∧ q.streams = s.hw.streams ∧
        q.pairs.queue = s.hw.pairs.queue ∧ q.rig = s.hw.rig ∧ q.req = s.hw.req := by
      rcases brings with ⟨header, data, rfl, rfl, isGood, rfl, rfl⟩ | ⟨rfl, timer, rfl, rfl⟩
      · have isGood' : (parseResponse header data).Good te ↔ good = true := by
          rw [parseResponse_good_iff, isGood, kind]
          simp [kindCode]
        refine ⟨_, s.hw, response_bringsResult running used inFlight, ?_, ?_, rfl, rfl, rfl, rfl, rfl⟩
        · cases good with
          | true => rw [formResult_of_good (isGood'.mpr rfl)]; rfl
          | false => rw [formResult_of_bad (mt isGood'.mp (by simp))]; rfl
        · cases good with
          | true => rw [formResult_of_good (isGood'.mpr rfl)]; rfl
          | false => rw [formResult_of_bad (mt isGood'.mp (by simp))]; rfl
      · exact ⟨_, _, timeout_bringsResult running used inFlight timer, rfl, rfl, passTime_report _ _, passTime_streams _ _,
          passTime_queue _ _, passTime_rig _ _, passTime_req _ _⟩
    have sizedQ : q.report.counters.length = 20 := by rw [report]; exact sized
    obtain ⟨u, executed, freed⟩ := brought
    have sides : u.report = (takeResult m te res q).report ∧ u.streams = (takeResult m te res q).streams ∧
        u.pairs = (takeResult m te res q).pairs ∧ u.rig = (takeResult m te res q).rig ∧ u.req = (takeResult m te res q).req := by
      rcases freed with rfl | rfl
      · exact ⟨rfl, rfl, rfl, rfl, rfl⟩
      · exact ⟨rfl, rfl, rfl, rfl, rfl⟩
    obtain ⟨sameReport, sameStreams, samePairs, sameRig, sameReq⟩ := sides
    have counts : ∀ d, (markChanged s.hw u).count d = (takeResult m te res q).count d :=
      count_of_counters (congrArg ReportUnit.counters sameReport : u.report.counters = _)
    have countsQ : ∀ d, q.count d = s.hw.count d := count_of_counters (by rw [report])
    refine ⟨_, executed, rfl, fun status => ?_, fun record => ?_, fun own bad => ?_, fun own => ?_⟩
    · subst status
      obtain ⟨outstanding, queue, changed, fine⟩ := statusWrite_report (t := m) owner res q
      rw [report] at queue changed fine
      rw [failed] at fine
      simp only [markChanged_report, sameReport]
      exact ⟨outstanding, queue, changed, fun isGood => fine (by rw [isGood]; rfl)⟩
    · subst record
      obtain ⟨outstanding, queue, fine, lost⟩ := recordWrite_report (t := m) owner res sizedQ
      simp only [countsQ] at fine lost
      rw [report] at queue fine
      rw [failed] at fine lost
      simp only [counts]
      simp only [markChanged_report, sameReport]
      exact ⟨outstanding, queue, fun isGood => fine (by rw [isGood]; rfl), fun isBad => lost (by rw [isBad]; rfl)⟩
    · obtain ⟨flag, count⟩ := reportWrite_failed (t := m) owner own (failed.trans (by rw [bad]; rfl)) sizedQ
      rw [counter, countsQ] at count
      rw [counts, count]
      simp only [markChanged_report, sameReport]
      exact ⟨flag, trivial⟩
    · obtain ⟨frame, ring, seq⟩ := reportWrite_frame (t := m) owner own res q
      rw [report] at ring seq
      simp only [markChanged_report, markChanged_streams, markChanged_pairs, markChanged_rig, markChanged_req, sameReport, sameStreams,
        samePairs, sameRig, sameReq]
      rw [ring, seq, frame]
      exact ⟨rfl, rfl, streams, pairs, rig, req⟩

end Sys2Proof.Machine

/-! SUPPORT. Records as lists of fields: a field stands at the sum of the sizes before it (R187, R189, R190). -/

namespace Sys2Proof.Machine

/-! ### Fields -/

theorem leBytes_length (n v : Nat) : (leBytes n v).length = n := by
  induction n generalizing v with
  | zero => rfl
  | succ n ih => simp [leBytes, ih]

theorem leBytes_getElem? (n v i : Nat) (inside : i < n) : (leBytes n v)[i]? = some (BitVec.ofNat 8 (v / 256 ^ i)) := by
  induction n generalizing v i with
  | zero => omega
  | succ n ih =>
    cases i with
    | zero => simp [leBytes]
    | succ i => rw [leBytes, List.getElem?_cons_succ, ih _ _ (by omega), Nat.pow_succ', Nat.div_div_eq_div_mul]

/-- A small number in a wide field stands in its low bytes. -/
theorem leBytes_add_of_lt {a v : Nat} (b : Nat) (small : v < 256 ^ a) : leBytes (a + b) v = leBytes a v ++ leBytes b 0 := by
  induction a generalizing v with
  | zero =>
    have zero : v = 0 := by simpa using small
    subst zero
    simp [leBytes]
  | succ a ih =>
    rw [Nat.add_right_comm]
    have less : v / 256 < 256 ^ a := by
      rw [Nat.pow_succ] at small
      exact (Nat.div_lt_iff_lt_mul (by omega)).mpr small
    simp only [leBytes, List.cons_append, ih less]

/-- The bytes of a list of fields, each a size and a value. -/
def fieldBytes (l : List (Nat × Nat)) : List Byte := l.flatMap fun f => leBytes f.1 f.2

/-- The field at an offset. -/
def fieldAt : List (Nat × Nat) → Nat → Option (Nat × Nat)
  | [], _ => none
  | f :: _, 0 => some f
  | f :: l, k + 1 => if k + 1 < f.1 then none else fieldAt l (k + 1 - f.1)

/-- The bytes that a run of fields takes. -/
def fieldSize (l : List (Nat × Nat)) : Nat := (l.map Prod.fst).sum

@[simp] theorem fieldSize_nil : fieldSize [] = 0 := rfl

@[simp] theorem fieldSize_cons (n v : Nat) (l : List (Nat × Nat)) : fieldSize ((n, v) :: l) = n + fieldSize l := rfl

@[simp] theorem fieldSize_append (l m : List (Nat × Nat)) : fieldSize (l ++ m) = fieldSize l + fieldSize m := by
  simp [fieldSize, List.sum_append]

/-- Fields of one size, one for each number below `m`. -/
theorem fieldSize_range (m n : Nat) (f : Nat → Nat) : fieldSize ((List.range m).map fun i => (n, f i)) = m * n := by
  simp [fieldSize, Function.comp_def]

theorem fieldBytes_length (l : List (Nat × Nat)) : (fieldBytes l).length = fieldSize l := by
  induction l with
  | nil => rfl
  | cons f l ih =>
    have inner : (fieldBytes l).length = _ := ih
    unfold fieldBytes at *
    rw [List.flatMap_cons, List.length_append, leBytes_length, inner]
    rfl

theorem fieldBytes_append (l m : List (Nat × Nat)) : fieldBytes (l ++ m) = fieldBytes l ++ fieldBytes m := List.flatMap_append

/-- A field is read where its offset says, whatever follows the fields. -/
theorem fieldBytes_at {b : List Byte} {l : List (Nat × Nat)} {rest : List Byte} {k n v : Nat} (bytes : b = fieldBytes l ++ rest)
    (found : fieldAt l k = some (n, v)) : (b.drop k).take n = leBytes n v := by
  subst bytes
  induction l generalizing k with
  | nil => cases found
  | cons f l ih =>
    have split : fieldBytes (f :: l) = leBytes f.1 f.2 ++ fieldBytes l := List.flatMap_cons
    rw [split, List.append_assoc]
    cases k with
    | zero =>
      cases found
      rw [List.drop_zero, List.take_append_of_le_length (by rw [leBytes_length])]
      exact List.take_of_length_le (by rw [leBytes_length])
    | succ k =>
      unfold fieldAt at found
      split at found
      · cases found
      · rename_i beyond
        rw [List.drop_append, leBytes_length, List.drop_of_length_le (by rw [leBytes_length]; omega), List.nil_append]
        exact ih found

/-- The same of a field of a later run of fields. -/
theorem fieldBytes_after {b : List Byte} {before l later : List (Nat × Nat)} {place k n v : Nat}
    (bytes : b = fieldBytes (before ++ (l ++ later)) ++ []) (size : fieldSize before = place)
    (found : fieldAt l k = some (n, v)) : (b.drop (place + k)).take n = leBytes n v := by
  have rest : b.drop place = fieldBytes l ++ fieldBytes later := by
    rw [bytes, List.append_nil, fieldBytes_append, fieldBytes_append, ← size, ← fieldBytes_length, List.drop_left]
  rw [← List.drop_drop]
  exact fieldBytes_at rest found

/-- Of fields of one size, the field `i` stands at `i` times that size. -/
theorem fieldAt_uniform {n m : Nat} (positive : 0 < n) (f : Nat → Nat) (start : Nat) (later : List (Nat × Nat)) {i : Nat}
    (inside : i < m) : fieldAt ((List.range' start m).map (fun j => (n, f j)) ++ later) (n * i) = some (n, f (start + i)) := by
  induction m generalizing start i with
  | zero => omega
  | succ m ih =>
    rw [List.range'_succ, List.map_cons, List.cons_append]
    cases i with
    | zero => rfl
    | succ i =>
      obtain ⟨k, next⟩ : ∃ k, n * (i + 1) = k + 1 := Nat.exists_eq_add_one.mpr (Nat.mul_pos positive (Nat.succ_pos i))
      have rest : k + 1 - n = n * i := by rw [← next, Nat.mul_add]; omega
      have reached : ¬k + 1 < n := by rw [← next, Nat.mul_add]; omega
      rw [next, fieldAt, if_neg reached, rest, ih (start + 1) (by omega), Nat.add_assoc, Nat.add_comm 1 i]

/-! ### The status block (R189) -/

def eyeFields (p : Part) (x : Eye) : List (Nat × Nat) :=
  [(1, syncStateCode (p.acq x).state), (1, streamStateCode (p.stream x).state), (1, (p.eyeSettings x).slotCount), (1, 0),
    (4, (p.stream x).frameNumber.toNat)] ++
    (List.range 8).map fun i => (1, match (p.slots.get x)[i]? with | some r => slotStateCode r.state | none => 0xFF)

def readerFields (p : Part) (r : ReaderId) : List (Nat × Nat) :=
  [(1, readerStateCode (p.reader r).state), (3, 0), (4, ((p.reader r).held.map HeldPair.number).getD 0),
    (4, (p.reader r).lastTaken)]

def counterFields (p : Part) : List (Nat × Nat) :=
  (List.range 20).map fun i => (4, (p.report.counters.getD i 0).toNat)

def partFields (p : Part) : List (Nat × Nat) :=
  [(6, p.now.toNat), (1, partStateCode p.rig.partState), (1, 0), (2, p.report.flags.toNat), (2, p.report.ringIndex),
    (4, p.take.toNat), (4, p.report.seq.toNat), (2, postStatesWord p), (1, boolCode p.rig.windowChange.isSome), (9, 0)]

def queueFields (p : Part) : List (Nat × Nat) :=
  [(4, p.pairs.queue.length), (4, (p.pairs.queue.head?.map (·.number)).getD 0), (4, (p.newestReady.map (·.number)).getD 0),
    (4, 0)]

def skewFields (p : Part) : List (Nat × Nat) :=
  [(6, signedBits 48 p.skew.f), (2, signedBits 16 p.skew.trim), (4, sampleBits p.skew.d),
    (1, boolCode p.skew.warn + 2 * boolCode p.skew.fault), (3, 0)]

/-- The status block, field by field. -/
def statusFields (p : Part) : List (Nat × Nat) :=
  partFields p ++ (eyeFields p .left ++ (eyeFields p .right ++ (readerFields p .a ++ (readerFields p .b ++ (readerFields p .c ++
    (readerFields p .d ++ (queueFields p ++ (skewFields p ++ (counterFields p ++ [(32, 0)])))))))))

@[simp] theorem partFields_size (p : Part) : fieldSize (partFields p) = 0x20 := by simp [partFields]

@[simp] theorem eyeFields_size (p : Part) (x : Eye) : fieldSize (eyeFields p x) = 0x10 := by
  rw [eyeFields, fieldSize_append, fieldSize_range]
  simp

@[simp] theorem readerFields_size (p : Part) (r : ReaderId) : fieldSize (readerFields p r) = 0x0C := by simp [readerFields]

@[simp] theorem queueFields_size (p : Part) : fieldSize (queueFields p) = 0x10 := by simp [queueFields]

@[simp] theorem skewFields_size (p : Part) : fieldSize (skewFields p) = 0x10 := by simp [skewFields]

@[simp] theorem counterFields_size (p : Part) : fieldSize (counterFields p) = 0x50 := by
  rw [counterFields, fieldSize_range]

theorem slotStateBytes_eq (l : List SlotRecord) : slotStateBytes l =
    fieldBytes ((List.range 8).map fun i => (1, match l[i]? with | some r => slotStateCode r.state | none => 0xFF)) := by
  unfold slotStateBytes fieldBytes
  exact (List.flatMap_map ..).symm

theorem counters_eq {l : List Word} (sized : l.length = 20) : l = (List.range 20).map fun i => l.getD i 0 := by
  refine List.ext_getElem (by simp [sized]) fun i h _ => ?_
  simp [h]

theorem counterBytes_eq {p : Part} (sized : p.report.counters.length = 20) :
    p.report.counters.flatMap (fun c => leBytes 4 c.toNat) = fieldBytes (counterFields p) := by
  unfold fieldBytes counterFields
  conv_lhs => rw [counters_eq sized]
  rw [List.flatMap_map, List.flatMap_map]

theorem statusBlock_eq {p : Part} (sized : p.report.counters.length = 20) : statusBlock p = fieldBytes (statusFields p) ++ [] := by
  have limits : leBytes 4 (boolCode p.skew.warn + 2 * boolCode p.skew.fault) =
      leBytes 1 (boolCode p.skew.warn + 2 * boolCode p.skew.fault) ++ leBytes 3 0 :=
    leBytes_add_of_lt (a := 1) 3 (by cases p.skew.warn <;> cases p.skew.fault <;> simp [boolCode])
  unfold statusBlock shownBytes partStatusBytes eyeStatusBytes queueStatusBytes skewStatusBytes counterStatusBytes
  rw [slotStateBytes_eq, slotStateBytes_eq, counterBytes_eq sized, limits]
  simp only [statusFields, partFields, queueFields, skewFields, eyeFields, readerFields, readerStatusBytes, allReaders, List.flatMap_cons,
    List.flatMap_nil, fieldBytes, List.append_assoc, List.append_nil]
  rfl

end Sys2Proof.Machine

/-! SUPPORT. The sizes and the places of the fields of the status block and of every record (R187, R189, R190). -/

namespace Sys2Proof.Machine

/-! ### Values of fields -/

theorem postCode_eq (v : PostState) : postCode v = match v with | .unposted => 0 | .posted => 1 | .rejected => 2 := by
  cases v <;> rfl

theorem postStatesWord_eq (p : Part) : postStatesWord p = postCode (p.post .global) + 4 * postCode (p.post .sync) +
    16 * postCode (p.post (.eye .left)) + 64 * postCode (p.post (.eye .right)) + 256 * postCode (p.post (.reader .a)) +
    1024 * postCode (p.post (.reader .b)) + 4096 * postCode (p.post (.reader .c)) + 16384 * postCode (p.post (.reader .d)) := by
  simp [postStatesWord, Section.all, sectionCode, eyeCode, readerCode]
  omega

theorem slotStateCode_eq (o : Option SlotRecord) :
    (match o with | some r => slotStateCode r.state | none => 0xFF) =
      match o with
      | none => 0xFF
      | some r => match r.state with
        | .free => 0 | .filling => 1 | .landing => 2 | .complete => 3 | .paired => 4 | .draining => 5 := by
  cases o <;> rfl

/-- Counter `i` stands at 4 i. -/
theorem counterFields_at (p : Part) (c : Counter) :
    fieldAt (counterFields p ++ [(32, 0)]) (4 * c.index) = some (4, (p.count c).toNat) := by
  have field := fieldAt_uniform (n := 4) (by omega) (fun i => (p.report.counters.getD i 0).toNat) 0 [(32, 0)] (index_lt c)
  rw [← List.range_eq_range', Nat.zero_add] at field
  exact field

/-- Where the fields of an eye start. -/
def eyePlace : Eye → Nat
  | .left => 0x20
  | .right => 0x30

/-- Where the fields of a reader start. -/
def readerPlace : ReaderId → Nat
  | .a => 0x40
  | .b => 0x4C
  | .c => 0x58
  | .d => 0x64

/-! ### The runs of fields of the status block (R189) -/

section

variable {p : Part} (sized : p.report.counters.length = 20)
include sized

theorem status_part {k n v : Nat} (found : fieldAt (partFields p) k = some (n, v)) :
    ((statusBlock p).drop k).take n = leBytes n v := by
  have read := fieldBytes_after (before := []) (place := 0) (statusBlock_eq sized) rfl found
  rwa [Nat.zero_add] at read

/-- The fields of the status block behind the eyes. -/
def statusAfterEyes (p : Part) : List (Nat × Nat) :=
  readerFields p .a ++ (readerFields p .b ++ (readerFields p .c ++ (readerFields p .d ++ (queueFields p ++ (skewFields p ++
    (counterFields p ++ [(32, 0)]))))))

theorem status_eye (x : Eye) {k n v : Nat} (found : fieldAt (eyeFields p x) k = some (n, v)) :
    ((statusBlock p).drop (eyePlace x + k)).take n = leBytes n v := by
  have whole : statusBlock p = fieldBytes (partFields p ++ (eyeFields p .left ++ (eyeFields p .right ++ statusAfterEyes p))) ++ [] :=
    statusBlock_eq sized
  cases x with
  | left => exact fieldBytes_after whole (by simp [eyePlace]) found
  | right =>
    rw [← List.append_assoc] at whole
    exact fieldBytes_after whole (by simp [eyePlace]) found

theorem status_reader (r : ReaderId) {k n v : Nat} (found : fieldAt (readerFields p r) k = some (n, v)) :
    ((statusBlock p).drop (readerPlace r + k)).take n = leBytes n v := by
  have whole : statusBlock p = fieldBytes ((partFields p ++ (eyeFields p .left ++ eyeFields p .right)) ++ statusAfterEyes p) ++ [] := by
    rw [statusBlock_eq sized, statusFields, statusAfterEyes]
    simp only [List.append_assoc]
  unfold statusAfterEyes at whole
  cases r with
  | a => exact fieldBytes_after whole (by simp [readerPlace]) found
  | b =>
    rw [← List.append_assoc] at whole
    exact fieldBytes_after whole (by simp [readerPlace]) found
  | c =>
    rw [← List.append_assoc, ← List.append_assoc] at whole
    exact fieldBytes_after whole (by simp [readerPlace]) found
  | d =>
    rw [← List.append_assoc, ← List.append_assoc, ← List.append_assoc] at whole
    exact fieldBytes_after whole (by simp [readerPlace]) found

/-- The fields of the status block before the pair queue. -/
def statusBefore (p : Part) : List (Nat × Nat) :=
  partFields p ++ (eyeFields p .left ++ (eyeFields p .right ++ (readerFields p .a ++ (readerFields p .b ++ (readerFields p .c ++
    readerFields p .d)))))

omit sized in
@[simp] theorem statusBefore_size : fieldSize (statusBefore p) = 0x70 := by simp [statusBefore]

theorem status_queue {k n v : Nat} (found : fieldAt (queueFields p) k = some (n, v)) :
    ((statusBlock p).drop (0x70 + k)).take n = leBytes n v := by
  refine fieldBytes_after (before := statusBefore p) (later := skewFields p ++ (counterFields p ++ [(32, 0)])) ?_ (by simp) found
  rw [statusBlock_eq sized, statusFields, statusBefore]
  simp only [List.append_assoc]

theorem status_skew {k n v : Nat} (found : fieldAt (skewFields p) k = some (n, v)) :
    ((statusBlock p).drop (0x80 + k)).take n = leBytes n v := by
  refine fieldBytes_after (before := statusBefore p ++ queueFields p) (later := counterFields p ++ [(32, 0)]) ?_ (by simp) found
  rw [statusBlock_eq sized, statusFields, statusBefore]
  simp only [List.append_assoc]

theorem status_counters {k n v : Nat} (found : fieldAt (counterFields p ++ [(32, 0)]) k = some (n, v)) :
    ((statusBlock p).drop (0x90 + k)).take n = leBytes n v := by
  refine fieldBytes_after (before := statusBefore p ++ (queueFields p ++ skewFields p)) (later := []) ?_ (by simp) found
  rw [statusBlock_eq sized, statusFields, statusBefore]
  simp only [List.append_assoc, List.append_nil]

theorem statusBlock_length : (statusBlock p).length = 256 := by
  rw [statusBlock_eq sized, List.append_nil, fieldBytes_length, statusFields]
  simp

end

/-! ### Report records (R190) -/

/-- The kind fields of a record. -/
def bodyFields : RecordBody → List (Nat × Nat)
  | .pairReady _ n lf rf skew ls rs =>
    [(4, n), (4, lf.toNat), (4, rf.toNat), (3, signedBits 24 skew), (1, ls % 16 + 16 * (rs % 16))]
  | .frameLost _ f p x s e => [(4, f.toNat), (4, p.getD 0), (1, eyeCode x), (1, s.getD 0xFF), (1, boolCode e), (5, 0)]
  | .readerEvent _ r d p t o => [(1, readerCode r), (1, damageBits d), (2, 0), (4, p), (4, t.toNat), (4, o)]
  | .skewEvent _ f t d g => [(6, signedBits 48 f), (2, signedBits 16 t), (4, sampleBits d), (4, signedBits 32 g)]
  | .syncLost x c a r =>
    [(1, eyeCode x), (1, lossCauseCode c), (6, (a.map BitVec.toNat).getD 0), (4, signedBits 32 (r.getD 0)), (4, 0)]
  | .configRejected _ k l => [(1, sectionCode k), (1, boolCode l), (14, 0)]
  | .takeChange o n => [(4, o.toNat), (4, n.toNat), (8, 0)]
  | .memoryFault _ a k o src t n =>
    [(5, a), (1, kindCode k), (1, ownerRoleCode o), (1, src.toNat), (1, t), (1, (o.slot.map fun p => eyeCode p.1).getD 0xFF),
      (1, (o.slot.map Prod.snd).getD 0xFF), (1, 0), (4, n)]

/-- A record, field by field. -/
def recordFields (r : ReportRecord) : List (Nat × Nat) :=
  [(4, r.seq.toNat), (1, r.body.codes.1), (1, r.body.codes.2), (6, r.stamp.toNat), (4, r.take.toNat)] ++ bodyFields r.body

theorem recordBytes_eq (r : ReportRecord) : r.bytes = fieldBytes (recordFields r) ++ [] := by
  unfold ReportRecord.bytes recordFields
  cases r.body <;>
    simp only [RecordBody.bytes, bodyFields, fieldBytes, List.cons_append, List.nil_append, List.flatMap_cons, List.flatMap_nil,
      List.append_assoc, List.append_nil]

theorem recordBytes_length (r : ReportRecord) : r.bytes.length = 32 := by
  rw [recordBytes_eq, List.append_nil, fieldBytes_length]
  unfold recordFields
  cases r.body <;> rfl

theorem record_field {r : ReportRecord} {k n v : Nat} (found : fieldAt (recordFields r) k = some (n, v)) :
    (r.bytes.drop k).take n = leBytes n v := fieldBytes_at (recordBytes_eq r) found

/-! ### Records of the ports (R187) -/

def responseFields (e : Entry) : List (Nat × Nat) :=
  [(1, kindCode e.kind), (1, e.source.toNat), (1, e.ttag.toNat), (1, e.code.value), (2, e.length - 1), (2, 0)]

theorem responseBytes_eq (e : Entry) :
    responseBytes e = fieldBytes (responseFields e) ++ if e.kind = .read then e.data else [] := by
  simp only [responseBytes, responseFields, fieldBytes, List.flatMap_cons, List.flatMap_nil, List.append_assoc, List.append_nil]

def mportRequestFields (o : MOut) : List (Nat × Nat) :=
  [(1, kindCode o.kind), (1, o.source.toNat), (1, o.tag), (1, 0), (2, o.length - 1), (2, 0), (5, o.addr.toNat), (3, 0)]

theorem mportRequestBytes_eq (o : MOut) :
    mportRequestBytes o = fieldBytes (mportRequestFields o) ++ if o.kind = .write then o.data else [] := by
  simp only [mportRequestBytes, mportRequestFields, fieldBytes, List.flatMap_cons, List.flatMap_nil, List.append_assoc,
    List.append_nil]

/-- What follows the fields of a record. -/
theorem drop_fieldBytes {l : List (Nat × Nat)} {n : Nat} (size : fieldSize l = n) (rest : List Byte) :
    (fieldBytes l ++ rest).drop n = rest := by
  subst size
  rw [← fieldBytes_length, List.drop_left]

/-- The counters in the order of the status block (R189). -/
theorem counterPlaces : ∀ f ∈ ([(0x90, .lost .truncated), (0x94, .lost .syncLost), (0x98, .lost .timedOut), (0x9C, .lost .orphaned),
    (0xA0, .lost .partnerLost), (0xA4, .lost .starved), (0xA8, .pairsFormed), (0xAC, .discarded .unframed),
    (0xB0, .discarded .overrun), (0xB4, .discarded .spill), (0xB8, .clippedBytes), (0xBC, .rejected), (0xC0, .mFaults),
    (0xC4, .mTimeouts), (0xC8, .lateResponses), (0xCC, .unknownTags), (0xD0, .recordsWritten), (0xD4, .recordsLost),
    (0xD8, .periodFaults .left), (0xDC, .periodFaults .right)] : List (Nat × Counter)), f.1 = 0x90 + 4 * f.2.index := by decide

/-- Settles O57: the fields of the status block, each at its offset. -/
theorem statusBlockAndRecordsHaveTheirSizes : Obligations.StatusBlockAndRecordsHaveTheirSizes := by
  refine ⟨fun p sized => ?_, fun n v => ⟨leBytes_length n v, leBytes_getElem? n v⟩, fun r => ?_, fun v => ?_, fun o => ?_⟩
  · intro b holds flag ready post
    have ofPart : ∀ {k n v : Nat}, fieldAt (partFields p) k = some (n, v) → holds k n v := status_part sized
    have ofQueue : ∀ {k n v : Nat}, fieldAt (queueFields p) k = some (n, v) → holds (0x70 + k) n v := status_queue sized
    have ofSkew : ∀ {k n v : Nat}, fieldAt (skewFields p) k = some (n, v) → holds (0x80 + k) n v := status_skew sized
    have ofCounters : ∀ {k n v : Nat}, fieldAt (counterFields p ++ [(32, 0)]) k = some (n, v) → holds (0x90 + k) n v :=
      status_counters sized
    have newest : (p.newestReady.map (·.number)).getD 0 = match ready.getLast? with | none => 0 | some k => k.number := by
      show (ready.getLast?.map (·.number)).getD 0 = _
      cases ready.getLast? <;> rfl
    have oldest : (p.pairs.queue.head?.map (·.number)).getD 0 = match p.pairs.queue.head? with | none => 0 | some k => k.number := by
      cases p.pairs.queue.head? <;> rfl
    have posts : postStatesWord p = post .global + 4 * post .sync + 16 * post (.eye .left) + 64 * post (.eye .right) +
        256 * post (.reader .a) + 1024 * post (.reader .b) + 4096 * post (.reader .c) + 16384 * post (.reader .d) := by
      rw [postStatesWord_eq]
      simp only [postCode_eq]
      rfl
    refine ⟨statusBlock_length sized, ofPart rfl, ofPart rfl, ofPart rfl, ofPart rfl, ofPart rfl, ofPart rfl, ofPart rfl,
      posts ▸ ofPart rfl, ofPart rfl, ofPart rfl, fun x => ?_, fun r => ?_, ofQueue (k := 0) rfl,
      ?_, ?_, ofQueue (k := 12) rfl, ofSkew (k := 0) rfl,
      ofSkew (k := 6) rfl, ofSkew (k := 8) rfl, ofSkew (k := 12) rfl, ofSkew (k := 13) rfl, fun at1 c listed => ?_,
      ofCounters (k := 0x50) rfl⟩
    · have ofEye : ∀ {k n v : Nat}, fieldAt (eyeFields p x) k = some (n, v) →
          holds (eyePlace x + k) n v := status_eye sized x
      refine ⟨ofEye (k := 0) rfl, ofEye (k := 1) rfl, ofEye (k := 2) rfl, ofEye (k := 3) rfl, ofEye (k := 4) rfl, fun i small => ?_⟩
      have slot : fieldAt (eyeFields p x) (8 + i) =
          some (1, match (p.slots.get x)[i]? with | some r => slotStateCode r.state | none => 0xFF) := by
        interval_cases i <;> rfl
      have shown := ofEye slot
      rw [slotStateCode_eq] at shown
      rw [Nat.add_assoc]
      exact shown
    · have ofReader : ∀ {k n v : Nat}, fieldAt (readerFields p r) k = some (n, v) →
          holds (readerPlace r + k) n v := status_reader sized r
      have held : ((p.reader r).held.map HeldPair.number).getD 0 =
          match (p.reader r).held with | none => 0 | some h => h.number := by cases (p.reader r).held <;> rfl
      have holding := ofReader (k := 4) rfl
      rw [held] at holding
      exact ⟨ofReader (k := 0) rfl, ofReader (k := 1) rfl, holding, ofReader (k := 8) rfl⟩
    · have first := ofQueue (k := 4) rfl
      rwa [oldest] at first
    · have last := ofQueue (k := 8) rfl
      rwa [newest] at last
    · rw [show at1 = 0x90 + 4 * c.index from counterPlaces _ listed]
      exact ofCounters (counterFields_at p c)
  · have field : ∀ {k n v : Nat}, fieldAt (recordFields r) k = some (n, v) → (r.bytes.drop k).take n = leBytes n v := record_field
    intro holds kinds flag eye flags
    refine ⟨recordBytes_length r, field rfl, field rfl, field rfl, ?_⟩
    unfold recordFields at field
    cases body : r.body with
    | pairReady d n lf rf skew ls rs =>
      rw [body] at field
      exact ⟨⟨field rfl, field rfl⟩, field rfl, field rfl, field rfl, field rfl, field rfl⟩
    | frameLost reason f n x i ended =>
      rw [body] at field
      exact ⟨⟨field rfl, field rfl⟩, field rfl, field rfl, field rfl, field rfl, field rfl, field rfl⟩
    | readerEvent k who d n take o =>
      rw [body] at field
      exact ⟨⟨field rfl, field rfl⟩, field rfl, field rfl, field rfl, field rfl, field rfl, field rfl⟩
    | skewEvent k f trim d target =>
      rw [body] at field
      exact ⟨⟨field rfl, field rfl⟩, field rfl, field rfl, field rfl, field rfl⟩
    | syncLost x cause last reference =>
      rw [body] at field
      refine ⟨⟨field rfl, field rfl⟩, field rfl, field rfl, ?_, field rfl, field rfl⟩
      cases last <;> exact field rfl
    | configRejected reason k load =>
      rw [body] at field
      refine ⟨⟨field rfl, field rfl⟩, ?_, field rfl, field rfl⟩
      cases k with
      | global => exact field rfl
      | sync => exact field rfl
      | eye x => cases x <;> exact field rfl
      | reader r => cases r <;> exact field rfl
    | takeChange old new =>
      rw [body] at field
      exact ⟨⟨field rfl, field rfl⟩, field rfl, field rfl, field rfl⟩
    | memoryFault cause a k o source m n =>
      rw [body] at field
      refine ⟨⟨field rfl, field rfl⟩, field rfl, field rfl, field rfl, field rfl, field rfl, ?_, field rfl, field rfl⟩
      cases o with
      | entry e role => cases role <;> exact ⟨field rfl, field rfl⟩
      | injected i => exact ⟨field rfl, field rfl⟩
  · have field : ∀ {k n value : Nat}, fieldAt (responseFields v) k = some (n, value) →
        ((responseBytes v).drop k).take n = leBytes n value := fieldBytes_at (responseBytes_eq v)
    refine ⟨field rfl, field rfl, field rfl, field rfl, field rfl, field rfl, ?_⟩
    rw [responseBytes_eq, drop_fieldBytes (l := responseFields v) (by simp [responseFields])]
    cases v.kind <;> rfl
  · have field : ∀ {k n value : Nat}, fieldAt (mportRequestFields o) k = some (n, value) →
        ((mportRequestBytes o).drop k).take n = leBytes n value := fieldBytes_at (mportRequestBytes_eq o)
    refine ⟨field rfl, field rfl, field rfl, field rfl, field rfl, field rfl, field rfl, field rfl, ?_⟩
    rw [mportRequestBytes_eq, drop_fieldBytes (l := mportRequestFields o) (by simp [mportRequestFields])]
    cases o.kind <;> rfl

end Sys2Proof.Machine

/-! SUPPORT. RIG writes in the staged shadow: section by section, word by word, byte by byte (R173, R178). -/

namespace Sys2Proof.Machine

/-! ### Every section of the shadow changed -/

/-- The shadow with every section changed by `f`. -/
def Shadow.mapSections (f : Section → SectionShadow → SectionShadow) (s : Shadow) : Shadow :=
  { global := f .global s.global
    sync := f .sync s.sync
    eye := ⟨f (.eye .left) s.eye.left, f (.eye .right) s.eye.right⟩
    reader := ⟨f (.reader .a) s.reader.a, f (.reader .b) s.reader.b, f (.reader .c) s.reader.c, f (.reader .d) s.reader.d⟩ }

@[simp] theorem Shadow.mapSections_get (f : Section → SectionShadow → SectionShadow) (s : Shadow) (k : Section) :
    (s.mapSections f).get k = f k (s.get k) := by
  cases k with
  | global => rfl
  | sync => rfl
  | eye x => cases x <;> rfl
  | reader r => cases r <;> rfl

/-- Sections changed one after another change the shadow alone. -/
theorem foldl_onSection (f : Section → SectionShadow → SectionShadow) (l : List Section) (p : Part) :
    l.foldl (fun q k => q.onSection k (f k)) p =
      { p with rig := { p.rig with shadow := l.foldl (fun s k => s.set k (f k (s.get k))) p.rig.shadow } } := by
  induction l generalizing p with
  | nil => rfl
  | cons k ks ih =>
    rw [List.foldl_cons, ih]
    rfl

theorem Shadow.foldl_set (f : Section → SectionShadow → SectionShadow) (s : Shadow) :
    Section.all.foldl (fun s k => s.set k (f k (s.get k))) s = s.mapSections f := by
  obtain ⟨global, sync, ⟨left, right⟩, ⟨a, b, c, d⟩⟩ := s
  simp only [Section.all, List.foldl_cons, List.foldl_nil, Shadow.set, Shadow.get, PerEye.set, PerEye.get, PerReader.set,
    PerReader.get, Shadow.mapSections]

theorem onEverySection_eq (p : Part) (f : Section → SectionShadow → SectionShadow) :
    p.onEverySection f = { p with rig := { p.rig with shadow := p.rig.shadow.mapSections f } } := by
  unfold Part.onEverySection
  rw [foldl_onSection, Shadow.foldl_set]

theorem Shadow.set_get (s : Shadow) (k : Section) : s.set k (s.get k) = s := by
  cases k with
  | global => rfl
  | sync => rfl
  | eye x => cases x <;> rfl
  | reader r => cases r <;> rfl

theorem onSection_self {p : Part} {k : Section} {f : SectionShadow → SectionShadow}
    (same : f (p.rig.shadow.get k) = p.rig.shadow.get k) : p.onSection k f = p := by
  unfold Part.onSection
  show { p with rig := { p.rig with shadow := p.rig.shadow.set k (f (p.rig.shadow.get k)) } } = p
  rw [same, Shadow.set_get]

/-! ### The sections that a write touches -/

/-- A section that a write touches, away from its check word, is UNPOSTED (R173). -/
def unpostTouched (o n : Nat) (k : Section) (v : SectionShadow) : SectionShadow :=
  { v with post := if touchesSection o n k then .unposted else v.post }

theorem treatSection_of_no_check {o n : Nat} {k : Section} (p : Part) (away : touchesCheck o n k = false) :
    treatSection o n p k = p.onSection k (unpostTouched o n k) := by
  unfold treatSection
  rw [if_neg (by simp [away])]
  by_cases touched : touchesSection o n k = true
  · rw [if_pos touched]
    unfold unpostTouched
    simp [Part.setPost, touched]
  · rw [if_neg touched]
    exact (onSection_self (by simp [unpostTouched, touched])).symm

theorem treatSections_of_loading {p : Part} (o n : Nat) (loading : p.rig.partState = .loading) : treatSections o n p = p := by
  unfold treatSections
  rw [loading]

theorem treatSections_of_running {p : Part} (o n : Nat) (running : p.rig.partState = .running) :
    treatSections o n p = Section.all.foldl (treatSection o n) p := by
  unfold treatSections
  rw [running]

theorem treatSections_of_no_check {o n : Nat} {p : Part} (running : p.rig.partState = .running)
    (away : ∀ k, touchesCheck o n k = false) : treatSections o n p = p.onEverySection (unpostTouched o n) := by
  have each : treatSection o n = fun q k => q.onSection k (unpostTouched o n k) :=
    funext fun q => funext fun k => treatSection_of_no_check q (away k)
  rw [treatSections_of_running o n running, each]
  rfl

theorem coversWord_iff (o n w : Nat) : coversWord o n w = true ↔ o < w + 4 ∧ w < o + n := by simp [coversWord]

/-- A write that ends before the event clear word clears nothing (R180). -/
theorem clearEvents_of_before {o : Nat} {data : List Byte} (p : Part) (before : o + data.length ≤ 4092) :
    clearEvents o data p = p := by
  refine if_neg fun covers => ?_
  have reaches := ((coversWord_iff _ _ _).mp covers).2
  simp only [Config.eventClearOffset] at reaches
  omega

/-- The shadow after a write that covers no check word, or that comes during LOADING (R173, R178). -/
def Shadow.afterWrite (loading : Bool) (o : Nat) (data : List Byte) (s : Shadow) : Shadow :=
  s.mapSections fun k v =>
    let written := SectionShadow.write loading o data k v
    if loading then written else unpostTouched o data.length k written

theorem writeShadow_eq (o : Nat) (data : List Byte) (p : Part) :
    writeShadow o data p = { p with rig := { p.rig with
      shadow := p.rig.shadow.mapSections (SectionShadow.write (p.rig.partState == .loading) o data) } } :=
  onEverySection_eq p _

theorem writeShadow_partState (o : Nat) (data : List Byte) (p : Part) :
    (writeShadow o data p).rig.partState = p.rig.partState := by rw [writeShadow_eq]

theorem Shadow.mapSections_mapSections (f g : Section → SectionShadow → SectionShadow) (s : Shadow) :
    (s.mapSections f).mapSections g = s.mapSections fun k v => g k (f k v) := rfl

theorem rigUnitWrite_of_no_check {o : Nat} {data : List Byte} {p : Part}
    (away : p.rig.partState ≠ .loading → ∀ k, touchesCheck o data.length k = false) (before : o + data.length ≤ 4092) :
    rigUnitWrite o data p =
      { p with rig := { p.rig with shadow := p.rig.shadow.afterWrite (decide (p.rig.partState = .loading)) o data } } := by
  unfold rigUnitWrite
  rw [clearEvents_of_before _ before, writeShadow_eq]
  unfold Shadow.afterWrite
  cases state : p.rig.partState with
  | loading => exact treatSections_of_loading _ _ state
  | running =>
    refine (treatSections_of_no_check (by exact state) (away (by simp [state]))).trans ?_
    rw [onEverySection_eq, Shadow.mapSections_mapSections]
    rfl

theorem afterWrite_post (loading : Bool) (o : Nat) (data : List Byte) (s : Shadow) (k : Section) :
    ((s.afterWrite loading o data).get k).post =
      if loading = false ∧ touchesSection o data.length k = true then .unposted else (s.get k).post := by
  unfold Shadow.afterWrite
  rw [Shadow.mapSections_get]
  cases loading <;> simp [unpostTouched, SectionShadow.write]

theorem afterWrite_word {loading : Bool} {o j : Nat} {data : List Byte} {s : Shadow} {k : Section} {w : ShadowWord}
    (held : (s.get k).words[j]? = some w) :
    ((s.afterWrite loading o data).get k).words[j]? = some (w.write loading o data (sectionOffset k + 4 * j)) := by
  have written : ((s.afterWrite loading o data).get k).words = (SectionShadow.write loading o data k (s.get k)).words := by
    unfold Shadow.afterWrite
    rw [Shadow.mapSections_get]
    cases loading <;> rfl
  rw [written]
  unfold SectionShadow.write
  rw [mapFrom_getElem?, held, Nat.zero_add]
  rfl

/-! ### The bytes of a written word -/

theorem leNat_lt (l : List Byte) : leNat l < 256 ^ l.length := by
  induction l with
  | nil => simp [leNat]
  | cons b bs ih =>
    have small : b.toNat < 256 := b.isLt
    rw [leNat, List.length_cons, pow_succ]
    omega

theorem leNat_byte (l : List Byte) (i : Nat) : leNat l / 256 ^ i % 256 = (l.getD i 0).toNat := by
  induction l generalizing i with
  | nil => simp [leNat]
  | cons b bs ih =>
    have small : b.toNat < 256 := b.isLt
    cases i with
    | zero =>
      rw [leNat]
      simp only [pow_zero, Nat.div_one, List.getD_cons_zero]
      omega
    | succ i =>
      have next : leNat (b :: bs) / 256 = leNat bs := by
        rw [leNat]
        omega
      rw [pow_succ', ← Nat.div_div_eq_div_mul, next, ih]
      rfl

/-- Byte `i` of the word whose bytes, lowest first, are the list. -/
theorem extractLsb'_leNat {l : List Byte} (i : Nat) (sized : l.length = 4) :
    (BitVec.ofNat 32 (leNat l)).extractLsb' (8 * i) 8 = l.getD i 0 := by
  have small : leNat l < 2 ^ 32 := by
    have bound := leNat_lt l
    rw [sized] at bound
    omega
  refine BitVec.eq_of_toNat_eq ?_
  rw [BitVec.extractLsb'_toNat, BitVec.toNat_ofNat, Nat.mod_eq_of_lt small, Nat.shiftRight_eq_div_pow, Nat.pow_mul]
  exact leNat_byte l i

theorem writtenWord_byte (o place i : Nat) (data : List Byte) (old : Word) (inside : i < 4) :
    (writtenWord o data place old).extractLsb' (8 * i) 8 =
      if o ≤ place + i ∧ place + i < o + data.length then data.getD (place + i - o) 0 else old.extractLsb' (8 * i) 8 := by
  have kept : BitVec.ofNat 8 (old.toNat / 256 ^ i) = old.extractLsb' (8 * i) 8 := by
    refine BitVec.eq_of_toNat_eq ?_
    rw [BitVec.extractLsb'_toNat, BitVec.toNat_ofNat, Nat.shiftRight_eq_div_pow, Nat.pow_mul]
  unfold writtenWord
  rw [extractLsb'_leNat i (by rw [mapFrom_length, leBytes_length]), List.getD_eq_getElem?_getD, mapFrom_getElem?,
    leBytes_getElem? _ _ _ inside, ← kept, Nat.zero_add, Option.map_some, Option.getD_some]
  by_cases written : o ≤ place + i ∧ place + i < o + data.length
  · have listed : place + i - o < data.length := by omega
    rw [if_pos written, if_pos written, List.getD_eq_getElem _ _ listed, List.getD_eq_getElem _ _ listed]
  · rw [if_neg written, if_neg written]

/-! ### RIG_WRITE -/

/-- A WRITE handed on as one piece from the entry it has just taken (R149). -/
theorem passOn_taken {p : Part} {q : Request} {e : Nat} (write : q.kind = .write) (unused : unusedEntry p = some e) :
    passOn e q (p.taken e (entryOf q .rig 0)) = { p with
      req := p.req.waiting e { entryOf q .rig 0 with outstanding := 1 }
      txn := { p.txn with
        issue := p.txn.issue ++
          [[{ kind := .write, addr := q.addr.toNat, length := q.length, data := q.data, source := q.source, entry := e,
              role := .passThrough }]] } } := by
  unfold passOn
  rw [handOn_taken _ _ _ _ unused, write]
  rfl

/-- A RIG write goes through the rig unit and on as one piece (R148, R149). -/
theorem exec_rigWrite {test : Nat → Nat → Bool} {s : State} {q : Request} {e o : Nat} {u : Part}
    (running : s.hw.resetAsserted = false) (accepts : s.hw.Accepts q e .rig o) (write : q.kind = .write)
    (named : test o q.length = true) (work : passOn e q (rigUnitWrite o q.data (s.hw.taken e (entryOf q .rig 0))) = u) :
    whenRunning (handleHead (isRigWrite test)) s = .next { s with hw := markChanged s.hw u } := by
  obtain ⟨base, classified, rfl⟩ := accepts.cls
  refine exec_handle running accepts ((isRigWrite_iff _ _ _).mpr ⟨write, base, classified, named⟩) (Eq.trans ?_ work)
  simp [toOwner, write, entryOffset]

/-- A WRITE that passes the checks brings as many bytes as its length says (R141, R144). -/
theorem Part.Accepts.data_sized {p : Part} {q : Request} {e o : Nat} {cls : ReqClass} (accepts : p.Accepts q e cls o)
    (write : q.kind = .write) (whole : q.Whole) : q.data.length = q.length := by
  have defined : q.kindByte = 0 ∨ q.kindByte = 1 := by
    have passes := accepts.passes
    simp only [isRefused, Request.badHeader, Request.kindDefined, Bool.or_eq_false_iff] at passes
    simpa [-not_or, or_iff_not_imp_left] using passes.1.1.1.1.2
  have notRead : q.kindByte ≠ 0 := by simpa [Request.kind] using write
  exact whole.2.2 (defined.resolve_left notRead)

/-- Settles O42, word by word and, where a word is written in part, byte by byte. -/
theorem rigWritesLandInTheShadow : Obligations.RigWritesLandInTheShadow := by
  refine ⟨?_, fun o place i data old inside => writtenWord_byte o place i data old inside⟩
  intro q e o s running accepts write whole loading away before
  have sized : q.data.length = q.length := accepts.data_sized write whole
  refine ⟨s.hw.rig.shadow.afterWrite loading o q.data, ?_, fun k => ⟨?_, fun j w held => ?_⟩⟩
  · refine exec_rigWrite running accepts write rfl ?_
    rw [rigUnitWrite_of_no_check (fun notLoading => ?_) (by omega)]
    · exact passOn_taken (p := { s.hw with rig := { s.hw.rig with shadow := s.hw.rig.shadow.afterWrite loading o q.data } })
        write accepts.unused
    · rw [sized]
      exact away (decide_eq_false notLoading)
  · rw [afterWrite_post, sized]
  · rw [afterWrite_word held]
    unfold ShadowWord.write
    rw [sized]
    simp only [coversWord_iff]

end Sys2Proof.Machine

/-! SUPPORT. The event clear word (R180): where its write meets a staged section that has a word in the same place. -/

namespace Sys2Proof.Machine

/-- A write of four bytes 0xFF to the event clear word. -/
def clearingWrite : Request :=
  { kindByte := 1, source := 0, ttag := 0, addr := 4092, length := 4, data := List.replicate 4 0xFF, stray := false }

/-- The write waits, and the staged GLOBAL section has 1024 words where the rig table gives it 9: its last is at offset 4092. -/
def overlongShadow : State :=
  { hw := { Part.reset 0 with
      resetAsserted := false
      req := { RequestPath.reset with intake := [clearingWrite] }
      rig := { RigUnit.reset 0 with shadow := { (RigUnit.reset 0).shadow with
        global := { words := List.replicate 1024 { value := 0, written := false, faulted := false }, post := .unposted } } } }
    pending := [] }

theorem overlongShadow_accepts : overlongShadow.hw.Accepts clearingWrite 0 .rig 4092 where
  first := rfl
  unused := by decide +kernel
  passes := by decide +kernel
  cls := ⟨0, by decide +kernel, rfl⟩

/-- The last staged word of the GLOBAL section. -/
def lastGlobalWord (p : Part) : Option Word := p.rig.shadow.global.words[1023]?.map (·.value)

/-- The last staged word after the event clear word has been written. -/
def lastGlobalWordAfter (s : State) : Option Word :=
  match exec .eventClearWord s with
  | .next t => lastGlobalWord t.hw
  | _ => none

/-- Refutes O47: nothing in the statement bounds the staged sections, and one of 1024 words has a word at offset 4092, where the
write lands; so `t.hw.rig = s.hw.rig` fails. -/
theorem not_eventClearWordClearsFlags : ¬ Obligations.EventClearWordClearsFlags := by
  intro h
  obtain ⟨t, step, _, _, _, _, _, _, rig, _⟩ := h clearingWrite 0 4092 overlongShadow rfl overlongShadow_accepts (by decide)
    (by unfold Request.Whole; decide) (by decide) (by decide)
  have before : lastGlobalWord overlongShadow.hw = some 0 := by decide +kernel
  have after : lastGlobalWordAfter overlongShadow = some 0xFFFFFFFF := by decide +kernel
  have same : lastGlobalWordAfter overlongShadow = lastGlobalWord overlongShadow.hw := by
    unfold lastGlobalWordAfter lastGlobalWord
    rw [step, ← rig]
  rw [same, before] at after
  exact absurd after (by decide)

end Sys2Proof.Machine

/-! SUPPORT. Writes that cover a check word: what the sections that they touch become (R173, R174, R175). -/

namespace Sys2Proof.Machine

/-! ### Sections touched away from their check words -/

/-- The part with another staged shadow. -/
def Part.withShadow (p : Part) (s : Shadow) : Part := { p with rig := { p.rig with shadow := s } }

/-- From `s` to `t` section `k` stays, and every other section at most becomes UNPOSTED. -/
structure Shadow.UnpostsOthers (k : Section) (s t : Shadow) : Prop where
  kept : t.get k = s.get k
  others : ∀ j, (t.get j).post = .unposted ∨ (t.get j).post = (s.get j).post

theorem Shadow.UnpostsOthers.refl (k : Section) (s : Shadow) : s.UnpostsOthers k s where
  kept := rfl
  others _ := .inr rfl

theorem Shadow.UnpostsOthers.trans {k : Section} {s t u : Shadow} (first : s.UnpostsOthers k t) (next : t.UnpostsOthers k u) :
    s.UnpostsOthers k u where
  kept := next.kept.trans first.kept
  others j := (next.others j).elim .inl fun same => same ▸ first.others j

theorem treatSection_unpostsOthers {o n : Nat} {k j : Section} (p : Part) (away : touchesCheck o n j = false) (other : j ≠ k) :
    ∃ s, p.rig.shadow.UnpostsOthers k s ∧ treatSection o n p j = p.withShadow s := by
  refine ⟨_, ⟨?_, fun i => ?_⟩, treatSection_of_no_check p away⟩
  · rw [Shadow.get_set, if_neg other]
  · rw [Shadow.get_set]
    by_cases same : j = i
    · subst same
      by_cases touched : touchesSection o n j = true <;> simp [unpostTouched, touched]
    · exact .inr (by rw [if_neg same])

theorem foldl_treatSection_unpostsOthers {o n : Nat} {k : Section} {l : List Section}
    (away : ∀ j ∈ l, touchesCheck o n j = false) (others : k ∉ l) (p : Part) :
    ∃ s, p.rig.shadow.UnpostsOthers k s ∧ l.foldl (treatSection o n) p = p.withShadow s := by
  induction l generalizing p with
  | nil => exact ⟨_, .refl k _, rfl⟩
  | cons j js ih =>
    obtain ⟨s, first, step⟩ := treatSection_unpostsOthers p (away j List.mem_cons_self) (List.ne_of_not_mem_cons others).symm
    obtain ⟨t, rest, steps⟩ := ih (fun i listed => away i (List.mem_cons_of_mem j listed))
      (fun listed => others (List.mem_cons_of_mem j listed)) (p.withShadow s)
    refine ⟨t, first.trans rest, ?_⟩
    rw [List.foldl_cons, step, steps]
    rfl

theorem Section.all_split (k : Section) : ∃ before after, Section.all = before ++ k :: after ∧ k ∉ before ∧ k ∉ after := by
  have listed : k ∈ Section.all := by
    cases k with
    | global => decide
    | sync => decide
    | eye x => cases x <;> decide
    | reader r => cases r <;> decide
  have distinct : Section.all.Nodup := by decide
  obtain ⟨before, after, split⟩ := List.append_of_mem listed
  rw [split, List.nodup_append] at distinct
  obtain ⟨_, tail, apart⟩ := distinct
  exact ⟨before, after, split, fun early => apart k early k List.mem_cons_self rfl, (List.nodup_cons.mp tail).1⟩

/-- A write in RUNNING that covers the check word of section `k` alone posts that section; the others it touches are UNPOSTED. -/
theorem treatSections_of_one_check {o n : Nat} {k : Section} {p : Part} (running : p.rig.partState = .running)
    (only : ∀ j, touchesCheck o n j = true ↔ j = k) :
    ∃ s t, p.rig.shadow.UnpostsOthers k s ∧ (postSection k (p.withShadow s)).rig.shadow.UnpostsOthers k t ∧
      treatSections o n p = (postSection k (p.withShadow s)).withShadow t := by
  obtain ⟨before, after, split, early, late⟩ := k.all_split
  have away : ∀ {l : List Section}, k ∉ l → ∀ j ∈ l, touchesCheck o n j = false := fun absent j listed =>
    Bool.eq_false_iff.mpr fun covers => absent ((only j).mp covers ▸ listed)
  obtain ⟨s, first, beforeStep⟩ := foldl_treatSection_unpostsOthers (away early) early p
  obtain ⟨t, last, afterStep⟩ := foldl_treatSection_unpostsOthers (away late) late (postSection k (p.withShadow s))
  refine ⟨s, t, first, last, ?_⟩
  have posts : treatSection o n (p.withShadow s) k = postSection k (p.withShadow s) := if_pos ((only k).mpr rfl)
  rw [treatSections_of_running o n running, split, List.foldl_append, List.foldl_cons, beforeStep, posts, afterStep]

/-! ### The section whose check word is covered -/

theorem postSection_of_mismatch {k : Section} {p : Part} (wrong : checkMatches (p.staged k) = false) :
    postSection k p = rejectSection k .check false p := if_neg (by simp [wrong])

theorem postSection_of_match {k : Section} {p : Part} (right : checkMatches (p.staged k) = true) :
    postSection k p = latchIfDue k (p.setPost k .posted) := if_pos right

/-- The latch point of the section has not come: it waits POSTED (R174). -/
def Part.waitsToLatch (p : Part) (k : Section) : Prop :=
  (∃ x, k = .eye x ∧ (p.stream x).state ≠ .off ∧ (p.stream x).state ≠ .waitingSync) ∨
    ∃ r, k = .reader r ∧ (p.reader r).state ≠ .idle ∧ (p.reader r).state ≠ .unbound

theorem latchIfDue_of_waits {k : Section} {p : Part} (waits : p.waitsToLatch k) : latchIfDue k p = p := by
  rcases waits with ⟨x, rfl, on, synced⟩ | ⟨r, rfl, busy, bound⟩
  · exact if_neg (by simp [on, synced])
  · exact if_neg (by simp [busy, bound])

/-! ### The write as a whole -/

/-- The last check word ends at offset 368 and a write has at most 512 bytes: it ends before the event clear word. -/
theorem before_clear_of_touchesCheck {o n : Nat} {k : Section} (covers : touchesCheck o n k = true) (short : n ≤ 512) :
    o + n ≤ 4092 := by
  have start := ((coversWord_iff _ _ _).mp covers).1
  have place : checkOffset k ≤ 364 := by
    cases k with
    | global => decide
    | sync => decide
    | eye x => cases x <;> decide
    | reader r => cases r <;> decide
  omega

theorem touchesSomeCheck_of_touchesCheck {o n : Nat} {k : Section} (covers : touchesCheck o n k = true) :
    touchesSomeCheck o n = true := by
  obtain ⟨before, after, split, _⟩ := k.all_split
  unfold touchesSomeCheck
  rw [split]
  simp [covers]

/-- A request path and transactions that stand as they did when the request was taken take the piece (R149). -/
theorem passOn_of_taken {p u : Part} {q : Request} {e : Nat} (write : q.kind = .write) (unused : unusedEntry p = some e)
    (req : u.req = p.req.waiting e (entryOf q .rig 0)) (txn : u.txn = p.txn) :
    passOn e q u = { u with
      req := p.req.waiting e { entryOf q .rig 0 with outstanding := 1 }
      txn := { p.txn with issue := p.txn.issue ++ [[q.asPiece e]] } } := by
  have taken : u = ({ u with req := p.req } : Part).taken e (entryOf q .rig 0) := by
    unfold Part.taken
    rw [← req]
  have passed := passOn_taken (p := { u with req := p.req }) write unused
  rw [← taken] at passed
  rw [passed, ← txn]
  unfold Request.asPiece
  rw [write]

/-- What the request path and the transactions hold is no matter of the rig unit (R148). -/
theorem holdsRig (req : RequestPath) (txn : TxnUnit) : RigMoves fun p => p.req = req ∧ p.txn = txn where
  rig _ _ h := h
  skew _ _ h := h
  stream _ _ _ h := h
  slots _ _ _ h := h
  pairs _ _ h := h
  ctx _ _ h := h
  report _ _ _ h := h
  flag _ _ h := by simpa using h

/-- A write that covers a check word: the sections are treated, and it goes on as one piece (R148, R149, R173). -/
theorem exec_checkWordWrite {s : State} {q : Request} {e o : Nat} {k : Section} (running : s.hw.resetAsserted = false)
    (accepts : s.hw.Accepts q e .rig o) (write : q.kind = .write) (whole : q.Whole) (covers : touchesCheck o q.length k = true) :
    exec .checkWordWrite s = .next { s with hw := markChanged s.hw {
      treatSections o q.length (writeShadow o q.data (s.hw.taken e (entryOf q .rig 0))) with
        req := s.hw.req.waiting e { entryOf q .rig 0 with outstanding := 1 }
        txn := { s.hw.txn with issue := s.hw.txn.issue ++ [[q.asPiece e]] } } } := by
  have sized := accepts.data_sized write whole
  refine exec_rigWrite running accepts write (touchesSomeCheck_of_touchesCheck covers) ?_
  have before := before_clear_of_touchesCheck covers whole.2.1
  unfold rigUnitWrite
  rw [clearEvents_of_before _ (by omega)]
  obtain ⟨req, txn⟩ := (holdsRig _ _).treatSections o q.data (s.hw.taken e (entryOf q .rig 0)) ⟨rfl, rfl⟩
  rw [sized] at req txn ⊢
  exact passOn_of_taken write accepts.unused req txn

/-- A write in RUNNING that covers the check word of section `k` alone: from a shadow `a`, in which section `k` holds what has
been written and no section has been posted, section `k` is posted, and then others become UNPOSTED. -/
theorem exec_oneCheckWord {s : State} {q : Request} {e o : Nat} {k : Section} (running : s.hw.resetAsserted = false)
    (accepts : s.hw.Accepts q e .rig o) (write : q.kind = .write) (whole : q.Whole) (state : s.hw.rig.partState = .running)
    (only : ∀ j, touchesCheck o q.length j = true ↔ j = k) :
    ∃ a t : Shadow, (∀ j, (a.get j).post = .unposted ∨ (a.get j).post = s.hw.post j) ∧
      (a.get k).values = (writeShadow o q.data s.hw).staged k ∧
      (postSection k ((s.hw.taken e (entryOf q .rig 0)).withShadow a)).rig.shadow.UnpostsOthers k t ∧
      exec .checkWordWrite s = .next { s with hw := markChanged s.hw {
        (postSection k ((s.hw.taken e (entryOf q .rig 0)).withShadow a)).withShadow t with
          req := s.hw.req.waiting e { entryOf q .rig 0 with outstanding := 1 }
          txn := { s.hw.txn with issue := s.hw.txn.issue ++ [[q.asPiece e]] } } } := by
  let w := s.hw.rig.shadow.mapSections (SectionShadow.write (s.hw.rig.partState == .loading) o q.data)
  have taken : writeShadow o q.data (s.hw.taken e (entryOf q .rig 0)) = (s.hw.taken e (entryOf q .rig 0)).withShadow w :=
    writeShadow_eq _ _ _
  obtain ⟨a, t, first, last, treated⟩ :=
    treatSections_of_one_check (p := (s.hw.taken e (entryOf q .rig 0)).withShadow w) state only
  have posts : ∀ j, (w.get j).post = s.hw.post j := fun j => congrArg (·.post) (Shadow.mapSections_get _ _ j)
  refine ⟨a, t, fun j => posts j ▸ first.others j, ?_, last, ?_⟩
  · rw [first.kept, writeShadow_eq]
    rfl
  · rw [exec_checkWordWrite running accepts write whole ((only k).mpr rfl), taken, treated]
    rfl

end Sys2Proof.Machine

/-! SUPPORT. The checks of a section at its latch point, as inequalities of its fields (R175, R176, R44, R90, R96). -/

namespace Sys2Proof.Machine

/-! ### Regions that overlap -/

/-- The run of `m` bytes from `a` and the run of `n` bytes from `b` share an address. -/
def Meets (a m b n : Nat) : Prop := a < b + n ∧ b < a + m

theorem overlaps_iff (a b : Region) : a.overlaps b = true ↔ Meets a.base a.size b.base b.size := by
  simp [Region.overlaps, Meets]

/-- A claim about one of two regions, by its base and size. -/
theorem exists_region_iff {P : Nat → Nat → Prop} (a m b n : Nat) :
    (∃ c k, (c = a ∧ k = m ∨ c = b ∧ k = n) ∧ P c k) ↔ P a m ∨ P b n := by
  constructor
  · rintro ⟨c, k, ⟨rfl, rfl⟩ | ⟨rfl, rfl⟩, holds⟩
    · exact .inl holds
    · exact .inr holds
  · rintro (holds | holds)
    · exact ⟨a, m, .inl ⟨rfl, rfl⟩, holds⟩
    · exact ⟨b, n, .inr ⟨rfl, rfl⟩, holds⟩

theorem Eye.exists_iff {P : Eye → Prop} : (∃ x, P x) ↔ P .left ∨ P .right := by
  constructor
  · rintro ⟨x, holds⟩
    cases x with
    | left => exact .inl holds
    | right => exact .inr holds
  · rintro (holds | holds)
    · exact ⟨.left, holds⟩
    · exact ⟨.right, holds⟩

theorem reportRegion_size (g : GlobalSettings) : (reportRegion g).size = 256 + 32 * g.ringSize := by
  simp [reportRegion, Config.statusBytes, Config.recordBytes, Nat.mul_comm]

/-- A region of a GLOBAL section meets the rig table, a capture window or a pool in force (R176). -/
def Part.meetsEyes (p : Part) (a n : Nat) : Prop :=
  Meets a n (2 ^ 37 * p.rig.rigsel.toNat) 4096 ∨
    ∃ x, Meets a n (p.eyeSettings x).captureBase (2 ^ 28) ∨
      Meets a n (p.eyeSettings x).poolBase ((p.eyeSettings x).slotCount * (p.eyeSettings x).slotStride)

theorem any_overlaps_eyes_iff (p : Part) (r : Region) :
    [rigRegion p, captureRegion (p.eyeSettings .left), poolRegion (p.eyeSettings .left), captureRegion (p.eyeSettings .right),
      poolRegion (p.eyeSettings .right)].any r.overlaps = true ↔ p.meetsEyes r.base r.size := by
  unfold Part.meetsEyes
  simp only [List.any_cons, List.any_nil, Bool.or_false, Bool.or_eq_true, overlaps_iff, Eye.exists_iff, rigRegion, captureRegion,
    poolRegion, Config.rigStep, Config.page, Config.captureWindowBytes, or_assoc, Nat.reducePow]

theorem globalOverlaps_iff (p : Part) (g : GlobalSettings) :
    globalOverlaps p g = true ↔
      Meets g.windowBase (2 ^ 29) g.reportBase (256 + 32 * g.ringSize) ∨
        ∃ a n, (a = g.windowBase ∧ n = 2 ^ 29 ∨ a = g.reportBase ∧ n = 256 + 32 * g.ringSize) ∧ p.meetsEyes a n := by
  unfold globalOverlaps
  simp only [Bool.or_eq_true]
  rw [overlaps_iff, any_overlaps_eyes_iff, any_overlaps_eyes_iff, exists_region_iff, reportRegion_size, or_assoc]
  rfl

/-- A region of an EYE section meets the rig table, the other eye's window or pool, the report region, the pair window in force
or one that waits (R176). -/
def Part.meetsOthers (p : Part) (x : Eye) (a n : Nat) : Prop :=
  Meets a n (2 ^ 37 * p.rig.rigsel.toNat) 4096 ∨ Meets a n (p.eyeSettings x.other).captureBase (2 ^ 28) ∨
    Meets a n (p.eyeSettings x.other).poolBase ((p.eyeSettings x.other).slotCount * (p.eyeSettings x.other).slotStride) ∨
    Meets a n p.rig.global.reportBase (256 + 32 * p.rig.global.ringSize) ∨ Meets a n p.rig.global.windowBase (2 ^ 29) ∨
    ∃ w, p.rig.windowChange = some w ∧ Meets a n w.base (2 ^ 29)

theorem any_overlaps_windows_iff (p : Part) (r : Region) :
    (windowRegions p).any r.overlaps = true ↔
      Meets r.base r.size p.rig.global.windowBase (2 ^ 29) ∨
        ∃ w, p.rig.windowChange = some w ∧ Meets r.base r.size w.base (2 ^ 29) := by
  unfold windowRegions
  rw [List.any_cons, Bool.or_eq_true, overlaps_iff]
  refine or_congr Iff.rfl ?_
  cases p.rig.windowChange with
  | none => simp
  | some w => simp [overlaps_iff, Config.pairWindowBytes]

theorem any_overlaps_others_iff (p : Part) (x : Eye) (r : Region) :
    ([rigRegion p, captureRegion (p.eyeSettings x.other), poolRegion (p.eyeSettings x.other), reportRegion p.rig.global] ++
      windowRegions p).any r.overlaps = true ↔ p.meetsOthers x r.base r.size := by
  unfold Part.meetsOthers
  rw [List.any_append, Bool.or_eq_true, any_overlaps_windows_iff]
  simp only [List.any_cons, List.any_nil, Bool.or_false, Bool.or_eq_true, overlaps_iff, reportRegion_size, or_assoc]
  rfl

theorem eyeOverlaps_iff (p : Part) (x : Eye) (e : EyeSettings) :
    eyeOverlaps p x e = true ↔
      Meets e.captureBase (2 ^ 28) e.poolBase (e.slotCount * e.slotStride) ∨
        ∃ a n, (a = e.captureBase ∧ n = 2 ^ 28 ∨ a = e.poolBase ∧ n = e.slotCount * e.slotStride) ∧ p.meetsOthers x a n := by
  unfold eyeOverlaps
  simp only [Bool.or_eq_true]
  rw [overlaps_iff, any_overlaps_others_iff, any_overlaps_others_iff, exists_region_iff, or_assoc]
  rfl

/-! ### The other checks -/

theorem geometryFits_iff (g : Geometry) :
    geometryFits g = true ↔
      g.width * g.pixelBytes ≤ 49152 ∧ g.pitch % 64 = 0 ∧ g.width * g.pixelBytes ≤ g.pitch ∧ g.pitch ≤ 65536 := by
  unfold geometryFits Geometry.lineBytes
  rw [Bool.and_eq_true, Bool.and_eq_true, Bool.and_eq_true, decide_eq_true_iff, decide_eq_true_iff, decide_eq_true_iff, beq_iff_eq,
    and_assoc, and_assoc]

theorem bandFits_iff (g : Geometry) :
    bandFits g = true ↔ g.top + g.bottom < g.lines ∧ g.shift.natAbs + g.top + g.bottom < g.lines := by
  simp only [bandFits, Bool.and_eq_true, decide_eq_true_eq]
  omega

theorem samePool_iff (a b : EyeSettings) :
    samePool a b = true ↔ a.poolBase = b.poolBase ∧ a.slotCount = b.slotCount ∧ a.slotStride = b.slotStride := by
  simp [samePool, and_assoc]

theorem poolFits_iff (p : Part) (x : Eye) (e : EyeSettings) :
    poolFits p x e = true ↔
      e.geom.pitch * e.geom.lines ≤ e.slotStride ∧
        ((e.poolBase = (p.eyeSettings x).poolBase ∧ e.slotCount = (p.eyeSettings x).slotCount ∧
            e.slotStride = (p.eyeSettings x).slotStride) ∨
          ((p.stream x).state = .off ∧ (∀ r ∈ p.slots.get x, r.state = .free) ∧ 3 ≤ e.slotCount ∧ e.slotCount ≤ 8 ∧
            e.poolBase % 4096 = 0 ∧ e.slotStride % 4096 = 0 ∧ e.poolBase + e.slotCount * e.slotStride ≤ 2 ^ 40)) := by
  unfold poolFits
  rw [Bool.and_eq_true, Bool.or_eq_true, samePool_iff]
  simp [Config.addressSpace, and_assoc]

/-- The READER check fails: an enabled reader with the part's own source tag or one that another enabled reader has (R90). -/
def Part.sharesTag (p : Part) (r : ReaderId) (v : ReaderSettings) : Prop :=
  v.enabled = true ∧ (v.sourceTag = 63 ∨
    ∃ k, k ≠ r ∧ (p.readerSettings k).enabled = true ∧ (p.readerSettings k).sourceTag = v.sourceTag)

theorem mem_allReaders (r : ReaderId) : r ∈ allReaders := by cases r <;> decide

theorem tagTaken_iff (p : Part) (r : ReaderId) (tag : Nat) :
    tagTaken p r tag = true ↔ ∃ k, k ≠ r ∧ (p.readerSettings k).enabled = true ∧ (p.readerSettings k).sourceTag = tag := by
  simp [tagTaken, mem_allReaders, and_assoc]

theorem sharesTag_iff (p : Part) (r : ReaderId) (v : ReaderSettings) :
    (v.enabled && (v.sourceTag == Config.ownSource || tagTaken p r v.sourceTag)) = true ↔ p.sharesTag r v := by
  rw [Bool.and_eq_true, Bool.or_eq_true, tagTaken_iff, beq_iff_eq]
  rfl

/-! ### The first check that fails -/

theorem validateGlobal_of_unread {p : Part} {ws : List Word} (unread : parseGlobal ws = none) :
    validateGlobal p ws = .error .range := by
  unfold validateGlobal
  rw [unread]

theorem validateGlobal_of_read {p : Part} {ws : List Word} {g : GlobalSettings} (read : parseGlobal ws = some g) :
    validateGlobal p ws = if globalOverlaps p g then .error .overlap else .ok g := by
  unfold validateGlobal
  rw [read]

theorem validateEye_of_unread {p : Part} {x : Eye} {ws : List Word} (unread : parseEye ws = none) :
    validateEye p x ws = .error .range := by
  unfold validateEye
  rw [unread]

theorem validateEye_of_read {p : Part} {x : Eye} {ws : List Word} {e : EyeSettings} (read : parseEye ws = some e) :
    validateEye p x ws =
      if !geometryFits e.geom then .error .geometry
      else if !bandFits e.geom then .error .band
      else if !poolFits p x e then .error .pool
      else if eyeOverlaps p x e then .error .overlap
      else .ok e := by
  unfold validateEye
  rw [read]

theorem validateReader_of_unread {p : Part} {r : ReaderId} {ws : List Word} (unread : parseReader ws = none) :
    validateReader p r ws = .error .range := by
  unfold validateReader
  rw [unread]

theorem validateReader_of_read {p : Part} {r : ReaderId} {ws : List Word} {v : ReaderSettings} (read : parseReader ws = some v) :
    validateReader p r ws =
      if v.enabled && (v.sourceTag == Config.ownSource || tagTaken p r v.sourceTag) then .error .reader else .ok v := by
  unfold validateReader
  rw [read]

/-! ### The obligation -/

theorem rejectSection_eq (k : Section) (reason : RejectReason) (loadFault : Bool) (p : Part) :
    rejectSection k reason loadFault p = p.withRejected k reason loadFault := by
  unfold rejectSection queueRecordNow Part.withRejected
  simp only [Part.now, Part.take, setFlag_sync, setFlag_rig]
  rfl

/-- The part with section `k` rejected for its check word. -/
theorem rejectSection_report {k : Section} {reason : RejectReason} {p : Part} (room : p.report.queue.length < 16) :
    (rejectSection k reason false p).report.flags.getLsbD EventFlag.configRejected.bit = true ∧
      (rejectSection k reason false p).report.queue = p.report.queue ++
        [{ seq := p.report.seq, stamp := p.now, take := p.take, body := .configRejected reason k false }] := by
  unfold rejectSection queueRecordNow
  constructor
  · exact queueRecord_keeps _ _ _ _ _ (setFlag_bit _ _)
  · rw [queueRecord_room _ _ _ _ (by simpa using room)]
    simp [Part.now, Part.take]

theorem validateEye_cases {p : Part} {x : Eye} {ws : List Word} {e : EyeSettings} (read : parseEye ws = some e) :
    (¬geometryFits e.geom = true → validateEye p x ws = .error .geometry) ∧
    (geometryFits e.geom = true → ¬bandFits e.geom = true → validateEye p x ws = .error .band) ∧
    (geometryFits e.geom = true → bandFits e.geom = true → ¬poolFits p x e = true → validateEye p x ws = .error .pool) ∧
    (geometryFits e.geom = true → bandFits e.geom = true → poolFits p x e = true → eyeOverlaps p x e = true →
      validateEye p x ws = .error .overlap) ∧
    (geometryFits e.geom = true → bandFits e.geom = true → poolFits p x e = true → ¬eyeOverlaps p x e = true →
      validateEye p x ws = .ok e) := by
  rw [validateEye_of_read read]
  refine ⟨fun geometry => ?_, fun geometry band => ?_, fun geometry band pool => ?_, fun geometry band pool overlap => ?_,
    fun geometry band pool overlap => ?_⟩
  · simp [geometry]
  · simp [geometry, band]
  · simp [geometry, band, pool]
  · simp [geometry, band, pool, overlap]
  · simp [geometry, band, pool, overlap]

/-- Settles O43: the two outcomes of one check word, what goes on, the sections in their order, and the checks. -/
theorem checkWordsRejectOrPost : Obligations.CheckWordsRejectOrPost := by
  refine ⟨?_, ?_, ?_, ?_, ?_⟩
  · intro k q e o s running accepts write whole state only wrong room
    obtain ⟨a, t, posts, staged, last, step⟩ := exec_oneCheckWord running accepts write whole state only
    have mismatch : checkMatches (((s.hw.taken e (entryOf q .rig 0)).withShadow a).staged k) = false :=
      (congrArg checkMatches staged).trans wrong
    rw [postSection_of_mismatch mismatch] at last step
    obtain ⟨flag, record⟩ := rejectSection_report (k := k) (reason := .check)
      (p := (s.hw.taken e (entryOf q .rig 0)).withShadow a) room
    refine ⟨_, step, rfl, ?_, fun j other => ?_, ?_, flag, record, ?_⟩
    · refine (congrArg (·.post) last.kept).trans ?_
      simp [rejectSection]
    · have rejected : ((rejectSection k .check false ((s.hw.taken e (entryOf q .rig 0)).withShadow a)).rig.shadow.get j).post =
          (a.get j).post := by simp [rejectSection, other.symm, Part.withShadow]
      exact (last.others j).elim .inl fun same => (posts j).imp (same.trans rejected).trans (same.trans rejected).trans
    · simp [Part.withShadow, rejectSection, Part.taken]
    · simp [Part.withShadow, rejectSection, Part.taken]
  · intro k q e o s running accepts write whole state only right waits
    obtain ⟨a, t, posts, staged, last, step⟩ := exec_oneCheckWord running accepts write whole state only
    have matched : checkMatches (((s.hw.taken e (entryOf q .rig 0)).withShadow a).staged k) = true :=
      (congrArg checkMatches staged).trans right
    have posted : postSection k ((s.hw.taken e (entryOf q .rig 0)).withShadow a) =
        ((s.hw.taken e (entryOf q .rig 0)).withShadow a).setPost k .posted :=
      (postSection_of_match matched).trans (latchIfDue_of_waits waits)
    rw [posted] at last step
    refine ⟨_, step, rfl, ?_, rfl, rfl, rfl, rfl, rfl, rfl⟩
    refine (congrArg (·.post) last.kept).trans ?_
    simp
  · intro q e o s running accepts write whole ⟨k, covers⟩
    exact ⟨_, exec_checkWordWrite running accepts write whole covers, rfl, rfl, rfl⟩
  · intro q e o s running accepts write whole state ⟨k, covers⟩ treat handed treated
    have each : treat = treatSection o q.length := by
      funext p k
      unfold treatSection postSection
      rw [rejectSection_eq]
      cases k <;> rfl
    have same : treatSections o q.length (writeShadow o q.data handed) = treated := by
      rw [treatSections_of_running _ _ ((writeShadow_partState o q.data handed).trans state), ← each]
      rfl
    have step := exec_checkWordWrite running accepts write whole covers
    rw [show s.hw.taken e (entryOf q .rig 0) = handed from rfl, same] at step
    exact step
  · intro p ws
    refine ⟨validateGlobal_of_unread, fun g read => ?_, fun x => validateEye_of_unread, fun x e read => ?_,
      fun r => validateReader_of_unread, fun r v read => ?_⟩
    · have judged := validateGlobal_of_read (p := p) read
      exact ⟨fun meets => judged.trans (if_pos ((globalOverlaps_iff p g).mpr meets)),
        fun apart => judged.trans (if_neg (mt (globalOverlaps_iff p g).mp apart))⟩
    · have cases := validateEye_cases (p := p) (x := x) read
      rw [geometryFits_iff, bandFits_iff, poolFits_iff, eyeOverlaps_iff] at cases
      exact cases
    · rw [validateReader_of_read read]
      exact ⟨fun shares => if_pos ((sharesTag_iff p r v).mpr shares), fun own => if_neg (mt (sharesTag_iff p r v).mp own)⟩

end Sys2Proof.Machine

/-! SUPPORT. The SYNC section and the READER section at their latch points (R90, R125, R135, R174). -/

namespace Sys2Proof.Machine

/-! ### SYNC -/

/-- The limits are judged only of this skew unit (R130). -/
def SkewUnit.measured (u : SkewUnit) : Bool := u.lockView.left && u.lockView.right && !u.seed

theorem measured_iff (u : SkewUnit) : u.measured = true ↔ u.lockView = ⟨true, true⟩ ∧ u.seed = false := by
  rcases view : u.lockView with ⟨left, right⟩
  unfold SkewUnit.measured
  rw [view]
  simp [and_assoc]

/-- The error of the filter's value, without its sign, in 1/256 tick (R129). -/
def SkewUnit.errorSize (y : SyncSettings) (u : SkewUnit) : Nat := (u.f - 256 * y.target).natAbs

/-- The skew unit once the divider and the limits of `y` act where `old` stood (R135). -/
def SkewUnit.rejudged (old y : SyncSettings) (u : SkewUnit) : SkewUnit :=
  { u with
    sampleCount := if old.divider = y.divider then u.sampleCount else 0
    warn := if u.measured then limitAfter u.warn (u.errorSize y) y.warnLimit y.hysteresis else u.warn
    fault := if u.measured then limitAfter u.fault (u.errorSize y) y.faultLimit y.hysteresis else u.fault }

/-- The skew unit after a SYNC latch (R135). -/
def SkewUnit.relatched (old y : SyncSettings) (u : SkewUnit) : SkewUnit :=
  if trimStays old y u.trim then u.rejudged old y
  else
    { u.rejudged old y with
      satCount := 0
      trim := latchedTrim old y u.trim
      sender := if latchedTrim old y u.trim = u.trim then u.sender else u.sender.told (latchedTrim old y u.trim) }

theorem rejudge_onlyReports (old : SyncSettings) (p : Part) :
    ({ p with skew := p.skew.rejudged old p.rig.sync } : Part).OnlyReports (rejudge old p) := by
  have counted : (if old.divider = p.rig.sync.divider then p else p.onSkew fun u => { u with sampleCount := 0 }) =
      { p with skew := { p.skew with sampleCount := if old.divider = p.rig.sync.divider then p.skew.sampleCount else 0 } } := by
    split <;> rfl
  unfold rejudge judgeIfMeasured
  rw [counted]
  unfold SkewUnit.rejudged
  cases measured : p.skew.measured with
  | false => exact (if_neg (ne_true_of_eq_false measured)).symm ▸ .refl _
  | true =>
    simp only [if_true]
    exact (if_pos measured).symm ▸ limitEvents_onlyReports _ _ _ _ _

theorem skewOnLatch_onlyReports (old : SyncSettings) (p : Part) :
    ({ p with skew := p.skew.relatched old p.rig.sync } : Part).OnlyReports (skewOnLatch old p) := by
  have only := rejudge_onlyReports old p
  have trim : (rejudge old p).skew.trim = p.skew.trim := by
    rw [only.skew]
    rfl
  unfold skewOnLatch SkewUnit.relatched
  dsimp only
  rw [trim]
  cases stays : trimStays old p.rig.sync p.skew.trim with
  | true => exact only
  | false =>
    simp only [Bool.false_eq_true, if_false]
    rw [moveTrim_eq]
    unfold clearSaturation
    rw [only]
    rfl

theorem latchSync_of_read {p : Part} {y : SyncSettings} (read : parseSync (p.staged .sync) = some y) :
    ∃ report, latchSync false p = { p with
      rig := { p.rig with
        sync := y, shadow := p.rig.shadow.set .sync { p.rig.shadow.get .sync with post := .unposted } }
      skew := p.skew.relatched p.rig.sync y
      report := report } := by
  refine ⟨(latchSync false p).report, ?_⟩
  unfold latchSync validateSync
  rw [read]
  exact skewOnLatch_onlyReports p.rig.sync ((p.onRig fun u => { u with sync := y }).setPost .sync .unposted)

theorem latchSync_of_unread {p : Part} (atLoad : Bool) (unread : parseSync (p.staged .sync) = none) :
    latchSync atLoad p = rejectSection .sync .range false p := by
  unfold latchSync validateSync
  rw [unread]

/-! ### READER -/

theorem joinedLastTaken_eq (p : Part) (lastTaken : Nat) :
    joinedLastTaken p lastTaken =
      match (p.pairs.queue.filter fun k => !k.stale && k.state == .ready).getLast? with
      | some k => max lastTaken (k.number - 1)
      | none => lastTaken := by
  have newest : p.newestReady = (p.pairs.queue.filter fun k => !k.stale && k.state == .ready).getLast? := rfl
  unfold joinedLastTaken
  rw [newest]
  cases (p.pairs.queue.filter fun k => !k.stale && k.state == .ready).getLast? with
  | none => rfl
  | some k =>
    dsimp only
    split
    · rw [max_eq_right (by omega)]
    · rw [max_eq_left (by omega)]

theorem readerAfterLatch_eq (p : Part) (enabled : Bool) (c : ReaderCtx) :
    readerAfterLatch p enabled c =
      if enabled = false then { c with state := .unbound }
      else if c.state = .unbound then { c with
        state := .idle
        lastTaken := match (p.pairs.queue.filter fun k => !k.stale && k.state == .ready).getLast? with
          | some k => max c.lastTaken (k.number - 1)
          | none => c.lastTaken }
      else c := by
  unfold readerAfterLatch
  rw [joinedLastTaken_eq]
  cases enabled <;> rfl

theorem latchReader_of_error {p : Part} {r : ReaderId} {reason : RejectReason}
    (fails : validateReader p r (p.staged (.reader r)) = .error reason) :
    latchReader r p = rejectSection (.reader r) reason false p := by
  unfold latchReader
  rw [fails]

theorem latchReader_of_ok {p : Part} {r : ReaderId} {v : ReaderSettings}
    (passes : validateReader p r (p.staged (.reader r)) = .ok v) : latchReader r p = putReader r v p := by
  unfold latchReader
  rw [passes]

/-- Retirement changes the pairs and the slots alone. -/
theorem evaluateRetirement_frame (p : Part) :
    evaluateRetirement p = { p with pairs := (evaluateRetirement p).pairs, slots := (evaluateRetirement p).slots } := by
  rcases after : evaluateRetirement p with ⟨reset, sync, streams, slots, pairs, readers, req, txn, skew, rig, report⟩
  have same := And.intro (evaluateRetirement_resetAsserted p) <| And.intro (evaluateRetirement_sync p) <|
    And.intro (evaluateRetirement_streams p) <| And.intro (evaluateRetirement_readers p) <|
    And.intro (evaluateRetirement_req p) <| And.intro (evaluateRetirement_txn p) <| And.intro (evaluateRetirement_skew p) <|
    And.intro (evaluateRetirement_rig p) (evaluateRetirement_report p)
  rw [after] at same
  obtain ⟨rfl, rfl, rfl, rfl, rfl, rfl, rfl, rfl, rfl⟩ := same
  rfl

theorem evaluatePrdy_frame (p : Part) : evaluatePrdy p = { p with pairs := (evaluatePrdy p).pairs } := by
  unfold evaluatePrdy
  split <;> rfl

/-- A READER latch that passes changes the settings, the reader's context, the pairs and the slots. -/
theorem putReader_frame (r : ReaderId) (v : ReaderSettings) (p : Part) :
    ∃ pairs slots, putReader r v p = { p with
      rig := { p.rig with
        reader := p.rig.reader.set r v
        shadow := p.rig.shadow.set (.reader r) { p.rig.shadow.get (.reader r) with post := .unposted } }
      readers := { p.readers with ctx := p.readers.ctx.set r (readerAfterLatch p v.enabled (p.reader r)) }
      pairs := pairs
      slots := slots } := by
  unfold putReader
  rw [evaluateRetirement_frame, evaluatePrdy_frame]
  exact ⟨_, _, rfl⟩

end Sys2Proof.Machine

/-! SUPPORT. A check word that matches at the latch point: the SYNC and the READER section (R90, R135, R174). -/

namespace Sys2Proof.Machine

/-- The part with the request taken into its entry and the staged shadow written. -/
def Part.handed (p : Part) (q : Request) (e : Nat) (a : Shadow) : Part :=
  { p with req := p.req.waiting e (entryOf q .rig 0), rig := { p.rig with shadow := a } }

/-- A write in RUNNING that covers the check word of section `k` alone, which matches: from a part in which the section
holds what has been written and is POSTED, it latches where its latch point has come, and then others become UNPOSTED. -/
theorem exec_matchingCheckWord {s : State} {q : Request} {e o : Nat} {k : Section} (running : s.hw.resetAsserted = false)
    (accepts : s.hw.Accepts q e .rig o) (write : q.kind = .write) (whole : q.Whole) (state : s.hw.rig.partState = .running)
    (only : ∀ j, touchesCheck o q.length j = true ↔ j = k)
    (right : checkMatches ((writeShadow o q.data s.hw).staged k) = true) :
    ∃ a t : Shadow, (s.hw.handed q e a).staged k = (writeShadow o q.data s.hw).staged k ∧
      (latchIfDue k (s.hw.handed q e a)).rig.shadow.UnpostsOthers k t ∧
      exec .checkWordWrite s = .next { s with hw := markChanged s.hw { (latchIfDue k (s.hw.handed q e a)).withShadow t with
        req := s.hw.req.waiting e { entryOf q .rig 0 with outstanding := 1 }
        txn := { s.hw.txn with issue := s.hw.txn.issue ++ [[q.asPiece e]] } } } := by
  obtain ⟨a, t, _, staged, last, step⟩ := exec_oneCheckWord running accepts write whole state only
  have matched : checkMatches (((s.hw.taken e (entryOf q .rig 0)).withShadow a).staged k) = true :=
    (congrArg checkMatches staged).trans right
  rw [postSection_of_match matched] at last step
  refine ⟨a.set k { a.get k with post := .posted }, t, ?_, last, step⟩
  have own := (Shadow.get_set a k k { a.get k with post := .posted }).trans (if_pos rfl)
  exact (congrArg SectionShadow.values own).trans staged

/-! ### What a SYNC latch makes of the skew unit -/

section
variable (old y : SyncSettings) (u : SkewUnit)

theorem trimStays_iff : trimStays old y u.trim = true ↔ old.follower = y.follower ∧ clampTrim u.trim y.trimMin y.trimMax = u.trim := by
  simp [trimStays]

theorem latchedTrim_of_same {old y : SyncSettings} (same : old.follower = y.follower) (trim : Int) :
    latchedTrim old y trim = clampTrim trim y.trimMin y.trimMax := if_pos same

theorem latchedTrim_of_other {old y : SyncSettings} (other : old.follower ≠ y.follower) (trim : Int) :
    latchedTrim old y trim = y.trimStart := if_neg other

/-- Where the clamp leaves trim value and follower as they are, it is the trim value that stands. -/
theorem relatched_trim : (u.relatched old y).trim = latchedTrim old y u.trim := by
  unfold SkewUnit.relatched
  split
  · rename_i stays
    obtain ⟨same, clamped⟩ := (trimStays_iff old y u).mp stays
    rw [latchedTrim_of_same same]
    exact clamped.symm
  · rfl

theorem relatched_satCount :
    (u.relatched old y).satCount =
      if old.follower = y.follower ∧ latchedTrim old y u.trim = u.trim then u.satCount else 0 := by
  have stays : trimStays old y u.trim = true ↔ old.follower = y.follower ∧ latchedTrim old y u.trim = u.trim := by
    rw [trimStays_iff]
    exact and_congr_right fun same => by rw [latchedTrim_of_same same]
  unfold SkewUnit.relatched
  simp only [stays]
  split <;> rfl

theorem relatched_sender :
    (u.relatched old y).sender =
      if latchedTrim old y u.trim = u.trim then u.sender else u.sender.told (latchedTrim old y u.trim) := by
  unfold SkewUnit.relatched
  split
  · rename_i stays
    obtain ⟨same, clamped⟩ := (trimStays_iff old y u).mp stays
    rw [latchedTrim_of_same same, if_pos clamped]
    rfl
  · rfl

/-- But for the trim value, its sender and the saturation count the latch only judges again. -/
theorem relatched_rest : u.relatched old y = { u.rejudged old y with
    trim := (u.relatched old y).trim, sender := (u.relatched old y).sender, satCount := (u.relatched old y).satCount } := by
  unfold SkewUnit.relatched
  split <;> rfl

theorem relatched_warn (measured : u.measured = true) :
    (u.relatched old y).warn = true ↔
      if u.warn then 256 * ((y.warnLimit : Int) - y.hysteresis) < u.errorSize y else 256 * y.warnLimit < u.errorSize y := by
  rw [relatched_rest]
  unfold SkewUnit.rejudged
  rw [← limitAfter_eq_true_iff]
  simp only [measured, if_true]

theorem relatched_fault (measured : u.measured = true) :
    (u.relatched old y).fault = true ↔
      if u.fault then 256 * ((y.faultLimit : Int) - y.hysteresis) < u.errorSize y else 256 * y.faultLimit < u.errorSize y := by
  rw [relatched_rest]
  unfold SkewUnit.rejudged
  rw [← limitAfter_eq_true_iff]
  simp only [measured, if_true]

theorem relatched_limits_of_not (idle : ¬u.measured = true) :
    (u.relatched old y).warn = u.warn ∧ (u.relatched old y).fault = u.fault := by
  rw [relatched_rest]
  exact ⟨if_neg idle, if_neg idle⟩

theorem relatched_sampleCount :
    (u.relatched old y).sampleCount = if old.divider = y.divider then u.sampleCount else 0 := by
  rw [relatched_rest]
  rfl

theorem relatched_unchanged :
    (u.relatched old y).lockView = u.lockView ∧ (u.relatched old y).latest = u.latest ∧ (u.relatched old y).f = u.f ∧
      (u.relatched old y).seed = u.seed ∧ (u.relatched old y).d = u.d := by
  rw [relatched_rest]
  exact ⟨rfl, rfl, rfl, rfl, rfl⟩

end

theorem TrimSender.told_of_idle {t : Int} {k : TrimSender} (idle : k.state = .idle) :
    k.told t = { k with state := .sending, word := some t, timer := .running 4000 } := if_pos idle

theorem TrimSender.told_of_busy {t : Int} {k : TrimSender} (busy : k.state ≠ .idle) : k.told t = { k with pending := true } :=
  if_neg busy

/-- A rejected section changes its post state and the report unit alone (R175). -/
theorem rejectSection_frame (k : Section) (reason : RejectReason) (loadFault : Bool) (p : Part) :
    ∃ report, report.flags.getLsbD EventFlag.configRejected.bit = true ∧
      rejectSection k reason loadFault p = { p with
        rig := { p.rig with shadow := p.rig.shadow.set k { p.rig.shadow.get k with post := .rejected } }
        report := report } := by
  refine ⟨(rejectSection k reason loadFault p).report, ?_, ?_⟩
  · unfold rejectSection queueRecordNow
    exact queueRecord_keeps _ _ _ _ _ (setFlag_bit _ _)
  · exact (setFlag_onlyReports ..).trans (queueRecord_onlyReports ..)

theorem post_of_set (s : Shadow) (k : Section) (v : PostState) : ((s.set k { s.get k with post := v }).get k).post = v := by
  rw [Shadow.get_set, if_pos rfl]

/-- Settles O44: SYNC, then READER, then every READER latch. -/
theorem syncSectionsLatchAtOnce : Obligations.SyncSectionsLatchAtOnce := by
  refine ⟨?_, ?_, ?_⟩
  · intro q e o s running accepts write whole state only words right
    obtain ⟨a, t, staged, last, step⟩ := exec_matchingCheckWord running accepts write whole state only right
    cases read : parseSync words with
    | none =>
      have rejected := latchSync_of_unread false ((congrArg parseSync staged).trans read)
      obtain ⟨report, flag, frame⟩ := rejectSection_frame .sync .range false (s.hw.handed q e a)
      rw [show latchIfDue .sync _ = _ from rejected.trans frame] at last step
      have post := (congrArg (·.post) last.kept).trans (post_of_set a .sync .rejected)
      exact ⟨_, step, rfl, fun y impossible => absurd impossible (by simp), fun _ => ⟨rfl, post, rfl, flag⟩, rfl, rfl, rfl, rfl,
        rfl, rfl⟩
    | some y =>
      obtain ⟨report, latched⟩ := latchSync_of_read ((congrArg parseSync staged).trans read)
      rw [show latchIfDue .sync _ = _ from latched] at last step
      refine ⟨_, step, rfl, fun z same => ?_, fun impossible => absurd impossible (by simp), rfl, rfl, rfl, rfl, rfl, rfl⟩
      obtain rfl : y = z := Option.some.inj same
      have post := (congrArg (·.post) last.kept).trans (post_of_set a .sync .unposted)
      have trim := relatched_trim s.hw.rig.sync y s.hw.skew
      have satCount := relatched_satCount s.hw.rig.sync y s.hw.skew
      have sender := relatched_sender s.hw.rig.sync y s.hw.skew
      have sampleCount := relatched_sampleCount s.hw.rig.sync y s.hw.skew
      have limits := relatched_limits_of_not s.hw.rig.sync y s.hw.skew
      rw [measured_iff] at limits
      rw [← trim] at satCount sender
      refine ⟨rfl, post, fun other => ⟨?_, ?_⟩, fun same ordered => ?_, fun other => ?_, fun same => ?_, fun measured => ⟨?_, ?_⟩,
        limits, fun same stays => ?_, fun changed => ?_, fun stays => ?_, fun moved idle => ?_, fun moved busy => ?_,
        relatched_unchanged s.hw.rig.sync y s.hw.skew⟩
      · exact trim.trans (latchedTrim_of_other other _)
      · exact satCount.trans (if_neg fun both => other both.1)
      · exact trim.trans ((latchedTrim_of_same same _).trans (clampTrim_eq _ ordered))
      · exact sampleCount.trans (if_neg other)
      · exact sampleCount.trans (if_pos same)
      · exact relatched_warn s.hw.rig.sync y s.hw.skew ((measured_iff _).mpr measured)
      · exact relatched_fault s.hw.rig.sync y s.hw.skew ((measured_iff _).mpr measured)
      · exact satCount.trans (if_pos ⟨same, stays⟩)
      · exact satCount.trans (if_neg fun both => changed.elim (fun other => other both.1) fun moved => moved both.2)
      · exact sender.trans (if_pos stays)
      · exact sender.trans ((if_neg moved).trans (TrimSender.told_of_idle idle))
      · exact sender.trans ((if_neg moved).trans (TrimSender.told_of_busy busy))
  · intro r q e o s running accepts write whole state only idle words right
    obtain ⟨a, t, staged, last, step⟩ := exec_matchingCheckWord running accepts write whole state only right
    have due : latchIfDue (.reader r) (s.hw.handed q e a) = latchReader r (s.hw.handed q e a) := if_pos idle
    rw [due] at last step
    cases judged : validateReader s.hw r words with
    | error reason =>
      have rejected := latchReader_of_error (p := s.hw.handed q e a) ((congrArg (validateReader s.hw r) staged).trans judged)
      obtain ⟨report, flag, frame⟩ := rejectSection_frame (.reader r) reason false (s.hw.handed q e a)
      rw [rejected.trans frame] at last step
      have post := (congrArg (·.post) last.kept).trans (post_of_set a (.reader r) .rejected)
      exact ⟨_, step, rfl, fun v impossible => absurd impossible (by simp), fun _ _ => ⟨rfl, post, rfl, rfl, flag⟩,
        fun _ _ => rfl, rfl, rfl, rfl, rfl⟩
    | ok v =>
      have passed := latchReader_of_ok (p := s.hw.handed q e a) ((congrArg (validateReader s.hw r) staged).trans judged)
      obtain ⟨pairs, slots, frame⟩ := putReader_frame r v (s.hw.handed q e a)
      rw [passed.trans frame] at last step
      have post := (congrArg (·.post) last.kept).trans (post_of_set a (.reader r) .unposted)
      have next := readerAfterLatch_eq (s.hw.handed q e a) v.enabled (s.hw.reader r)
      have own : (s.hw.readers.ctx.set r (readerAfterLatch (s.hw.handed q e a) v.enabled (s.hw.reader r))).get r = _ :=
        (PerReader.get_set ..).trans ((if_pos rfl).trans next)
      refine ⟨_, step, rfl, fun w same => ?_, fun _ impossible => absurd impossible (by simp), fun k other => ?_, rfl, rfl, rfl,
        rfl⟩
      · obtain rfl : v = w := Except.ok.inj same
        refine ⟨rfl, post, fun disabled => own.trans (if_pos disabled), fun enabled wasIdle => own.trans ?_,
          fun enabled unbound => own.trans ?_, rfl⟩
        · exact (if_neg (by simp [enabled])).trans (if_neg (by simp [wasIdle]))
        · exact (if_neg (by simp [enabled])).trans (if_pos unbound)
      · exact (PerReader.get_set ..).trans (if_neg other.symm)
  · intro r p words c unposted
    refine ⟨fun reason fails => (latchReader_of_error fails).trans (rejectSection_eq ..), fun v passes => ?_⟩
    rw [latchReader_of_ok passes]
    unfold putReader
    simp only [Part.onReader, readerAfterLatch_eq]
    rfl

end Sys2Proof.Machine

/-! SUPPORT. Retirement (R59), the take change (R61) and the GLOBAL section at its latch point (R65, R174, R186). -/

namespace Sys2Proof.Machine

/-! ### Retirement -/

theorem retiring_congr {p q : Part} (same : ∀ r newer, retires p r newer = retires q r newer) (l : List PairRecord) :
    retiring p l = retiring q l := by
  induction l with
  | nil => rfl
  | cons r rs ih => rw [retiring, retiring, same, ih]

/-- What retires is a matter of the readers and their settings (R59). -/
theorem retires_congr {p q : Part} (settings : p.rig.reader = q.rig.reader) (readers : p.readers = q.readers) (r : PairRecord)
    (newer : List PairRecord) : retires p r newer = retires q r newer := by
  unfold retires everyPassed Part.readerSettings Part.reader
  rw [settings, readers]

theorem foldl_retireSlots_slots {p q : Part} (same : p.slots = q.slots) (l : List PairRecord) :
    (l.foldl retireSlots p).slots = (l.foldl retireSlots q).slots := by
  induction l generalizing p q with
  | nil => exact same
  | cons r rs ih =>
    refine ih ?_
    unfold retireSlots Part.onSlot Part.onSlots
    dsimp only
    rw [same]

theorem evaluateRetirement_slots (p : Part) :
    (evaluateRetirement p).slots = ((retiring p p.pairs.queue).foldl retireSlots p).slots := by
  have given : ((retiring p p.pairs.queue).foldl retireSlots (p.onPairs fun m => { m with queue := staying p m.queue })).slots =
      ((retiring p p.pairs.queue).foldl retireSlots p).slots := 
    foldl_retireSlots_slots (p := p.onPairs fun m => { m with queue := staying p m.queue }) (q := p) rfl _
  unfold evaluateRetirement
  dsimp only
  split
  · exact given
  · rw [evaluatePrdy_slots]
    exact given

theorem evaluateRetirement_slots_congr {p q : Part} (settings : p.rig.reader = q.rig.reader) (readers : p.readers = q.readers)
    (queue : p.pairs.queue = q.pairs.queue) (slots : p.slots = q.slots) :
    (evaluateRetirement p).slots = (evaluateRetirement q).slots := by
  rw [evaluateRetirement_slots, evaluateRetirement_slots, queue, retiring_congr (retires_congr settings readers),
    foldl_retireSlots_slots slots]

theorem evaluatePrdy_cases (p : Part) : ∃ prdy, evaluatePrdy p = { p with pairs := { p.pairs with prdy := prdy } } := by
  unfold evaluatePrdy
  split
  · exact ⟨_, rfl⟩
  · exact ⟨p.pairs.prdy, rfl⟩

/-- Of the pairs retirement changes the queue and the PRDY line. -/
theorem evaluateRetirement_cases (p : Part) :
    ∃ prdy, evaluateRetirement p = { p with
      pairs := { p.pairs with queue := staying p p.pairs.queue, prdy := prdy }, slots := (evaluateRetirement p).slots } := by
  have given := foldl_retireSlots_pairs (retiring p p.pairs.queue) (p.onPairs fun m => { m with queue := staying p m.queue })
  have pairs : ∃ prdy, (evaluateRetirement p).pairs = { p.pairs with queue := staying p p.pairs.queue, prdy := prdy } := by
    unfold evaluateRetirement
    dsimp only
    split
    · exact ⟨p.pairs.prdy, given⟩
    · obtain ⟨prdy, level⟩ := evaluatePrdy_cases
        ((retiring p p.pairs.queue).foldl retireSlots (p.onPairs fun m => { m with queue := staying p m.queue }))
      rw [level, given]
      exact ⟨prdy, rfl⟩
  obtain ⟨prdy, pairs⟩ := pairs
  refine ⟨prdy, ?_⟩
  rw [← pairs]
  exact evaluateRetirement_frame p

/-- Of stale records those stay that are FORMING or held (R59). -/
theorem staying_of_stale (p : Part) (l : List PairRecord) :
    staying p (l.map fun k => { k with stale := true }) =
      (l.filter fun k => decide (k.state = .forming ∨ k.holders ≠ 0)).map fun k => { k with stale := true } := by
  induction l with
  | nil => rfl
  | cons k ks ih =>
    have goes : ∀ newer, retires p { k with stale := true } newer = !decide (k.state = .forming ∨ k.holders ≠ 0) := by
      intro newer
      unfold retires
      cases k.state <;> simp [PairRecord.isCurrent, Bool.beq_eq_decide_eq]
    rw [List.map_cons, staying, goes, ih, List.filter_cons]
    cases decide (k.state = .forming ∨ k.holders ≠ 0) <;> rfl

/-! ### The take change -/

/-- The part with every record of its queue stale (R61). -/
def Part.staled (p : Part) : Part :=
  { p with pairs := { p.pairs with queue := p.pairs.queue.map fun k => { k with stale := true } } }

/-- The records that stay after a take change (R61). -/
def Part.stayingStale (p : Part) : List PairRecord :=
  (p.pairs.queue.filter fun k => decide (k.state = .forming ∨ k.holders ≠ 0)).map fun k => { k with stale := true }

/-- The part as a take change leaves it, but for the PRDY line and the record (R61). -/
def Part.takeChanged (p : Part) (prdy : Bool) : Part :=
  { p with
    pairs := { p.pairs with queue := p.stayingStale, nextNumber := some 1, prdy := prdy }
    slots := (evaluateRetirement p.staled).slots
    streams := ⟨{ p.streams.left with frameNumber := 0 }, { p.streams.right with frameNumber := 0 }⟩
    readers := { p.readers with ctx := p.readers.ctx.map fun c => { c with lastTaken := 0 } } }

theorem takeChange_cases (old : Word) (p : Part) :
    ∃ prdy, takeChange old p = { p.takeChanged prdy with
      report := p.report.queued p.now p.take (.takeChange old p.take) p.rig.global.alertEnables } := by
  obtain ⟨level, retired⟩ := evaluateRetirement_cases p.staled
  rw [show staying p.staled p.staled.pairs.queue = p.stayingStale from staying_of_stale p.staled p.pairs.queue] at retired
  have began : takeChange old p = queueRecordNow (.takeChange old p.take) (evaluatePrdy (p.takeChanged level)) := by
    unfold takeChange
    rw [show (p.onPairs fun m => { m with queue := m.queue.map fun r => { r with stale := true } }) = p.staled from rfl, retired]
    rfl
  obtain ⟨prdy, judged⟩ := evaluatePrdy_cases (p.takeChanged level)
  refine ⟨prdy, ?_⟩
  rw [began, judged, queueRecordNow, queueRecord_eq]
  rfl

/-! ### GLOBAL -/

/-- The report unit once `new` is in force where `old` stood (R181, R186). -/
def ReportUnit.relocated (old new : GlobalSettings) (u : ReportUnit) : ReportUnit :=
  let stays := old.reportBase = new.reportBase ∧ old.ringSize = new.ringSize
  { u with
    ringIndex := if stays then u.ringIndex else 0
    due := if stays then u.due else true
    alertN := alertLevel u.flags new.alertEnables }

theorem reportOnLatch_eq (old : GlobalSettings) (p : Part) :
    evaluateAlert (reportOnLatch old p.rig.global p) = { p with report := p.report.relocated old p.rig.global } := by
  unfold reportOnLatch ReportUnit.relocated
  split
  · rename_i stays
    simp only [if_pos stays]
    rfl
  · rename_i moves
    simp only [if_neg moves]
    rfl

theorem prdyOnLatch_cases (old new : GlobalSettings) (p : Part) :
    ∃ prdy pulse, prdyOnLatch old new p = { p with pairs := { p.pairs with prdy := prdy, prdyPulse := pulse } } := by
  unfold prdyOnLatch
  split
  · obtain ⟨prdy, judged⟩ := evaluatePrdy_cases p
    exact ⟨prdy, p.pairs.prdyPulse, judged⟩
  · obtain ⟨prdy, judged⟩ := evaluatePrdy_cases (p.onPairs fun m => { m with prdy := false, prdyPulse := .stopped })
    exact ⟨prdy, .stopped, judged⟩

/-- The settings of a GLOBAL section that has passed are in force (R174). -/
def Part.withGlobal (p : Part) (g : GlobalSettings) : Part :=
  { p with rig := { p.rig with
    global := latchedGlobal p g, windowChange := latchedWindow p g
    shadow := p.rig.shadow.set .global { p.rig.shadow.get .global with post := .unposted } } }

/-- The window apart, the settings in force are those of the section. -/
theorem latchedGlobal_eq (p : Part) (g : GlobalSettings) :
    latchedGlobal p g = { g with windowBase := (latchedGlobal p g).windowBase, layout := (latchedGlobal p g).layout } := by
  unfold latchedGlobal
  split <;> rfl

theorem latchGlobal_of_error {p : Part} {reason : RejectReason} (withTakeChange : Bool)
    (fails : validateGlobal p (p.staged .global) = .error reason) :
    latchGlobal withTakeChange p = rejectSection .global reason false p := by
  unfold latchGlobal
  rw [fails]

theorem latchGlobal_of_ok {p : Part} {g : GlobalSettings} (withTakeChange : Bool)
    (passes : validateGlobal p (p.staged .global) = .ok g) :
    latchGlobal withTakeChange p = globalOnLatch p.rig.global withTakeChange (p.withGlobal g) := by
  unfold latchGlobal
  rw [passes]
  rfl

theorem withGlobal_take (p : Part) (g : GlobalSettings) : (p.withGlobal g).take = g.take := by
  show (latchedGlobal p g).take = g.take
  rw [latchedGlobal_eq]

/-- The window is no matter of the report unit. -/
theorem relocated_latched (old : GlobalSettings) (p : Part) (g : GlobalSettings) (u : ReportUnit) :
    u.relocated old (latchedGlobal p g) = u.relocated old g := by
  rw [latchedGlobal_eq]
  rfl

/-- The last three acts of a GLOBAL latch: the PRDY line, the report region, ALERT_N (R65, R181, R186). -/
theorem closeLatch_cases (old : GlobalSettings) (p : Part) :
    ∃ prdy pulse, evaluateAlert (reportOnLatch old p.rig.global (prdyOnLatch old p.rig.global p)) = { p with
      pairs := { p.pairs with prdy := prdy, prdyPulse := pulse }, report := p.report.relocated old p.rig.global } := by
  obtain ⟨prdy, pulse, led⟩ := prdyOnLatch_cases old p.rig.global p
  refine ⟨prdy, pulse, ?_⟩
  rw [led]
  exact reportOnLatch_eq old { p with pairs := { p.pairs with prdy := prdy, prdyPulse := pulse } }

/-- A GLOBAL latch that begins no take changes the PRDY line and the report region alone (R65, R186). -/
theorem latchGlobal_same_take {p : Part} {g : GlobalSettings} {withTakeChange : Bool}
    (passes : validateGlobal p (p.staged .global) = .ok g) (same : withTakeChange = false ∨ g.take = p.take) :
    ∃ prdy pulse, latchGlobal withTakeChange p = { p.withGlobal g with
      pairs := { p.pairs with prdy := prdy, prdyPulse := pulse }
      report := p.report.relocated p.rig.global g } := by
  have stays : ¬(withTakeChange = true ∧ p.rig.global.take ≠ (p.withGlobal g).take) := by
    rintro ⟨changes, other⟩
    exact other ((withGlobal_take p g).trans (same.resolve_left (by simp [changes]))).symm
  obtain ⟨prdy, pulse, closed⟩ := closeLatch_cases p.rig.global (p.withGlobal g)
  refine ⟨prdy, pulse, (latchGlobal_of_ok _ passes).trans ?_⟩
  unfold globalOnLatch
  rw [if_neg stays, ← relocated_latched p.rig.global p g]
  exact closed

/-- A GLOBAL latch with another take number begins a take (R61). -/
theorem latchGlobal_new_take {p : Part} {g : GlobalSettings} (passes : validateGlobal p (p.staged .global) = .ok g)
    (other : g.take ≠ p.take) :
    ∃ prdy pulse, latchGlobal true p = { (p.withGlobal g).takeChanged prdy with
      pairs := { p.pairs with queue := p.stayingStale, nextNumber := some 1, prdy := prdy, prdyPulse := pulse }
      report := (p.report.queued p.now g.take (.takeChange p.take g.take) g.alertEnables).relocated p.rig.global g } := by
  have changes : true = true ∧ p.rig.global.take ≠ (p.withGlobal g).take :=
    ⟨rfl, fun same => other ((withGlobal_take p g).symm.trans same.symm)⟩
  obtain ⟨level, began⟩ := takeChange_cases p.rig.global.take (p.withGlobal g)
  obtain ⟨prdy, pulse, closed⟩ := closeLatch_cases p.rig.global { (p.withGlobal g).takeChanged level with
      report := p.report.queued p.now (p.withGlobal g).take (.takeChange p.rig.global.take (p.withGlobal g).take)
        (p.withGlobal g).rig.global.alertEnables }
  have enables : (p.withGlobal g).rig.global.alertEnables = g.alertEnables := by
    show (latchedGlobal p g).alertEnables = g.alertEnables
    rw [latchedGlobal_eq]
  refine ⟨prdy, pulse, (latchGlobal_of_ok _ passes).trans ?_⟩
  unfold globalOnLatch
  rw [if_pos changes, began, ← relocated_latched p.rig.global p g, ← enables, ← withGlobal_take p g]
  exact closed

end Sys2Proof.Machine

/-! SUPPORT. A check word of the GLOBAL section that matches (R61, R174, R186). -/

namespace Sys2Proof.Machine

theorem anyBusy_iff (p : Part) : anyBusy p = true ↔ ∃ r, (p.reader r).state = .holding ∨ (p.reader r).state = .parked := by
  simp [anyBusy, mem_allReaders]

theorem relocated_of_moved {old new : GlobalSettings} (u : ReportUnit)
    (moved : old.reportBase ≠ new.reportBase ∨ old.ringSize ≠ new.ringSize) :
    (u.relocated old new).ringIndex = 0 ∧ (u.relocated old new).due = true := by
  have other : ¬(old.reportBase = new.reportBase ∧ old.ringSize = new.ringSize) :=
    fun both => moved.elim (fun base => base both.1) fun size => size both.2
  exact ⟨if_neg other, if_neg other⟩

theorem relocated_of_stays {old new : GlobalSettings} (u : ReportUnit)
    (stays : ¬(old.reportBase ≠ new.reportBase ∨ old.ringSize ≠ new.ringSize)) :
    (u.relocated old new).ringIndex = u.ringIndex ∧ (u.relocated old new).due = u.due := by
  have same : old.reportBase = new.reportBase ∧ old.ringSize = new.ringSize := by
    rwa [not_or, not_not, not_not] at stays
  exact ⟨if_pos same, if_pos same⟩

theorem relocated_alertN (old new : GlobalSettings) (u : ReportUnit) :
    (u.relocated old new).alertN = decide ((u.relocated old new).flags &&& new.alertEnables = 0) := rfl

theorem queued_of_room {u : ReportUnit} (stamp : Stamp) (take : Word) (body : RecordBody) (enables : BitVec 11)
    (room : u.queue.length < 16) :
    u.queued stamp take body enables =
      { u with queue := u.queue ++ [{ seq := u.seq, stamp := stamp, take := take, body := body }], seq := u.seq + 1 } :=
  if_pos room

theorem queued_ringIndex (u : ReportUnit) (stamp : Stamp) (take : Word) (body : RecordBody) (enables : BitVec 11) :
    (u.queued stamp take body enables).ringIndex = u.ringIndex := by
  unfold ReportUnit.queued ReportUnit.flagged
  split
  · rfl
  · split <;> rfl

/-- The section whose check word is covered latches: the window of the settings in force and the one that waits (R91, R174). -/
theorem withGlobal_window (p : Part) (g : GlobalSettings) :
    (anyBusy p = true → (p.withGlobal g).rig.global =
        { g with windowBase := p.rig.global.windowBase, layout := p.rig.global.layout } ∧
      (p.withGlobal g).rig.windowChange =
        if g.windowBase ≠ p.rig.global.windowBase ∨ g.layout ≠ p.rig.global.layout then
          some { base := g.windowBase, layout := g.layout }
        else none) ∧
    (¬anyBusy p = true → (p.withGlobal g).rig.global = g ∧ (p.withGlobal g).rig.windowChange = none) := by
  refine ⟨fun busy => ⟨if_pos busy, ?_⟩, fun idle => ⟨if_neg idle, if_neg fun both => idle both.1⟩⟩
  show latchedWindow p g = _
  unfold latchedWindow
  simp only [busy, true_and]

/-- The records that stay over a take change are stale, and a READY one is held (R61). -/
theorem stayingStale_spec (p : Part) : ∀ k ∈ p.stayingStale, k.stale = true ∧ (k.state = .ready → k.holders ≠ 0) := by
  intro k listed
  obtain ⟨old, stays, rfl⟩ := List.mem_map.mp listed
  have held := of_decide_eq_true (List.mem_filter.mp stays).2
  refine ⟨rfl, fun ready => held.resolve_left fun forming => ?_⟩
  exact absurd (forming.symm.trans ready) (by decide)

/-- Settles O45: a new take, then what every GLOBAL latch does. -/
theorem takeChangesBeginANewTake : Obligations.TakeChangesBeginANewTake := by
  refine ⟨?_, ?_⟩
  · intro q e o g s running accepts write whole state only words right valid other room
    obtain ⟨a, t, staged, last, step⟩ := exec_matchingCheckWord running accepts write whole state only right
    obtain ⟨prdy, pulse, latched⟩ := latchGlobal_new_take (p := s.hw.handed q e a)
      ((congrArg (validateGlobal s.hw) staged).trans valid) other
    rw [show latchIfDue .global _ = _ from latched] at last step
    have post := (congrArg (·.post) last.kept).trans (post_of_set a .global .unposted)
    have record := congrArg ReportUnit.queue
      (queued_of_room (u := s.hw.report) s.hw.now g.take (.takeChange s.hw.take g.take) g.alertEnables room)
    have slots := evaluateRetirement_slots_congr (p := ((s.hw.handed q e a).withGlobal g).staled) (q := s.hw.staled) rfl rfl rfl rfl
    have numbers : ∀ r, (s.hw.readers.ctx.map fun c => { c with lastTaken := 0 }).get r = { s.hw.reader r with lastTaken := 0 } :=
      PerReader.get_map _ _
    refine ⟨_, step, rfl, post, rfl, stayingStale_spec s.hw, rfl, slots, rfl, fun x => ?_, numbers, rfl, rfl, fun x => ?_,
      fun r => congrArg ReaderCtx.lastTaken (numbers r), record, rfl, rfl, rfl, rfl, rfl⟩
    · cases x <;> rfl
    · cases x <;> rfl
  · intro q e o g s running accepts write whole state only words right valid busy old moved
    obtain ⟨a, t, staged, last, step⟩ := exec_matchingCheckWord running accepts write whole state only right
    have passes := (congrArg (validateGlobal s.hw) staged).trans valid
    have busyIff : anyBusy s.hw = true ↔ busy := anyBusy_iff s.hw
    have window := withGlobal_window (s.hw.handed q e a) g
    rw [show anyBusy (s.hw.handed q e a) = true ↔ busy from busyIff] at window
    have differsNot : g.windowBase = old.windowBase → g.layout = old.layout →
        ¬(g.windowBase ≠ old.windowBase ∨ g.layout ≠ old.layout) := by
      intro base layout differs
      exact differs.elim (fun other => other base) fun other => other layout
    by_cases same : g.take = s.hw.take
    · obtain ⟨prdy, pulse, latched⟩ := latchGlobal_same_take (p := s.hw.handed q e a) (withTakeChange := true) passes (.inr same)
      rw [show latchIfDue .global _ = _ from latched] at last step
      have post := (congrArg (·.post) last.kept).trans (post_of_set a .global .unposted)
      exact ⟨_, step, rfl, post, fun isBusy => (window.1 isBusy).1, window.2,
        fun isBusy differs => (window.1 isBusy).2.trans (if_pos differs),
        fun isBusy base layout => (window.1 isBusy).2.trans (if_neg (differsNot base layout)),
        relocated_of_moved _, fun stays => (relocated_of_stays _ stays).1,
        fun _ => ⟨rfl, fun stays => (relocated_of_stays _ stays).2⟩, relocated_alertN old g _,
        fun _ => ⟨rfl, rfl, rfl, rfl, rfl, rfl, rfl⟩, rfl, rfl, rfl, rfl, rfl⟩
    · obtain ⟨prdy, pulse, latched⟩ := latchGlobal_new_take (p := s.hw.handed q e a) passes same
      rw [show latchIfDue .global _ = _ from latched] at last step
      have post := (congrArg (·.post) last.kept).trans (post_of_set a .global .unposted)
      have recorded := queued_of_room (u := s.hw.report) s.hw.now g.take (.takeChange s.hw.take g.take) g.alertEnables
      have flags := fun room => congrArg ReportUnit.flags (recorded room)
      have due := fun room => congrArg ReportUnit.due (recorded room)
      exact ⟨_, step, rfl, post, fun isBusy => (window.1 isBusy).1, window.2,
        fun isBusy differs => (window.1 isBusy).2.trans (if_pos differs),
        fun isBusy base layout => (window.1 isBusy).2.trans (if_neg (differsNot base layout)),
        relocated_of_moved _, fun stays => (relocated_of_stays _ stays).1.trans (queued_ringIndex _ _ _ _ _),
        fun quiet => ⟨flags (quiet.resolve_left same), fun stays => (relocated_of_stays _ stays).2.trans (due (quiet.resolve_left same))⟩,
        relocated_alertN old g _, fun sameTake => absurd sameTake same, rfl, rfl, rfl, rfl, rfl⟩

end Sys2Proof.Machine

/-! SUPPORT. The start-up load: the result of a load read, the sections at its end (R177, R179). -/

namespace Sys2Proof.Machine

/-! ### The result of a load read -/

/-- The shadow after the result of the load read in hand (R177). -/
def Part.loaded (p : Part) (res : MResult) : Shadow :=
  p.rig.shadow.mapSections (SectionShadow.load (p.rig.loadIndex * Config.loadReadBytes) res)

theorem loaded_post (p : Part) (res : MResult) (k : Section) : ((p.loaded res).get k).post = p.post k :=
  (congrArg SectionShadow.post (Shadow.mapSections_get _ _ _)).trans rfl

theorem loaded_word {p : Part} {k : Section} {j : Nat} {w : ShadowWord} (res : MResult)
    (held : (p.rig.shadow.get k).words[j]? = some w) :
    ((p.loaded res).get k).words[j]? = some (w.load (p.rig.loadIndex * Config.loadReadBytes) res (sectionOffset k + 4 * j)) := by
  unfold Part.loaded
  rw [Shadow.mapSections_get]
  unfold SectionShadow.load
  rw [mapFrom_getElem?, held, Nat.zero_add]
  rfl

/-- The part once the result has filled the shadow. -/
theorem loadReadResult_eq (res : MResult) (p : Part) :
    loadReadResult res p =
      if p.rig.loadIndex + 1 < 64 then offerLoadRead (p.rig.loadIndex + 1) (p.withShadow (p.loaded res))
      else endLoad (p.withShadow (p.loaded res)) := by
  have filled : p.onEverySection (SectionShadow.load (p.rig.loadIndex * Config.loadReadBytes) res) = p.withShadow (p.loaded res) :=
    onEverySection_eq _ _
  unfold loadReadResult
  dsimp only
  rw [filled]

theorem offerLoadRead_eq (k : Nat) (p : Part) :
    offerLoadRead k p = { p with
      rig := { p.rig with loadIndex := k }
      txn := { p.txn with
        injected := p.txn.injected ++
          [{ owner := .loadRead, kind := .read, addr := 2 ^ 37 * p.rig.rigsel.toNat + k * 64, length := 64, data := [],
             wait := 0 }] } } := rfl

/-- The end of the load, the sections having been treated (R138, R179, R183). -/
def Part.running (ended : Part) : Part :=
  { ended with
    rig := { ended.rig with
      partState := .running, shadow := ended.rig.shadow.mapSections fun _ => SectionShadow.clearMarks }
    skew := { ended.skew with
      trim := ended.rig.sync.trimStart
      sender := { ended.skew.sender with state := .sending, word := some ended.rig.sync.trimStart, timer := .running 4000 } }
    report := { ended.report with
      interval := .running (ended.rig.global.statusInterval * 250000), due := true } }

theorem running_section (ended : Part) (k : Section) : (ended.running.rig.shadow.get k).post = ended.post k ∧
    (ended.running.rig.shadow.get k).words =
      (ended.rig.shadow.get k).words.map fun w => { w with written := false, faulted := false } := by
  have cleared : ended.running.rig.shadow.get k = (ended.rig.shadow.get k).clearMarks := Shadow.mapSections_get _ _ k
  rw [cleared]
  exact ⟨rfl, rfl⟩

theorem becomeRunning_eq (ended : Part) :
    becomeRunning (sendTrimStart (ended.onEverySection fun _ => SectionShadow.clearMarks)) = ended.running := by
  rw [onEverySection_eq]
  rfl

theorem endLoad_eq (p : Part) : endLoad p = (Section.all.foldl loadSection p).running := becomeRunning_eq _

/-- What the load makes of a word, spelled by its result. -/
theorem load_eq (o place : Nat) (res : MResult) (w : ShadowWord) :
    w.load o res place =
      if o ≤ place ∧ place < o + 64 ∧ w.written = false then
        match res with
        | .ok data => { w with value := BitVec.ofNat 32 (leNat ((data.drop (place - o)).take 4)) }
        | _ => { w with faulted := true }
      else w := by
  unfold ShadowWord.load
  simp only [Bool.not_eq_true']
  cases res <;> rfl

/-! ### The command that brings it -/

/-- The counter of a memory fault (R165). -/
def MemoryFaultCause.counter : MemoryFaultCause → Counter
  | .fault => .mFaults
  | .timeout => .mTimeouts

/-- The MEMORY_FAULT event of a load read (R165). -/
theorem memoryFaultEvent_of_loadRead {te : TagEntry} (owner : te.owner = .injected .loadRead) (kind : te.kind = .read)
    (cause : MemoryFaultCause) (t : Nat) (p : Part) :
    memoryFaultEvent cause t te p =
      queueRecord p.now p.take (.memoryFault cause te.addr .read te.owner te.source t te.length)
        (setFlag .memoryFault (raise cause.counter p)) := by
  have clocks : ∀ c, (setFlag .memoryFault (raise c p)).now = p.now ∧ (setFlag .memoryFault (raise c p)).take = p.take :=
    fun c => by simp [Part.now, Part.take, raise_eq]
  unfold memoryFaultEvent queueRecordNow
  rw [owner, kind]
  simp only [Owner.isReportWrite, Bool.false_eq_true, if_false, clocks]
  cases cause <;> rfl

/-- The result of a load read: its event, then the rig unit (R165, R177). -/
theorem takeResult_of_loadRead {te : TagEntry} (owner : te.owner = .injected .loadRead) (t : Nat) (res : MResult) (p : Part) :
    takeResult t te res p = loadReadResult res (resultEvent t te res p) := by
  unfold takeResult deliverResult
  rw [if_pos owner, owner]
  rfl

/-! ### The sections at the end of the load -/

theorem faulted_iff (v : SectionShadow) : v.faulted = true ↔ ∃ w ∈ v.words, w.faulted = true := by
  simp [SectionShadow.faulted]

theorem loadSection_of_marked {p : Part} {k : Section} (marked : (p.rig.shadow.get k).faulted = true) :
    loadSection p k = p.withRejected k .check true := (if_pos marked).trans (rejectSection_eq ..)

theorem loadSection_of_mismatch {p : Part} {k : Section} (clean : ¬(p.rig.shadow.get k).faulted = true)
    (wrong : checkMatches (p.staged k) = false) : loadSection p k = p.withRejected k .check false :=
  (if_neg clean).trans ((if_neg (by simp [wrong])).trans (rejectSection_eq ..))

theorem loadSection_of_match {p : Part} {k : Section} (clean : ¬(p.rig.shadow.get k).faulted = true)
    (right : checkMatches (p.staged k) = true) : loadSection p k = latchAtLoadEnd k p :=
  (if_neg clean).trans (if_pos right)

/-- PRDY where a GLOBAL latch has put `new` in force for `old` (R64, R65). -/
theorem prdyOnLatch_pairs (old : GlobalSettings) (p : Part) :
    (p.rig.global.prdyMode = old.prdyMode → p.rig.global.prdyMode ≠ .level →
      (prdyOnLatch old p.rig.global p).pairs = p.pairs) ∧
    (p.rig.global.prdyMode ≠ old.prdyMode → (prdyOnLatch old p.rig.global p).pairs.prdyPulse = .stopped) ∧
    (p.rig.global.prdyMode ≠ old.prdyMode → p.rig.global.prdyMode ≠ .level →
      (prdyOnLatch old p.rig.global p).pairs.prdy = false) := by
  have same : p.rig.global.prdyMode = old.prdyMode → prdyOnLatch old p.rig.global p = evaluatePrdy p :=
    fun mode => if_pos mode.symm
  have other : p.rig.global.prdyMode ≠ old.prdyMode →
      prdyOnLatch old p.rig.global p = evaluatePrdy (p.onPairs fun m => { m with prdy := false, prdyPulse := .stopped }) :=
    fun mode => if_neg (Ne.symm mode)
  refine ⟨fun mode notLevel => ?_, fun mode => ?_, fun mode notLevel => ?_⟩
  · rw [same mode, evaluatePrdy, if_neg notLevel]
  · obtain ⟨prdy, judged⟩ := evaluatePrdy_cases (p.onPairs fun m => { m with prdy := false, prdyPulse := .stopped })
    rw [other mode, judged]
    rfl
  · rw [other mode, evaluatePrdy, if_neg (by exact notLevel)]
    rfl

/-- An unseeded filter is not judged: the divider alone acts (R130, R135). -/
theorem rejudge_of_seed {old : SyncSettings} {p : Part} (seed : p.skew.seed = true) :
    rejudge old p = { p with skew := { p.skew with
      sampleCount := if old.divider = p.rig.sync.divider then p.skew.sampleCount else 0 } } := by
  have idle : ∀ q : Part, q.skew.seed = true → judgeIfMeasured q = q := fun q unseeded => if_neg (by simp [unseeded])
  unfold rejudge
  split
  · exact idle p seed
  · exact idle _ seed

/-- The skew unit after the SYNC latch at the end of the load, the filter unseeded (R135, R138). -/
theorem skewOnLoadLatch_of_seed {old : SyncSettings} {p : Part} (seed : p.skew.seed = true) :
    skewOnLoadLatch old p = { p with skew := { p.skew with
      sampleCount := if old.divider = p.rig.sync.divider then p.skew.sampleCount else 0
      trim := latchedTrim old p.rig.sync p.skew.trim
      satCount := if old.follower = p.rig.sync.follower ∧ latchedTrim old p.rig.sync p.skew.trim = p.skew.trim then
        p.skew.satCount else 0 } } := by
  have staysIff := trimStays_iff old p.rig.sync p.skew
  unfold skewOnLoadLatch
  rw [rejudge_of_seed seed]
  dsimp only
  by_cases stays : trimStays old p.rig.sync p.skew.trim = true
  · obtain ⟨same, clamped⟩ := staysIff.mp stays
    have kept : latchedTrim old p.rig.sync p.skew.trim = p.skew.trim := (latchedTrim_of_same same _).trans clamped
    rw [if_pos stays, kept]
    simp only [same, and_self, if_true]
  · have moved : ¬(old.follower = p.rig.sync.follower ∧ latchedTrim old p.rig.sync p.skew.trim = p.skew.trim) :=
      fun ⟨same, kept⟩ => stays (staysIff.mpr ⟨same, (latchedTrim_of_same same _).symm.trans kept⟩)
    rw [if_neg stays, if_neg moved]
    rfl

theorem latchSync_atLoad {p : Part} {y : SyncSettings} (read : parseSync (p.staged .sync) = some y) (seed : p.skew.seed = true) :
    latchSync true p = { p with
      rig := { p.rig with sync := y, shadow := p.rig.shadow.set .sync { p.rig.shadow.get .sync with post := .unposted } }
      skew := { p.skew with
        sampleCount := if p.rig.sync.divider = y.divider then p.skew.sampleCount else 0
        trim := latchedTrim p.rig.sync y p.skew.trim
        satCount := if p.rig.sync.follower = y.follower ∧ latchedTrim p.rig.sync y p.skew.trim = p.skew.trim then
          p.skew.satCount else 0 } } := by
  unfold latchSync validateSync
  rw [read]
  exact skewOnLoadLatch_of_seed (p := (p.onRig fun u => { u with sync := y }).setPost .sync .unposted) seed

/-- EYE settings put in force, and with another pool layout new slots (R44, R174). -/
theorem putEye_eq (x : Eye) (e : EyeSettings) (p : Part) : putEye x e p = { p with
    rig := { p.rig with
      eye := p.rig.eye.set x e, shadow := p.rig.shadow.set (.eye x) { p.rig.shadow.get (.eye x) with post := .unposted } }
    slots :=
      if e.poolBase = (p.eyeSettings x).poolBase ∧ e.slotCount = (p.eyeSettings x).slotCount ∧
          e.slotStride = (p.eyeSettings x).slotStride then p.slots
      else p.slots.set x (List.replicate e.slotCount SlotRecord.free) } := by
  unfold putEye
  simp only [samePool_iff]
  split <;> rfl

/-- OFF or WAITING_SYNC after an EYE latch (R4). -/
theorem streamAfterLatch_of_idle {state : StreamState} (enable : Bool) (lock : SyncState)
    (idle : state = .off ∨ state = .waitingSync) :
    streamAfterLatch state enable (lock == .locked) =
      if enable = false then .off else if state = .off ∧ lock = .locked then .between else .waitingSync := by
  rcases idle with rfl | rfl
  · cases enable <;> cases lock <;> rfl
  · cases enable <;> cases lock <;> rfl

/-- An EYE latch of a stream in OFF or WAITING_SYNC that passes (R4, R44). -/
theorem latchEyeIdle_of_ok {p : Part} {x : Eye} {e : EyeSettings} (passes : validateEye p x (p.staged (.eye x)) = .ok e)
    (idle : (p.stream x).state = .off ∨ (p.stream x).state = .waitingSync) :
    latchEyeIdle x p = { p with
      rig := { p.rig with
        eye := p.rig.eye.set x e, shadow := p.rig.shadow.set (.eye x) { p.rig.shadow.get (.eye x) with post := .unposted } }
      streams := p.streams.set x { p.stream x with
        state :=
          if e.enable = false then .off
          else if (p.stream x).state = .off ∧ (p.acq x).state = .locked then .between
          else .waitingSync
        completed := false }
      slots :=
        if e.poolBase = (p.eyeSettings x).poolBase ∧ e.slotCount = (p.eyeSettings x).slotCount ∧
            e.slotStride = (p.eyeSettings x).slotStride then p.slots
        else p.slots.set x (List.replicate e.slotCount SlotRecord.free) } := by
  have latched : latchEye x p = (putEye x e p, true) := by
    unfold latchEye
    rw [passes]
  have settings : (p.rig.eye.set x e).get x = e := (PerEye.get_set ..).trans (if_pos rfl)
  have next : streamAfterLatch (p.stream x).state ((p.rig.eye.set x e).get x).enable ((p.acq x).state == .locked) =
      if e.enable = false then .off else if (p.stream x).state = .off ∧ (p.acq x).state = .locked then .between
      else .waitingSync := by
    rw [settings]
    exact streamAfterLatch_of_idle e.enable (p.acq x).state idle
  unfold latchEyeIdle
  rw [latched, putEye_eq, ← next]
  rfl

theorem latchEyeIdle_of_error {p : Part} {x : Eye} {reason : RejectReason}
    (fails : validateEye p x (p.staged (.eye x)) = .error reason) :
    latchEyeIdle x p = rejectSection (.eye x) reason false p := by
  have latched : latchEye x p = (rejectSection (.eye x) reason false p, false) := by
    unfold latchEye
    rw [fails]
  unfold latchEyeIdle
  rw [latched]

/-- The part with the settings of a GLOBAL section in force whole, no reader being busy (R174). -/
def Part.withGlobalWhole (p : Part) (g : GlobalSettings) : Part :=
  { p.withPost .global .unposted with rig := { (p.withPost .global .unposted).rig with global := g, windowChange := none } }

theorem withGlobal_of_idle {p : Part} (g : GlobalSettings) (idle : ¬anyBusy p = true) : p.withGlobal g = p.withGlobalWhole g := by
  have settings : latchedGlobal p g = g := if_neg idle
  have window : latchedWindow p g = none := if_neg fun both => idle both.1
  unfold Part.withGlobal
  rw [settings, window]
  rfl

/-- What the load does of a GLOBAL section that passes, no reader being busy (R65, R174, R179, R186). -/
theorem latchGlobal_atLoad {p : Part} {g : GlobalSettings} (passes : validateGlobal p (p.staged .global) = .ok g)
    (idle : ¬anyBusy p = true) :
    latchGlobal false p = { p.withGlobalWhole g with
      pairs := { p.pairs with
        prdy := (prdyOnLatch p.rig.global g (p.withGlobalWhole g)).pairs.prdy
        prdyPulse := (prdyOnLatch p.rig.global g (p.withGlobalWhole g)).pairs.prdyPulse }
      report := p.report.relocated p.rig.global g } := by
  obtain ⟨prdy, pulse, led⟩ := prdyOnLatch_cases p.rig.global g (p.withGlobalWhole g)
  have closed := reportOnLatch_eq p.rig.global { p.withGlobalWhole g with
    pairs := { p.pairs with prdy := prdy, prdyPulse := pulse } }
  refine (latchGlobal_of_ok _ passes).trans ?_
  rw [withGlobal_of_idle g idle]
  unfold globalOnLatch
  rw [if_neg (by simp)]
  show evaluateAlert (reportOnLatch p.rig.global g (prdyOnLatch p.rig.global g (p.withGlobalWhole g))) = _
  rw [led]
  exact closed

/-- The report unit after a GLOBAL latch, by whether its region moved (R186). -/
theorem relocated_spelled (old new : GlobalSettings) (u : ReportUnit) :
    u.relocated old new = { u with
      ringIndex := if old.reportBase ≠ new.reportBase ∨ old.ringSize ≠ new.ringSize then 0 else u.ringIndex
      due := u.due || decide (old.reportBase ≠ new.reportBase ∨ old.ringSize ≠ new.ringSize)
      alertN := decide (u.flags &&& new.alertEnables = 0) } := by
  have stays : (old.reportBase = new.reportBase ∧ old.ringSize = new.ringSize) ↔
      ¬(old.reportBase ≠ new.reportBase ∨ old.ringSize ≠ new.ringSize) := by rw [not_or, not_not, not_not]
  unfold ReportUnit.relocated
  simp only [stays]
  by_cases moved : old.reportBase ≠ new.reportBase ∨ old.ringSize ≠ new.ringSize
  · simp only [moved, not_true, if_true, if_false, decide_true, Bool.or_true]
    rfl
  · simp only [moved, not_false_eq_true, if_true, if_false, decide_false, Bool.or_false]
    rfl

/-- Settles O46: the result, the commands that bring it, and the sections. -/
theorem theLoadFillsTheShadowAndEnds : Obligations.TheLoadFillsTheShadowAndEnds := by
  refine ⟨fun res p => ⟨p.loaded res, fun k => ⟨loaded_post p res k, fun j w held => ?_⟩, fun more => ?_, fun last => ?_⟩, ?_, ?_⟩
  · exact (loaded_word res held).trans (congrArg some ((load_eq _ _ res w).trans (by cases res <;> rfl)))
  · exact (loadReadResult_eq res p).trans ((if_pos more).trans (offerLoadRead_eq _ _))
  · intro ended t
    have same : t = ended.running :=
      (loadReadResult_eq res p).trans ((if_neg (by omega)).trans (endLoad_eq _))
    clear_value ended t
    subst same
    exact ⟨rfl, fun k => running_section ended k⟩
  · intro c m elapsed te data good s running used inFlight owner kind
    constructor
    · rintro ⟨header, rfl, rfl, carries, isGood⟩
      have goodIff : (parseResponse header data).Good te ↔ good = true := by
        rw [parseResponse_good_iff, isGood, kind]
        simp [kindCode]
      have answered := takeResponse_of_inFlight (m := parseResponse header data) used inFlight
      rw [takeResult_of_loadRead owner] at answered
      refine whenRunning_eq running (answered.trans ?_)
      cases good with
      | true =>
        have result : formResult te (parseResponse header data) = .ok data := by
          rw [formResult_of_good (goodIff.mpr rfl), kind]
          exact congrArg MResult.ok (fitBytes_of_length carries)
        rw [result]
        rfl
      | false =>
        rw [formResult_of_bad (mt goodIff.mp (by simp))]
        exact congrArg (fun u => (loadReadResult .fault u).onTxn (TxnUnit.tagFreed (header.toNat / 2 ^ 16 % 256)))
          (memoryFaultEvent_of_loadRead owner kind .fault _ s.hw)
    · rintro ⟨rfl, timer⟩
      refine whenRunning_eq running ((mTimeoutExpiry_of_inFlight used inFlight timer).trans ?_)
      rw [takeResult_of_loadRead owner]
      exact congrArg (loadReadResult .timedOut) (memoryFaultEvent_of_loadRead owner kind .timeout m _)
  · intro p k words marked unposted t
    refine ⟨fun isMarked => loadSection_of_marked ((faulted_iff _).mpr isMarked),
      fun clean wrong => loadSection_of_mismatch (mt (faulted_iff _).mp clean) wrong, fun clean right => ?_⟩
    have latched : t = latchAtLoadEnd k p := loadSection_of_match (mt (faulted_iff _).mp clean) right
    refine ⟨fun isGlobal => ?_, fun isSync => ?_, fun x isEye => ?_, fun r isReader => ?_⟩
    · subst isGlobal
      refine ⟨fun reason fails => latched.trans ((latchGlobal_of_error false fails).trans (rejectSection_eq ..)),
        fun g passes free => ?_⟩
      have idle : ¬anyBusy p = true := fun busy => by
        obtain ⟨r, holding | parked⟩ := (anyBusy_iff p).mp busy
        · exact (free r).1 holding
        · exact (free r).2 parked
      have whole := latched.trans (latchGlobal_atLoad passes idle)
      obtain ⟨same, stopped, off⟩ := prdyOnLatch_pairs p.rig.global (p.withGlobalWhole g)
      have prdy := congrArg (fun u : Part => u.pairs.prdy) whole
      have pulse := congrArg (fun u : Part => u.pairs.prdyPulse) whole
      have pairs := congrArg Part.pairs whole
      refine ⟨?_, fun mode notLevel => pairs.trans ?_, fun mode => pulse.trans (stopped mode),
        fun mode notLevel => prdy.trans (off mode notLevel)⟩
      · rw [prdy, pulse]
        refine whole.trans ?_
        rw [relocated_spelled]
        rfl
      · have kept : (prdyOnLatch p.rig.global g (p.withGlobalWhole g)).pairs = p.pairs := same mode notLevel
        rw [kept]
    · subst isSync
      refine ⟨fun unread => latched.trans ((latchSync_of_unread true unread).trans (rejectSection_eq ..)), fun y read seed => ?_⟩
      have inRange := parseSync_inRange _ _ read
      have ordered : y.trimMin ≤ y.trimMax := by
        unfold syncInRange at inRange
        simp only [Bool.and_eq_true, decide_eq_true_eq] at inRange
        exact inRange.1.1.1.1.1.2
      intro old trim
      have trims : trim = latchedTrim old y p.skew.trim := by
        show (if old.follower = y.follower then max y.trimMin (min p.skew.trim y.trimMax) else y.trimStart) = _
        rw [← clampTrim_eq _ ordered]
        rfl
      rw [trims]
      exact latched.trans (latchSync_atLoad read seed)
    · subst isEye
      exact ⟨fun reason fails => latched.trans ((latchEyeIdle_of_error fails).trans (rejectSection_eq ..)),
        fun e passes idle => latched.trans (latchEyeIdle_of_ok passes idle)⟩
    · subst isReader
      exact latched

end Sys2Proof.Machine

/-! SUPPORT. Words made of fields and read back: the fields of a word, the codes, the check word, the masks (R172, R175, R188). -/

namespace Sys2Proof.Machine

/-! ### Words from fields -/

theorem packWord_toNat (fields : List (Nat × Nat)) : (packWord fields).toNat = (fields.map fun p => p.2 * 2 ^ p.1).sum % 2 ^ 32 :=
  BitVec.toNat_ofNat _ _

/-- The number of a field at bit `lo`, and of the fields after it. -/
theorem fieldSum_cons (lo v : Nat) (fields : List (Nat × Nat)) :
    (((lo, v) :: fields).map fun p => p.2 * 2 ^ p.1).sum = v * 2 ^ lo + (fields.map fun p => p.2 * 2 ^ p.1).sum := by
  rw [List.map_cons, List.sum_cons]

theorem fieldSum_nil : (([] : List (Nat × Nat)).map fun p => p.2 * 2 ^ p.1).sum = 0 := rfl

section
variable {a b c d : Nat}

theorem packWord_toNat_one (fits : a < 2 ^ 32) : (packWord [(0, a)]).toNat = a := by
  rw [packWord_toNat]
  simp only [fieldSum_cons, fieldSum_nil]
  omega

theorem packWord_toNat_halves (low : a < 65536) (high : b < 65536) : (packWord [(0, a), (16, b)]).toNat = a + b * 65536 := by
  rw [packWord_toNat]
  simp only [fieldSum_cons, fieldSum_nil]
  omega

theorem packWord_toNat_bytes_half (first : a < 256) (second : b < 256) (high : c < 65536) :
    (packWord [(0, a), (8, b), (16, c)]).toNat = a + b * 256 + c * 65536 := by
  rw [packWord_toNat]
  simp only [fieldSum_cons, fieldSum_nil]
  omega

theorem packWord_toNat_bytes (first : a < 256) (second : b < 256) (third : c < 256) (fourth : d < 256) :
    (packWord [(0, a), (8, b), (16, c), (24, d)]).toNat = a + 256 * (b + 256 * (c + 256 * d)) := by
  rw [packWord_toNat]
  simp only [fieldSum_cons, fieldSum_nil]
  omega

theorem packWord_toNat_two_bytes (first : a < 256) (second : b < 256) : (packWord [(0, a), (8, b)]).toNat = a + b * 256 := by
  rw [packWord_toNat]
  simp only [fieldSum_cons, fieldSum_nil]
  omega

end

theorem field_eq (w : Word) (lo n : Nat) : field w lo n = w.toNat / 2 ^ lo % 2 ^ n := rfl

theorem field_lt (w : Word) (lo n : Nat) : field w lo n < 2 ^ n := Nat.mod_lt _ (Nat.two_pow_pos n)

/-! ### A word is made of its fields -/

section
variable (w : Word)

theorem packWord_field {n : Nat} (fits : w.toNat < 2 ^ n) : packWord [(0, field w 0 n)] = w := by
  have whole : field w 0 n = w.toNat := by
    rw [field_eq, pow_zero, Nat.div_one, Nat.mod_eq_of_lt fits]
  rw [whole]
  exact BitVec.eq_of_toNat_eq (packWord_toNat_one w.isLt)

theorem packWord_halves : packWord [(0, field w 0 16), (16, field w 16 16)] = w := by
  have bound := w.isLt
  refine BitVec.eq_of_toNat_eq ((packWord_toNat_halves (field_lt w 0 16) (field_lt w 16 16)).trans ?_)
  simp only [field_eq]
  omega

theorem packWord_half_byte (fits : w.toNat < 2 ^ 24) : packWord [(0, field w 0 16), (16, field w 16 8)] = w := by
  have high := field_lt w 16 8
  refine BitVec.eq_of_toNat_eq ((packWord_toNat_halves (field_lt w 0 16) (by omega)).trans ?_)
  simp only [field_eq]
  omega

theorem packWord_bytes_half : packWord [(0, field w 0 8), (8, field w 8 8), (16, field w 16 16)] = w := by
  have bound := w.isLt
  refine BitVec.eq_of_toNat_eq ((packWord_toNat_bytes_half (field_lt w 0 8) (field_lt w 8 8) (field_lt w 16 16)).trans ?_)
  simp only [field_eq]
  omega

theorem packWord_three_bytes (fits : w.toNat < 2 ^ 24) : packWord [(0, field w 0 8), (8, field w 8 8), (16, field w 16 8)] = w := by
  have high := field_lt w 16 8
  refine BitVec.eq_of_toNat_eq ((packWord_toNat_bytes_half (field_lt w 0 8) (field_lt w 8 8) (by omega)).trans ?_)
  simp only [field_eq]
  omega

theorem packWord_bytes : packWord [(0, field w 0 8), (8, field w 8 8), (16, field w 16 8), (24, field w 24 8)] = w := by
  have bound := w.isLt
  refine BitVec.eq_of_toNat_eq
    ((packWord_toNat_bytes (field_lt w 0 8) (field_lt w 8 8) (field_lt w 16 8) (field_lt w 24 8)).trans ?_)
  simp only [field_eq]
  omega

theorem packWord_two_bytes (fits : w.toNat < 2 ^ 16) : packWord [(0, field w 0 8), (8, field w 8 8)] = w := by
  refine BitVec.eq_of_toNat_eq ((packWord_toNat_two_bytes (field_lt w 0 8) (field_lt w 8 8)).trans ?_)
  simp only [field_eq]
  omega

end

/-! ### Signed fields -/

theorem signedBits_lt (n : Nat) (v : Int) : signedBits n v < 2 ^ n := (BitVec.ofInt n v).isLt

theorem signedBits_signedField (w : Word) (lo : Nat) : signedBits 16 (signedField w lo 16) = field w lo 16 := by
  unfold signedBits signedField
  rw [BitVec.ofInt_toInt, BitVec.toNat_ofNat, Nat.mod_eq_of_lt (field_lt w lo 16)]

theorem signedField_of_bits {w : Word} {lo : Nat} {v : Int} (bits : field w lo 16 = signedBits 16 v) (low : -32768 ≤ v)
    (high : v ≤ 32767) : signedField w lo 16 = v := by
  unfold signedField
  rw [bits, signedBits, BitVec.ofNat_toNat, BitVec.setWidth_eq, BitVec.toInt_ofInt]
  exact Int.bmod_eq_of_le (by omega) (by omega)

/-! ### Bits outside the fields (R175) -/

theorem stray_iff {n : Nat} {mask : Word} (w : Word) (ones : mask = BitVec.ofNat 32 (2 ^ n - 1)) :
    w &&& ~~~mask = 0 ↔ w.toNat < 2 ^ n := by
  have bit : ∀ i, (w &&& ~~~mask).getLsbD i = (w.getLsbD i && decide (n ≤ i)) := by
    intro i
    rw [ones, BitVec.getLsbD_and, BitVec.getLsbD_not, BitVec.getLsbD_ofNat, Nat.testBit_two_pow_sub_one]
    by_cases inside : i < 32
    · by_cases low : i < n
      · simp [inside, low]
      · simp [inside, low]
        omega
    · simp [BitVec.getLsbD_of_ge w i (by omega)]
  constructor
  · intro clear
    refine Nat.lt_pow_two_of_testBit _ fun i above => ?_
    have zero := bit i
    rw [clear] at zero
    simpa [above, BitVec.getLsbD] using zero.symm
  · intro small
    refine BitVec.eq_of_getLsbD_eq fun i _ => ?_
    rw [bit]
    by_cases above : n ≤ i
    · have none_set : w.getLsbD i = false := Nat.testBit_lt_two_pow (lt_of_lt_of_le small (Nat.pow_le_pow_right (by omega) above))
      simp [none_set]
    · simp [above]

theorem noStray_cons (mask w : Word) (masks ws : List Word) :
    noStray (mask :: masks) (w :: ws) = true ↔ w &&& ~~~mask = 0 ∧ noStray masks ws = true := by
  simp [noStray]

theorem noStray_nil (ws : List Word) : noStray [] ws = true := rfl

/-! ### Codes -/

theorem parseBool_iff (n : Nat) (b : Bool) : parseBool n = some b ↔ n = boolCode b := by
  unfold parseBool boolCode
  split <;> cases b <;> simp_all

theorem parseLayout_iff (n : Nat) (v : Layout) : parseLayout n = some v ↔ n = layoutCode v := by
  unfold parseLayout layoutCode
  split <;> cases v <;> simp_all

theorem parsePrdyMode_iff (n : Nat) (v : PrdyMode) : parsePrdyMode n = some v ↔ n = prdyModeCode v := by
  unfold parsePrdyMode prdyModeCode
  split <;> cases v <;> simp_all

theorem parseReaderId_iff (n : Nat) (v : ReaderId) : parseReaderId n = some v ↔ n = readerCode v := by
  unfold parseReaderId readerCode
  split <;> cases v <;> simp_all

theorem parseGain_iff (n : Nat) (v : Gain) : parseGain n = some v ↔ n = gainCode v := by
  unfold parseGain gainCode
  split <;> cases v <;> simp_all

theorem parseEyeCode_iff (n : Nat) (v : Eye) : parseEyeCode n = some v ↔ n = eyeCode v := by
  unfold parseEyeCode eyeCode
  split <;> cases v <;> simp_all

theorem parsePolicy_iff (n : Nat) (v : Policy) : parsePolicy n = some v ↔ n = policyCode v := by
  unfold parsePolicy policyCode
  split <;> cases v <;> simp_all

theorem parseWaitMode_iff (n : Nat) (v : WaitMode) : parseWaitMode n = some v ↔ n = waitModeCode v := by
  unfold parseWaitMode waitModeCode
  split <;> cases v <;> simp_all

/-! ### The check word (R172) -/

theorem foldl_add_toNat (ws : List Word) (v : Word) :
    (ws.foldl (· + ·) v).toNat = (v.toNat + (ws.map BitVec.toNat).sum) % 2 ^ 32 := by
  induction ws generalizing v with
  | nil => simp [Nat.mod_eq_of_lt v.isLt]
  | cons w ws ih =>
    rw [List.foldl_cons, ih, List.map_cons, List.sum_cons, BitVec.toNat_add]
    omega

theorem checkWord_toNat (ws : List Word) : (checkWord ws).toNat = 2 ^ 32 - 1 - (ws.map BitVec.toNat).sum % 2 ^ 32 := by
  rw [checkWord, BitVec.toNat_not, foldl_add_toNat]
  simp

theorem checkMatches_append_iff (ws : List Word) (c : Word) :
    checkMatches (ws ++ [c]) = true ↔ c.toNat = 2 ^ 32 - 1 - (ws.map BitVec.toNat).sum % 2 ^ 32 := by
  rw [← checkWord_toNat, BitVec.toNat_inj]
  simp [checkMatches]

end Sys2Proof.Machine

/-! SUPPORT. The words of the four kinds of section and the settings read back from them (R175, R188). -/

namespace Sys2Proof.Machine

/-! ### GLOBAL -/

theorem code_bounds (g : GlobalSettings) :
    layoutCode g.layout < 256 ∧ prdyModeCode g.prdyMode < 256 ∧ readerCode g.prdyReader < 256 := by
  refine ⟨?_, ?_, ?_⟩
  · cases g.layout <;> decide
  · cases g.prdyMode <;> decide
  · cases g.prdyReader <;> decide

/-- The ranges of GLOBAL settings that section words can hold (R175). -/
structure GlobalSettings.InRange (g : GlobalSettings) : Prop where
  windowPage : g.windowBase % 4096 = 0
  windowEnd : g.windowBase + 2 ^ 29 ≤ 2 ^ 40
  tolerance : g.matchTolerance < 65536
  limitLow : 100 ≤ g.frameLimit
  limitHigh : g.frameLimit < 65536
  timeoutLow : 16 ≤ g.mTimeout
  timeoutHigh : g.mTimeout < 65536
  reportPage : g.reportBase % 4096 = 0
  reportEnd : g.reportBase + 256 + 32 * g.ringSize ≤ 2 ^ 40
  ring : g.ringSize ∈ [16, 32, 64, 128, 256, 512, 1024, 2048, 4096]
  intervalLow : 1 ≤ g.statusInterval
  intervalHigh : g.statusInterval < 256

theorem ringSize_le {n : Nat} (ring : n ∈ [16, 32, 64, 128, 256, 512, 1024, 2048, 4096]) : n ≤ 4096 := by
  simp only [List.mem_cons, List.not_mem_nil, or_false] at ring
  omega

theorem noStray_global_iff (w0 w1 w2 w3 w4 w5 w6 w7 : Word) (rest : List Word) :
    noStray globalMasks (w0 :: w1 :: w2 :: w3 :: w4 :: w5 :: w6 :: w7 :: rest) = true ↔
      w1.toNat < 2 ^ 28 ∧ w2.toNat < 2 ^ 24 ∧ w5.toNat < 2 ^ 28 ∧ w6.toNat < 2 ^ 24 ∧ w7.toNat < 2 ^ 11 := by
  have any : ∀ w : Word, w &&& ~~~(0xFFFFFFFF : Word) = 0 := fun w => (stray_iff (n := 32) w rfl).mpr w.isLt
  simp only [globalMasks, noStray_cons, noStray_nil, any, true_and, and_true, stray_iff (n := 28) _ (mask := 0x0FFFFFFF) rfl,
    stray_iff (n := 24) _ (mask := 0x00FFFFFF) rfl, stray_iff (n := 11) _ (mask := 0x000007FF) rfl]

/-- What the words of a GLOBAL section must be for settings to be read from them (R175, R188). -/
theorem parseGlobal_iff (w0 w1 w2 w3 w4 w5 w6 w7 : Word) (rest : List Word) (g : GlobalSettings) :
    parseGlobal (w0 :: w1 :: w2 :: w3 :: w4 :: w5 :: w6 :: w7 :: rest) = some g ↔
      (w0 = g.take ∧ 4096 * field w1 0 28 = g.windowBase ∧ field w2 0 8 = layoutCode g.layout ∧
        field w2 8 8 = prdyModeCode g.prdyMode ∧ field w2 16 8 = readerCode g.prdyReader ∧ field w3 0 16 = g.matchTolerance ∧
        field w3 16 16 = g.fill.toNat ∧ field w4 0 16 = g.frameLimit ∧ field w4 16 16 = g.mTimeout ∧
        4096 * field w5 0 28 = g.reportBase ∧ field w6 0 16 = g.ringSize ∧ field w6 16 8 = g.statusInterval ∧
        field w7 0 11 = g.alertEnables.toNat) ∧
      noStray globalMasks (w0 :: w1 :: w2 :: w3 :: w4 :: w5 :: w6 :: w7 :: rest) = true ∧ 100 ≤ g.frameLimit ∧ 16 ≤ g.mTimeout ∧
      g.ringSize ∈ [16, 32, 64, 128, 256, 512, 1024, 2048, 4096] ∧ 1 ≤ g.statusInterval ∧ g.windowBase + 2 ^ 29 ≤ 2 ^ 40 ∧
      g.reportBase + 256 + 32 * g.ringSize ≤ 2 ^ 40 := by
  have fill : (BitVec.ofNat 16 (field w3 16 16)).toNat = field w3 16 16 :=
    (BitVec.toNat_ofNat _ _).trans (Nat.mod_eq_of_lt (field_lt w3 16 16))
  have enables : (BitVec.ofNat 11 (field w7 0 11)).toNat = field w7 0 11 :=
    (BitVec.toNat_ofNat _ _).trans (Nat.mod_eq_of_lt (field_lt w7 0 11))
  constructor
  · intro read
    unfold parseGlobal at read
    dsimp only at read
    split at read
    · rename_i layout mode reader isLayout isMode isReader
      split at read
      · rename_i ranges
        obtain rfl := Option.some.inj read
        obtain ⟨stray, limit, timeout, ring, interval, window, report⟩ := ranges
        refine ⟨⟨rfl, rfl, (parseLayout_iff _ _).mp isLayout, (parsePrdyMode_iff _ _).mp isMode,
          (parseReaderId_iff _ _).mp isReader, rfl, fill.symm, rfl, rfl, rfl, rfl, rfl, enables.symm⟩, stray, limit, timeout, ring,
          interval, ?_, ?_⟩
        · rw [Nat.add_comm]
          exact window
        · rw [Nat.add_assoc, Nat.mul_comm 32]
          exact report
      · cases read
    · cases read
  · obtain ⟨take, windowBase, layout, prdyMode, prdyReader, matchTolerance, gFill, frameLimit, mTimeout, reportBase, ringSize,
      statusInterval, alertEnables⟩ := g
    rintro ⟨⟨rfl, rfl, isLayout, isMode, isReader, rfl, isFill, rfl, rfl, rfl, rfl, rfl, isEnables⟩, stray, limit, timeout, ring,
      interval, window, report⟩
    obtain rfl : BitVec.ofNat 16 (field w3 16 16) = gFill := BitVec.eq_of_toNat_eq (fill.trans isFill)
    obtain rfl : BitVec.ofNat 11 (field w7 0 11) = alertEnables := BitVec.eq_of_toNat_eq (enables.trans isEnables)
    unfold parseGlobal
    dsimp only
    rw [(parseLayout_iff _ _).mpr isLayout, (parsePrdyMode_iff _ _).mpr isMode, (parseReaderId_iff _ _).mpr isReader]
    refine if_pos ⟨stray, limit, timeout, ring, interval, ?_, ?_⟩
    · rw [Nat.add_comm] at window
      exact window
    · rw [Nat.add_assoc, Nat.mul_comm 32] at report
      exact report

theorem parseGlobal_encode {g : GlobalSettings} (range : g.InRange) (rest : List Word) :
    parseGlobal (encodeGlobal g ++ rest) = some g := by
  obtain ⟨windowPage, windowEnd, tolerance, limitLow, limitHigh, timeoutLow, timeoutHigh, reportPage, reportEnd, ring, intervalLow,
    intervalHigh⟩ := range
  obtain ⟨layoutCode_lt, modeCode_lt, readerCode_lt⟩ := code_bounds g
  have ringLe := ringSize_le ring
  have fill := g.fill.isLt
  have enables := g.alertEnables.isLt
  have w1 := packWord_toNat_one (a := g.windowBase / 4096) (by omega)
  have w2 := packWord_toNat_bytes_half layoutCode_lt modeCode_lt (c := readerCode g.prdyReader) (by omega)
  have w3 := packWord_toNat_halves tolerance fill
  have w4 := packWord_toNat_halves limitHigh timeoutHigh
  have w5 := packWord_toNat_one (a := g.reportBase / 4096) (by omega)
  have w6 := packWord_toNat_halves (a := g.ringSize) (b := g.statusInterval) (by omega) (by omega)
  have w7 := packWord_toNat_one (a := g.alertEnables.toNat) (by omega)
  refine (parseGlobal_iff ..).mpr ⟨⟨rfl, ?_, ?_, ?_, ?_, ?_, ?_, ?_, ?_, ?_, ?_, ?_, ?_⟩,
    (noStray_global_iff ..).mpr ⟨?_, ?_, ?_, ?_, ?_⟩, limitLow, timeoutLow, ring, intervalLow, windowEnd, reportEnd⟩
  all_goals
    simp only [field_eq, Config.page, w1, w2, w3, w4, w5, w6, w7]
    omega

theorem encodeGlobal_of_parse {w0 w1 w2 w3 w4 w5 w6 w7 : Word} {rest : List Word} {g : GlobalSettings}
    (read : parseGlobal (w0 :: w1 :: w2 :: w3 :: w4 :: w5 :: w6 :: w7 :: rest) = some g) :
    encodeGlobal g = [w0, w1, w2, w3, w4, w5, w6, w7] ∧ g.windowBase % 4096 = 0 ∧ g.windowBase + 2 ^ 29 ≤ 2 ^ 40 ∧
      100 ≤ g.frameLimit ∧ 16 ≤ g.mTimeout ∧ g.reportBase % 4096 = 0 ∧ g.reportBase + 256 + 32 * g.ringSize ≤ 2 ^ 40 ∧
      g.ringSize ∈ [16, 32, 64, 128, 256, 512, 1024, 2048, 4096] ∧ 1 ≤ g.statusInterval := by
  obtain ⟨⟨take, window, layout, mode, reader, tolerance, fill, limit, timeout, report, ring, interval, enables⟩, stray, limitLow,
    timeoutLow, ringSize, intervalLow, windowEnd, reportEnd⟩ := (parseGlobal_iff ..).mp read
  obtain ⟨s1, s2, s5, s6, s7⟩ := (noStray_global_iff ..).mp stray
  have windowPage : g.windowBase / Config.page = field w1 0 28 := by simp only [Config.page]; omega
  have reportPage : g.reportBase / Config.page = field w5 0 28 := by simp only [Config.page]; omega
  refine ⟨?_, by omega, windowEnd, limitLow, timeoutLow, by omega, reportEnd, ringSize, intervalLow⟩
  unfold encodeGlobal
  rw [← take, windowPage, ← layout, ← mode, ← reader, ← tolerance, ← fill, ← limit, ← timeout, reportPage, ← ring, ← interval,
    ← enables, packWord_field w1 s1, packWord_three_bytes w2 s2, packWord_halves, packWord_halves, packWord_field w5 s5,
    packWord_half_byte w6 s6, packWord_field w7 s7]

end Sys2Proof.Machine

/-! SUPPORT. The words of SYNC, EYE and READER sections, and the settings read back from them (R175, R188). -/

namespace Sys2Proof.Machine

theorem boolCode_lt (b : Bool) : boolCode b < 256 := by cases b <;> decide

/-! ### SYNC -/

theorem trimInRange_iff (t : Int) : trimInRange t = true ↔ -2048 ≤ t ∧ t ≤ 2047 := by simp [trimInRange]

theorem syncInRange_iff (y : SyncSettings) : syncInRange y = true ↔
    y.filterShift ≤ 7 ∧ 1 ≤ y.divider ∧ y.divider ≤ 4 ∧ 1 ≤ y.upRate ∧ 1 ≤ y.downRate ∧ y.warnLimit ≤ y.faultLimit ∧
      y.hysteresis ≤ y.warnLimit ∧ y.trimMin ≤ y.trimMax ∧ y.trimMin ≤ y.trimStart ∧ y.trimStart ≤ y.trimMax ∧
      1 ≤ y.syncLossMs ∧ -2048 ≤ y.trimMin ∧ y.trimMax ≤ 2047 := by
  simp only [syncInRange, Bool.and_eq_true, decide_eq_true_eq, trimInRange_iff]
  omega

theorem noStray_sync_iff (w0 w1 w2 w3 w4 w5 w6 : Word) (rest : List Word) :
    noStray syncMasks (w0 :: w1 :: w2 :: w3 :: w4 :: w5 :: w6 :: rest) = true ↔ w6.toNat < 2 ^ 16 := by
  have any : ∀ w : Word, w &&& ~~~(0xFFFFFFFF : Word) = 0 := fun w => (stray_iff (n := 32) w rfl).mpr w.isLt
  simp only [syncMasks, noStray_cons, noStray_nil, any, true_and, and_true, stray_iff (n := 16) _ (mask := 0x0000FFFF) rfl]

/-- What the words of a SYNC section must be for settings to be read from them (R125, R175, R188). -/
theorem parseSync_iff (w0 w1 w2 w3 w4 w5 w6 : Word) (rest : List Word) (y : SyncSettings) :
    parseSync (w0 :: w1 :: w2 :: w3 :: w4 :: w5 :: w6 :: rest) = some y ↔
      (field w0 0 8 = eyeCode y.follower ∧ field w0 8 8 = y.filterShift ∧ field w0 16 8 = y.divider ∧
        field w0 24 8 = gainCode y.gain ∧ signedField w1 0 16 = y.target ∧ field w1 16 16 = y.deadBand ∧
        field w2 0 16 = y.warnLimit ∧ field w2 16 16 = y.faultLimit ∧ field w3 0 16 = y.hysteresis ∧
        field w3 16 16 = y.periodTolerance ∧ field w4 0 8 = y.upRate ∧ field w4 8 8 = y.downRate ∧
        field w4 16 8 = boolCode y.directOnFault ∧ field w4 24 8 = y.syncLossMs ∧ signedField w5 0 16 = y.trimMin ∧
        signedField w5 16 16 = y.trimMax ∧ signedField w6 0 16 = y.trimStart) ∧
      noStray syncMasks (w0 :: w1 :: w2 :: w3 :: w4 :: w5 :: w6 :: rest) = true ∧ syncInRange y = true := by
  constructor
  · intro read
    unfold parseSync at read
    dsimp only at read
    split at read
    · rename_i follower gain direct isFollower isGain isDirect
      split at read
      · rename_i ranges
        obtain rfl := Option.some.inj read
        exact ⟨⟨(parseEyeCode_iff _ _).mp isFollower, rfl, rfl, (parseGain_iff _ _).mp isGain, rfl, rfl, rfl, rfl, rfl, rfl, rfl,
          rfl, (parseBool_iff _ _).mp isDirect, rfl, rfl, rfl, rfl⟩, ranges⟩
      · cases read
    · cases read
  · obtain ⟨follower, target, filterShift, warnLimit, faultLimit, hysteresis, gain, divider, upRate, downRate, deadBand, trimMin,
      trimMax, trimStart, directOnFault, periodTolerance, syncLossMs⟩ := y
    rintro ⟨⟨isFollower, rfl, rfl, isGain, rfl, rfl, rfl, rfl, rfl, rfl, rfl, rfl, isDirect, rfl, rfl, rfl, rfl⟩, ranges⟩
    unfold parseSync
    dsimp only
    rw [(parseEyeCode_iff _ _).mpr isFollower, (parseGain_iff _ _).mpr isGain, (parseBool_iff _ _).mpr isDirect]
    exact if_pos ranges

theorem parseSync_encode {y : SyncSettings} (range : syncInRange y = true) (filterShift : y.filterShift < 256)
    (divider : y.divider < 256) (warnLimit : y.warnLimit < 65536) (faultLimit : y.faultLimit < 65536)
    (hysteresis : y.hysteresis < 65536) (upRate : y.upRate < 256) (downRate : y.downRate < 256) (deadBand : y.deadBand < 65536)
    (periodTolerance : y.periodTolerance < 65536) (syncLossMs : y.syncLossMs < 256) (targetLow : -32768 ≤ y.target)
    (targetHigh : y.target ≤ 32767) (rest : List Word) : parseSync (encodeSync y ++ rest) = some y := by
  obtain ⟨_, _, _, _, _, _, _, minMax, minStart, startMax, _, low, high⟩ := (syncInRange_iff y).mp range
  have eye : eyeCode y.follower < 256 := by cases y.follower <;> decide
  have gain : gainCode y.gain < 256 := by cases y.gain <;> decide
  have target := signedBits_lt 16 y.target
  have trimMin := signedBits_lt 16 y.trimMin
  have trimMax := signedBits_lt 16 y.trimMax
  have trimStart := signedBits_lt 16 y.trimStart
  have direct := boolCode_lt y.directOnFault
  have w0 := packWord_toNat_bytes eye filterShift divider gain
  have w1 := packWord_toNat_halves target deadBand
  have w2 := packWord_toNat_halves warnLimit faultLimit
  have w3 := packWord_toNat_halves hysteresis periodTolerance
  have w4 := packWord_toNat_bytes upRate downRate direct syncLossMs
  have w5 := packWord_toNat_halves trimMin trimMax
  have w6 := packWord_toNat_one (a := signedBits 16 y.trimStart) (by omega)
  refine (parseSync_iff ..).mpr ⟨⟨?_, ?_, ?_, ?_, signedField_of_bits ?_ targetLow targetHigh, ?_, ?_, ?_, ?_, ?_, ?_, ?_, ?_, ?_,
    signedField_of_bits ?_ (by omega) (by omega), signedField_of_bits ?_ (by omega) (by omega),
    signedField_of_bits ?_ (by omega) (by omega)⟩, (noStray_sync_iff ..).mpr ?_, range⟩
  all_goals
    simp only [field_eq, w0, w1, w2, w3, w4, w5, w6]
    omega

theorem encodeSync_of_parse {w0 w1 w2 w3 w4 w5 w6 : Word} {rest : List Word} {y : SyncSettings}
    (read : parseSync (w0 :: w1 :: w2 :: w3 :: w4 :: w5 :: w6 :: rest) = some y) :
    encodeSync y = [w0, w1, w2, w3, w4, w5, w6] ∧ syncInRange y = true := by
  obtain ⟨⟨follower, filterShift, divider, gain, target, deadBand, warnLimit, faultLimit, hysteresis, periodTolerance, upRate,
    downRate, direct, syncLossMs, trimMin, trimMax, trimStart⟩, stray, range⟩ := (parseSync_iff ..).mp read
  refine ⟨?_, range⟩
  unfold encodeSync
  rw [← follower, ← filterShift, ← divider, ← gain, ← target, ← deadBand, ← warnLimit, ← faultLimit, ← hysteresis,
    ← periodTolerance, ← upRate, ← downRate, ← direct, ← syncLossMs, ← trimMin, ← trimMax, ← trimStart]
  simp only [signedBits_signedField, packWord_bytes, packWord_halves, packWord_field w6 ((noStray_sync_iff ..).mp stray)]

/-! ### EYE -/

theorem geometryInRange_iff (g : Geometry) : geometryInRange g = true ↔
    64 ≤ g.width ∧ g.width ≤ 8192 ∧ 1 ≤ g.pixelBytes ∧ g.pixelBytes ≤ 8 ∧ 16 ≤ g.lines ∧ g.lines ≤ 4352 ∧ g.top ≤ 64 ∧
      g.bottom ≤ 64 ∧ -256 ≤ g.shift ∧ g.shift ≤ 255 := by
  simp only [geometryInRange, Bool.and_eq_true, decide_eq_true_eq]
  omega

theorem noStray_eye_iff (w0 w1 w2 w3 w4 w5 w6 w7 : Word) (rest : List Word) :
    noStray eyeMasks (w0 :: w1 :: w2 :: w3 :: w4 :: w5 :: w6 :: w7 :: rest) = true ↔
      w4.toNat < 2 ^ 28 ∧ w5.toNat < 2 ^ 28 ∧ w6.toNat < 2 ^ 8 := by
  have any : ∀ w : Word, w &&& ~~~(0xFFFFFFFF : Word) = 0 := fun w => (stray_iff (n := 32) w rfl).mpr w.isLt
  simp only [eyeMasks, noStray_cons, noStray_nil, any, true_and, and_true, stray_iff (n := 28) _ (mask := 0x0FFFFFFF) rfl,
    stray_iff (n := 8) _ (mask := 0x000000FF) rfl]

/-- What the words of an EYE section must be for settings to be read from them (R96, R175, R188). -/
theorem parseEye_iff (w0 w1 w2 w3 w4 w5 w6 w7 : Word) (rest : List Word) (e : EyeSettings) :
    parseEye (w0 :: w1 :: w2 :: w3 :: w4 :: w5 :: w6 :: w7 :: rest) = some e ↔
      (field w0 0 8 = boolCode e.enable ∧ field w0 8 8 = boolCode e.geom.hflip ∧ field w0 16 8 = boolCode e.geom.vflip ∧
        field w0 24 8 = e.geom.pixelBytes ∧ field w1 0 16 = e.geom.width ∧ field w1 16 16 = e.geom.lines ∧
        field w2 0 8 = e.geom.top ∧ field w2 8 8 = e.geom.bottom ∧ signedField w2 16 16 = e.geom.shift ∧
        field w3 0 32 = e.geom.pitch ∧ 4096 * field w4 0 28 = e.captureBase ∧ 4096 * field w5 0 28 = e.poolBase ∧
        field w6 0 8 = e.slotCount ∧ field w7 0 32 = e.slotStride) ∧
      noStray eyeMasks (w0 :: w1 :: w2 :: w3 :: w4 :: w5 :: w6 :: w7 :: rest) = true ∧ geometryInRange e.geom = true ∧
      e.captureBase + 2 ^ 28 ≤ 2 ^ 40 := by
  constructor
  · intro read
    unfold parseEye at read
    dsimp only at read
    split at read
    · rename_i enable hflip vflip isEnable isHflip isVflip
      split at read
      · rename_i ranges
        obtain rfl := Option.some.inj read
        obtain ⟨stray, geometry, capture⟩ := ranges
        rw [Nat.add_comm] at capture
        exact ⟨⟨(parseBool_iff _ _).mp isEnable, (parseBool_iff _ _).mp isHflip, (parseBool_iff _ _).mp isVflip, rfl, rfl, rfl, rfl,
          rfl, rfl, rfl, rfl, rfl, rfl, rfl⟩, stray, geometry, capture⟩
      · cases read
    · cases read
  · obtain ⟨enable, ⟨width, pixelBytes, lines, top, bottom, shift, hflip, vflip, pitch⟩, captureBase, poolBase, slotCount,
      slotStride⟩ := e
    rintro ⟨⟨isEnable, isHflip, isVflip, rfl, rfl, rfl, rfl, rfl, rfl, rfl, rfl, rfl, rfl, rfl⟩, stray, geometry, capture⟩
    rw [Nat.add_comm] at capture
    unfold parseEye
    dsimp only
    rw [(parseBool_iff _ _).mpr isEnable, (parseBool_iff _ _).mpr isHflip, (parseBool_iff _ _).mpr isVflip]
    exact if_pos ⟨stray, geometry, capture⟩

theorem parseEye_encode {e : EyeSettings} (geometry : geometryInRange e.geom = true) (pitch : e.geom.pitch < 2 ^ 32)
    (slotCount : e.slotCount < 256) (slotStride : e.slotStride < 2 ^ 32) (capturePage : e.captureBase % 4096 = 0)
    (captureEnd : e.captureBase + 2 ^ 28 ≤ 2 ^ 40) (poolPage : e.poolBase % 4096 = 0) (poolEnd : e.poolBase < 2 ^ 40)
    (rest : List Word) : parseEye (encodeEye e ++ rest) = some e := by
  obtain ⟨_, width, _, pixelBytes, _, lines, top, bottom, shiftLow, shiftHigh⟩ := (geometryInRange_iff _).mp geometry
  have shift := signedBits_lt 16 e.geom.shift
  have enable := boolCode_lt e.enable
  have hflip := boolCode_lt e.geom.hflip
  have vflip := boolCode_lt e.geom.vflip
  have w0 := packWord_toNat_bytes enable hflip vflip (d := e.geom.pixelBytes) (by omega)
  have w1 := packWord_toNat_halves (a := e.geom.width) (b := e.geom.lines) (by omega) (by omega)
  have w2 := packWord_toNat_bytes_half (a := e.geom.top) (b := e.geom.bottom) (by omega) (by omega) shift
  have w3 := packWord_toNat_one pitch
  have w4 := packWord_toNat_one (a := e.captureBase / 4096) (by omega)
  have w5 := packWord_toNat_one (a := e.poolBase / 4096) (by omega)
  have w6 := packWord_toNat_one (a := e.slotCount) (by omega)
  have w7 := packWord_toNat_one slotStride
  refine (parseEye_iff ..).mpr ⟨⟨?_, ?_, ?_, ?_, ?_, ?_, ?_, ?_, signedField_of_bits ?_ (by omega) (by omega), ?_, ?_, ?_, ?_, ?_⟩,
    (noStray_eye_iff ..).mpr ⟨?_, ?_, ?_⟩, geometry, captureEnd⟩
  all_goals
    simp only [field_eq, Config.page, w0, w1, w2, w3, w4, w5, w6, w7]
    omega

theorem encodeEye_of_parse {w0 w1 w2 w3 w4 w5 w6 w7 : Word} {rest : List Word} {e : EyeSettings}
    (read : parseEye (w0 :: w1 :: w2 :: w3 :: w4 :: w5 :: w6 :: w7 :: rest) = some e) :
    encodeEye e = [w0, w1, w2, w3, w4, w5, w6, w7] ∧ geometryInRange e.geom = true ∧ e.captureBase % 4096 = 0 ∧
      e.captureBase + 2 ^ 28 ≤ 2 ^ 40 ∧ e.poolBase % 4096 = 0 ∧ e.poolBase < 2 ^ 40 := by
  obtain ⟨⟨enable, hflip, vflip, pixelBytes, width, lines, top, bottom, shift, pitch, capture, pool, slotCount, slotStride⟩, stray,
    geometry, captureEnd⟩ := (parseEye_iff ..).mp read
  obtain ⟨s4, s5, s6⟩ := (noStray_eye_iff ..).mp stray
  have poolField := field_lt w5 0 28
  have capturePage : e.captureBase / Config.page = field w4 0 28 := by simp only [Config.page]; omega
  have poolPage : e.poolBase / Config.page = field w5 0 28 := by simp only [Config.page]; omega
  refine ⟨?_, geometry, by omega, captureEnd, by omega, by omega⟩
  unfold encodeEye
  rw [capturePage, poolPage, ← enable, ← hflip, ← vflip, ← pixelBytes, ← width, ← lines, ← top, ← bottom, ← shift, ← pitch,
    ← slotCount, ← slotStride]
  simp only [signedBits_signedField, packWord_bytes, packWord_halves, packWord_bytes_half, packWord_field w3 w3.isLt,
    packWord_field w4 s4, packWord_field w5 s5, packWord_field w6 s6, packWord_field w7 w7.isLt]

/-! ### READER -/

theorem noStray_reader_iff (w0 w1 w2 : Word) (rest : List Word) :
    noStray readerMasks (w0 :: w1 :: w2 :: rest) = true ↔ w2.toNat < 2 ^ 16 := by
  have any : ∀ w : Word, w &&& ~~~(0xFFFFFFFF : Word) = 0 := fun w => (stray_iff (n := 32) w rfl).mpr w.isLt
  simp only [readerMasks, noStray_cons, noStray_nil, any, true_and, and_true, stray_iff (n := 16) _ (mask := 0x0000FFFF) rfl]

/-- What the words of a READER section must be for settings to be read from them (R67, R175, R188). -/
theorem parseReader_iff (w0 w1 w2 : Word) (rest : List Word) (v : ReaderSettings) :
    parseReader (w0 :: w1 :: w2 :: rest) = some v ↔
      (field w0 0 8 = boolCode v.enabled ∧ field w0 8 8 = v.sourceTag ∧ field w0 16 8 = policyCode v.policy ∧
        field w0 24 8 = waitModeCode v.waitMode ∧ field w1 0 16 = v.parkLimit ∧ field w1 16 16 = v.lease ∧
        field w2 0 8 = boolCode v.skipDamaged ∧ field w2 8 8 = boolCode v.restartTakes) ∧
      noStray readerMasks (w0 :: w1 :: w2 :: rest) = true ∧ v.sourceTag ≤ 63 ∧ 100 ≤ v.parkLimit ∧ 100 ≤ v.lease := by
  constructor
  · intro read
    unfold parseReader at read
    dsimp only at read
    split at read
    · rename_i enabled policy waitMode skip restart isEnabled isPolicy isWaitMode isSkip isRestart
      split at read
      · rename_i ranges
        obtain rfl := Option.some.inj read
        exact ⟨⟨(parseBool_iff _ _).mp isEnabled, rfl, (parsePolicy_iff _ _).mp isPolicy, (parseWaitMode_iff _ _).mp isWaitMode, rfl,
          rfl, (parseBool_iff _ _).mp isSkip, (parseBool_iff _ _).mp isRestart⟩, ranges⟩
      · cases read
    · cases read
  · obtain ⟨enabled, sourceTag, policy, waitMode, parkLimit, lease, skipDamaged, restartTakes⟩ := v
    rintro ⟨⟨isEnabled, rfl, isPolicy, isWaitMode, rfl, rfl, isSkip, isRestart⟩, ranges⟩
    unfold parseReader
    dsimp only
    rw [(parseBool_iff _ _).mpr isEnabled, (parsePolicy_iff _ _).mpr isPolicy, (parseWaitMode_iff _ _).mpr isWaitMode,
      (parseBool_iff _ _).mpr isSkip, (parseBool_iff _ _).mpr isRestart]
    exact if_pos ranges

theorem parseReader_encode {v : ReaderSettings} (sourceTag : v.sourceTag ≤ 63) (parkLow : 100 ≤ v.parkLimit)
    (parkHigh : v.parkLimit < 65536) (leaseLow : 100 ≤ v.lease) (leaseHigh : v.lease < 65536) (rest : List Word) :
    parseReader (encodeReader v ++ rest) = some v := by
  have policy : policyCode v.policy < 256 := by cases v.policy <;> decide
  have waitMode : waitModeCode v.waitMode < 256 := by cases v.waitMode <;> decide
  have skip := boolCode_lt v.skipDamaged
  have restart := boolCode_lt v.restartTakes
  have enabled := boolCode_lt v.enabled
  have w0 := packWord_toNat_bytes enabled (b := v.sourceTag) (by omega) policy waitMode
  have w1 := packWord_toNat_halves parkHigh leaseHigh
  have w2 := packWord_toNat_two_bytes skip restart
  refine (parseReader_iff ..).mpr ⟨⟨?_, ?_, ?_, ?_, ?_, ?_, ?_, ?_⟩, (noStray_reader_iff ..).mpr ?_, sourceTag, parkLow, leaseLow⟩
  all_goals
    simp only [field_eq, w0, w1, w2]
    omega

theorem encodeReader_of_parse {w0 w1 w2 : Word} {rest : List Word} {v : ReaderSettings}
    (read : parseReader (w0 :: w1 :: w2 :: rest) = some v) :
    encodeReader v = [w0, w1, w2] ∧ v.sourceTag ≤ 63 ∧ 100 ≤ v.parkLimit ∧ 100 ≤ v.lease := by
  obtain ⟨⟨enabled, sourceTag, policy, waitMode, parkLimit, lease, skip, restart⟩, stray, ranges⟩ := (parseReader_iff ..).mp read
  refine ⟨?_, ranges⟩
  unfold encodeReader
  rw [← enabled, ← sourceTag, ← policy, ← waitMode, ← parkLimit, ← lease, ← skip, ← restart, packWord_bytes, packWord_halves,
    packWord_two_bytes w2 ((noStray_reader_iff ..).mp stray)]

end Sys2Proof.Machine

/-! SUPPORT. The sections of the rig table: their words, their check words and their places (R172, R173, R188). -/

namespace Sys2Proof.Machine

/-! ### A section's words with a check word after them -/

theorem exists_append_of_length {ws : List Word} {n : Nat} (sized : ws.length = n + 1) : ∃ us c, ws = us ++ [c] ∧ us.length = n := by
  have some_word : ws ≠ [] := by
    rintro rfl
    cases sized
  refine ⟨ws.dropLast, ws.getLast some_word, (List.dropLast_append_getLast some_word).symm, ?_⟩
  rw [List.length_dropLast, sized]
  rfl

theorem eight_words {ws : List Word} (sized : ws.length = 8) :
    ∃ w0 w1 w2 w3 w4 w5 w6 w7, ws = [w0, w1, w2, w3, w4, w5, w6, w7] := by
  match ws, sized with
  | [w0, w1, w2, w3, w4, w5, w6, w7], _ => exact ⟨w0, w1, w2, w3, w4, w5, w6, w7, rfl⟩

theorem seven_words {ws : List Word} (sized : ws.length = 7) : ∃ w0 w1 w2 w3 w4 w5 w6, ws = [w0, w1, w2, w3, w4, w5, w6] := by
  match ws, sized with
  | [w0, w1, w2, w3, w4, w5, w6], _ => exact ⟨w0, w1, w2, w3, w4, w5, w6, rfl⟩

theorem three_words {ws : List Word} (sized : ws.length = 3) : ∃ w0 w1 w2, ws = [w0, w1, w2] := by
  match ws, sized with
  | [w0, w1, w2], _ => exact ⟨w0, w1, w2, rfl⟩

/-! ### The words, spelled by their places -/

theorem packWord_eq (fields : List (Nat × Nat)) : packWord fields = BitVec.ofNat 32 (fields.map fun p => p.2 * 2 ^ p.1).sum := rfl

/-! ### The places of the sections -/

/-- A write covers a byte of one of the words at an offset just where it covers a byte of their whole run. -/
theorem any_coversWord_iff {words : Nat} (o n offset : Nat) (some_word : 0 < words) (some_byte : 0 < n) :
    ((List.range words).any fun j => coversWord o n (offset + 4 * j)) = true ↔
      o < offset + 4 * (words - 1) + 4 ∧ offset < o + n := by
  simp only [List.any_eq_true, List.mem_range, coversWord_iff]
  constructor
  · rintro ⟨j, listed, before, after⟩
    omega
  · rintro ⟨before, after⟩
    by_cases early : o ≤ offset
    · exact ⟨0, some_word, by omega, by omega⟩
    · exact ⟨(o - offset) / 4, by omega, by omega, by omega⟩

/-- Settles O48: read back, checked, spelled, no others, the ranges, the places. -/
theorem sectionsHoldTheirSettings : Obligations.SectionsHoldTheirSettings := by
  refine ⟨?_, ?_, ?_, ?_, ?_, ⟨?_, ?_, ?_, ?_⟩, ?_, syncInRange_iff, geometryInRange_iff, ?_⟩
  · intro g windowPage windowEnd tolerance limitLow limitHigh timeoutLow timeoutHigh reportPage reportEnd ring intervalLow intervalHigh
    exact ⟨parseGlobal_encode ⟨windowPage, windowEnd, tolerance, limitLow, limitHigh, timeoutLow, timeoutHigh, reportPage, reportEnd,
      ring, intervalLow, intervalHigh⟩ _, checkMatches_withCheck _⟩
  · intro y range filterShift divider warnLimit faultLimit hysteresis upRate downRate deadBand periodTolerance syncLossMs low high
    exact ⟨parseSync_encode range filterShift divider warnLimit faultLimit hysteresis upRate downRate deadBand periodTolerance
      syncLossMs low high _, checkMatches_withCheck _⟩
  · intro v sourceTag parkLow parkHigh leaseLow leaseHigh
    exact ⟨parseReader_encode sourceTag parkLow parkHigh leaseLow leaseHigh _, checkMatches_withCheck _⟩
  · intro e geometry pitch slotCount slotStride capturePage captureEnd poolPage poolEnd
    exact ⟨parseEye_encode geometry pitch slotCount slotStride capturePage captureEnd poolPage poolEnd _, checkMatches_withCheck _⟩
  · exact fun ws c => ⟨checkMatches_append_iff ws c, rfl, checkWord ws, rfl, checkMatches_withCheck ws⟩
  · intro g
    simp only [encodeGlobal, packWord_eq, fieldSum_cons, fieldSum_nil, pow_zero, mul_one, add_zero, ← add_assoc]
    rfl
  · intro y
    simp only [encodeSync, packWord_eq, fieldSum_cons, fieldSum_nil, pow_zero, mul_one, add_zero, ← add_assoc]
    rfl
  · intro e
    simp only [encodeEye, packWord_eq, fieldSum_cons, fieldSum_nil, pow_zero, mul_one, add_zero, ← add_assoc]
    rfl
  · intro v
    simp only [encodeReader, packWord_eq, fieldSum_cons, fieldSum_nil, pow_zero, mul_one, add_zero, ← add_assoc]
    rfl
  · intro ws
    refine ⟨fun g sized read => ?_, fun y sized read => ?_, fun e sized read => ?_, fun v sized read => ?_⟩
    · obtain ⟨us, c, rfl, eight⟩ := exists_append_of_length sized
      obtain ⟨w0, w1, w2, w3, w4, w5, w6, w7, rfl⟩ := eight_words eight
      obtain ⟨words, ranges⟩ := encodeGlobal_of_parse read
      exact ⟨words.symm, ranges⟩
    · obtain ⟨us, c, rfl, seven⟩ := exists_append_of_length sized
      obtain ⟨w0, w1, w2, w3, w4, w5, w6, rfl⟩ := seven_words seven
      obtain ⟨words, range⟩ := encodeSync_of_parse read
      exact ⟨words.symm, range⟩
    · obtain ⟨us, c, rfl, eight⟩ := exists_append_of_length sized
      obtain ⟨w0, w1, w2, w3, w4, w5, w6, w7, rfl⟩ := eight_words eight
      obtain ⟨words, ranges⟩ := encodeEye_of_parse read
      exact ⟨words.symm, ranges⟩
    · obtain ⟨us, c, rfl, three⟩ := exists_append_of_length sized
      obtain ⟨w0, w1, w2, rfl⟩ := three_words three
      obtain ⟨words, ranges⟩ := encodeReader_of_parse read
      exact ⟨words.symm, ranges⟩
  · intro k
    have whole : ∀ {offset words : Nat}, sectionOffset k = offset → sectionWords k = words → 0 < words →
        sectionOffset k = offset ∧ ∀ o n, 0 < n →
          (touchesCheck o n k = true ↔ o < offset + 4 * (words - 1) + 4 ∧ offset + 4 * (words - 1) < o + n) ∧
          (touchesSection o n k = true ↔ o < offset + 4 * (words - 1) + 4 ∧ offset < o + n) := by
      rintro _ _ rfl rfl some_word
      exact ⟨rfl, fun o n some_byte => ⟨coversWord_iff _ _ _, any_coversWord_iff o n _ some_word some_byte⟩⟩
    cases k with
    | global => exact whole rfl rfl (by decide)
    | sync => exact whole rfl rfl (by decide)
    | eye x => cases x <;> exact whole rfl rfl (by decide)
    | reader r => cases r <;> exact whole rfl rfl (by decide)

end Sys2Proof.Machine

/-! SUPPORT. Results of pieces at their slots and entries (R29, R30, R39, R152, R165). -/

namespace Sys2Proof.Machine

/-! ### The clock and the take over a completed landing -/

/-- No announcement, release or retirement moves the clock or the take number. -/
theorem clockFree (sync : SyncUnit) (take : Word) : FreeMoves fun p => p.sync = sync ∧ p.take = take where
  pairs _ _ _ _ h := h
  prdy _ h := by simpa [Part.take] using h
  ready p h := by
    unfold prdyOnReady
    split
    · exact h
    · exact h
    · simpa [Part.take] using h
  slots _ _ _ h := h
  ctx _ _ h := h
  park _ _ _ h := h
  table _ _ _ h := h
  returning _ _ h := h
  issue _ _ h := h
  count _ _ _ h := h
  record _ _ _ _ h := by simpa [Part.take] using h
  flag _ _ h := by simpa [Part.take] using h
  post _ _ _ h := h
  readerSettings _ _ _ _ h := h
  window _ _ _ h := h

theorem slotCompleted_clock (x : Eye) (i : Nat) (p : Part) :
    (slotCompleted x i p).now = p.now ∧ (slotCompleted x i p).take = p.take := by
  obtain ⟨sync, take⟩ := (clockFree p.sync p.take).moves.slotCompleted p x i ⟨rfl, rfl⟩
  refine ⟨?_, take⟩
  unfold Part.now
  rw [sync]

/-! ### The result of a write piece at its slot -/

/-- The slot's record after the result of a write piece, its landing completed with the last (R29, R30). -/
def SlotRecord.landed (res : MResult) (r : SlotRecord) : SlotRecord :=
  if r.state = .landing ∧ r.writes = 1 then { r.writeResult res with state := .complete, frameTimer := .stopped }
  else r.writeResult res

/-- The landing of the slot is complete with this result (R30). -/
def Part.lastWrite (p : Part) (x : Eye) (i : Nat) : Prop := (p.slot x i).state = .landing ∧ (p.slot x i).writes = 1

theorem slotWriteResult_of_last {x : Eye} {i : Nat} {p : Part} (res : MResult) (last : p.lastWrite x i) :
    slotWriteResult x i res p = slotCompleted x i (p.onSlot x i (SlotRecord.landed res)) := by
  unfold slotWriteResult completeLanding
  refine (if_pos last).trans (congrArg (slotCompleted x i) ?_)
  rw [onSlot_onSlot]
  exact onSlot_congr (if_pos last).symm

theorem slotWriteResult_of_more {x : Eye} {i : Nat} {p : Part} (res : MResult) (more : ¬p.lastWrite x i) :
    slotWriteResult x i res p = p.onSlot x i (SlotRecord.landed res) := by
  unfold slotWriteResult
  exact (if_neg more).trans (onSlot_congr (if_neg more).symm)

/-- A live or draining slot that has the piece outstanding, after a good result. -/
theorem landed_ok (data : List Byte) {r : SlotRecord} (outstanding : r.writes ≠ 0) :
    r.landed (.ok data) =
      if r.state = .landing ∧ r.writes = 1 then { r with writes := 0, state := .complete, frameTimer := .stopped }
      else SlotRecord.freeIfDrained { r with writes := r.writes - 1 } := by
  have given : r.writeResult (.ok data) = SlotRecord.freeIfDrained { r with writes := r.writes - 1 } := if_neg outstanding
  unfold SlotRecord.landed
  rw [given]
  split
  · rename_i last
    obtain ⟨landing, one⟩ := last
    unfold SlotRecord.freeIfDrained
    rw [if_neg (by simp [landing]), one]
  · rfl

/-- The record with a failed write piece counted out (R29). -/
def SlotRecord.lowered (quarantined : Nat) (r : SlotRecord) : SlotRecord :=
  { r with writes := r.writes - 1, quarantined := r.quarantined + quarantined }

theorem freeIfDrained_of_not_draining {r : SlotRecord} (other : r.state ≠ .draining) : r.freeIfDrained = r :=
  if_neg fun drained => other drained.1

theorem writeFault_union (d : Damage) : d.union .ofWriteFault = { d with writeFault := true } := by
  simp [Damage.union, Damage.ofWriteFault, Damage.none]

theorem landed_failed {res : MResult} {r : SlotRecord} (failed : res.failed = true) (outstanding : r.writes ≠ 0) :
    r.landed res =
      let faulted : SlotRecord := { r.lowered res.quarantines with damage := { r.damage with writeFault := true } }
      if r.state = .landing ∧ r.writes = 1 then { faulted with state := .complete, frameTimer := .stopped }
      else if r.state = .filling ∨ r.state = .landing then faulted
      else SlotRecord.freeIfDrained (r.lowered res.quarantines) := by
  have live : r.state = .filling ∨ r.state = .landing → r.writeResult res =
      { r.lowered res.quarantines with damage := { r.damage with writeFault := true } } := by
    intro live
    have notDraining : r.state ≠ .draining := by rcases live with filling | landing <;> simp [*]
    unfold SlotRecord.writeResult
    rw [if_neg outstanding, if_pos (by simpa [failed] using live), writeFault_union]
    exact freeIfDrained_of_not_draining notDraining
  unfold SlotRecord.landed
  dsimp only
  split
  · rename_i last
    rw [live (.inr last.1)]
  · split
    · rename_i isLive
      exact live isLive
    · rename_i notLive
      unfold SlotRecord.writeResult
      rw [if_neg outstanding, if_neg (by simpa [failed] using notLive)]
      rfl

/-! ### The result at the entry -/

/-- The entry once a result has left one piece less outstanding, or none (R152). -/
def Entry.resulted (code : Code) (data : List Byte) (v : Entry) : Entry :=
  { v with
    state := if v.outstanding = 1 then .returning else v.state
    outstanding := v.outstanding - 1, code := code, data := data }

/-- The request path once a result has reached entry `e` (R152). -/
def RequestPath.resulted (u : RequestPath) (e : Nat) (code : Code) (data : List Byte) (v : Entry) : RequestPath :=
  { u with
    table := u.table.set e (some (v.resulted code data))
    returning := if v.outstanding = 1 then u.returning ++ [e] else u.returning }

theorem entryResult_eq {e place length : Nat} {res : MResult} {p : Part} {v : Entry} (found : p.entry e = some v)
    (outstanding : v.outstanding ≠ 0) :
    entryResult e place length res p = { p with
      req := p.req.resulted e (codeAfter res v.code) (dataAfter p.rig.global.fill v place length res) v } := by
  by_cases last : v.outstanding = 1
  · rw [entryResult_last found last]
    unfold RequestPath.resulted Entry.resulted
    simp only [last, if_true]
  · rw [entryResult_more found outstanding last]
    unfold RequestPath.resulted Entry.resulted
    simp only [last, if_false]

/-- The request path, spelled by whether the result is the last. -/
theorem resulted_eq (u : RequestPath) (e : Nat) (code : Code) (data : List Byte) (v : Entry) :
    u.resulted e code data v =
      if v.outstanding = 1 then
        { u with
          table := u.table.set e (some { v with state := .returning, outstanding := 0, code := code, data := data })
          returning := u.returning ++ [e] }
      else { u with table := u.table.set e (some { v with outstanding := v.outstanding - 1, code := code, data := data }) } := by
  unfold RequestPath.resulted Entry.resulted
  split
  · rename_i last
    rw [last]
  · rfl

theorem codeAfter_failed {res : MResult} (failed : res.failed = true) (c : Code) : codeAfter res c = .memoryFault := by
  unfold codeAfter
  rw [if_pos failed]
  cases c <;> rfl

theorem dataAfter_of_write {v : Entry} (write : v.kind = .write) (fill : BitVec 16) (place length : Nat) (res : MResult) :
    dataAfter fill v place length res = v.data := by
  unfold dataAfter
  rw [write]

/-! ### The result of a capture write's piece -/

/-- The result has reached the slot and the entry of a capture write's piece, and the pair manager is told (R29, R30, R152). -/
def Part.delivered (p : Part) (x : Eye) (i e : Nat) (res : MResult) (v : Entry) : Part :=
  { p with
    slots := p.slots.set x ((p.slots.get x).modify i (SlotRecord.landed res))
    req := p.req.resulted e (codeAfter res v.code) v.data v }

theorem deliverResult_captureWrite {te : TagEntry} {e : Nat} {v : Entry} {x : Eye} {i : Nat} {p : Part} (res : MResult)
    (owner : te.owner = .entry e (.captureWrite x i)) (found : p.entry e = some v) (write : v.kind = .write)
    (outstanding : v.outstanding ≠ 0) :
    (p.lastWrite x i → deliverResult te res p = slotCompleted x i (p.delivered x i e res v)) ∧
    (¬p.lastWrite x i → deliverResult te res p = p.delivered x i e res v) := by
  have reached : deliverResult te res p =
      slotWriteResult x i res { p with req := p.req.resulted e (codeAfter res v.code) v.data v } := by
    unfold deliverResult
    rw [owner]
    dsimp only [slotResult]
    rw [entryResult_eq found outstanding, dataAfter_of_write write]
  exact ⟨fun last => reached.trans (slotWriteResult_of_last res last), fun more => reached.trans (slotWriteResult_of_more res more)⟩

/-- The event of the result of an entry's piece (R165). -/
theorem memoryFaultEvent_of_entry {te : TagEntry} {e : Nat} {role : Role} (owner : te.owner = .entry e role)
    (cause : MemoryFaultCause) (t : Nat) (p : Part) :
    memoryFaultEvent cause t te p =
      queueRecord p.now p.take (.memoryFault cause te.addr te.kind te.owner te.source t te.length)
        (setFlag .memoryFault (raise cause.counter p)) := by
  have clocks : ∀ c, (setFlag .memoryFault (raise c p)).now = p.now ∧ (setFlag .memoryFault (raise c p)).take = p.take :=
    fun c => by simp [Part.now, Part.take, raise_eq]
  unfold memoryFaultEvent queueRecordNow
  rw [owner]
  simp only [Owner.isReportWrite, Bool.false_eq_true, if_false, clocks]
  cases cause <;> rfl

theorem takeResult_of_entry {te : TagEntry} {e : Nat} {role : Role} (owner : te.owner = .entry e role) (t : Nat) (res : MResult)
    (p : Part) : takeResult t te res p = resultEvent t te res (deliverResult te res p) := by
  unfold takeResult
  exact if_neg (by rw [owner]; simp)

end Sys2Proof.Machine

/-! SUPPORT. Results of the pieces of captures and of reads (R29, R30, R39, R152, R164 to R166). -/

namespace Sys2Proof.Machine

/-! ### What the obligation spells out of a delivery -/

/-- A delivery whose effect on the slot's record is `f`, the request path spelled by whether the piece is the last. -/
theorem delivered_eq {p : Part} {x : Eye} {i e : Nat} {res : MResult} {v : Entry} {code : Code} {f : SlotRecord → SlotRecord}
    (effect : (p.slot x i).landed res = f (p.slot x i)) (given : codeAfter res v.code = code) :
    p.delivered x i e res v = { p with
      slots := p.slots.set x ((p.slots.get x).modify i f)
      req :=
        if v.outstanding = 1 then
          { p.req with
            table := p.req.table.set e (some { v with state := .returning, outstanding := 0, code := code })
            returning := p.req.returning ++ [e] }
        else { p.req with table := p.req.table.set e (some { v with outstanding := v.outstanding - 1, code := code }) } } := by
  have slots : p.slots.set x ((p.slots.get x).modify i (SlotRecord.landed res)) =
      p.slots.set x ((p.slots.get x).modify i f) := congrArg Part.slots (onSlot_congr effect)
  unfold Part.delivered
  rw [slots, resulted_eq, given]

/-- The delivery, told to the pair manager where it completes a landing. -/
def Part.toldOf (p : Part) (x : Eye) (i : Nat) (last : Bool) : Part := if last then slotCompleted x i p else p

theorem toldOf_clock (p : Part) (x : Eye) (i : Nat) (last : Bool) :
    (p.toldOf x i last).now = p.now ∧ (p.toldOf x i last).take = p.take := by
  unfold Part.toldOf
  cases last with
  | true => exact slotCompleted_clock x i p
  | false => exact ⟨rfl, rfl⟩

section
variable {te : TagEntry} {e : Nat} {v : Entry} {x : Eye} {i : Nat} {p : Part} (owner : te.owner = .entry e (.captureWrite x i))
  (found : p.entry e = some v) (write : v.kind = .write) (outstanding : v.outstanding ≠ 0)
include owner found write outstanding

theorem deliverResult_told (res : MResult) {last : Bool} (isLast : p.lastWrite x i ↔ last = true) :
    deliverResult te res p = (p.delivered x i e res v).toldOf x i last := by
  obtain ⟨ofLast, ofMore⟩ := deliverResult_captureWrite res owner found write outstanding
  cases last with
  | true => exact ofLast (isLast.mpr rfl)
  | false => exact ofMore fun yes => absurd (isLast.mp yes) (by simp)

/-- A good result of a capture write's piece. -/
theorem takeResult_ok (t : Nat) (data : List Byte) {last : Bool} (isLast : p.lastWrite x i ↔ last = true) :
    takeResult t te (.ok data) p = (p.delivered x i e (.ok data) v).toldOf x i last :=
  (takeResult_of_entry owner t _ p).trans (deliverResult_told owner found write outstanding _ isLast)

/-- The event of a failed result comes after its delivery (R165). -/
theorem takeResult_event (t : Nat) (kind : te.kind = .write) {res : MResult} {cause : MemoryFaultCause}
    (event : ∀ q, resultEvent t te res q = memoryFaultEvent cause t te q) {last : Bool}
    (isLast : p.lastWrite x i ↔ last = true) :
    takeResult t te res p = queueRecord p.now p.take (.memoryFault cause te.addr .write te.owner te.source t te.length)
      (setFlag .memoryFault (raise cause.counter ((p.delivered x i e res v).toldOf x i last))) := by
  obtain ⟨now, take⟩ := toldOf_clock (p.delivered x i e res v) x i last
  rw [takeResult_of_entry owner, event, deliverResult_told owner found write outstanding res isLast,
    memoryFaultEvent_of_entry owner, now, take, kind]
  rfl

end

/-! ### The part at the moment of a result -/

theorem passTime_zero_slot (p : Part) (x : Eye) (i : Nat) (running : p.resetAsserted = false) :
    (passTime 0 p).slot x i = p.slot x i := by
  have still : ∀ t : Timer, t.passes 0 = t := fun t => by cases t <;> rfl
  rw [passTime_slot 0 p x i running, still]

theorem slot_onSlot {p : Part} {x : Eye} {i : Nat} (f : SlotRecord → SlotRecord) (known : i < (p.slots.get x).length) :
    ((p.slots.set x ((p.slots.get x).modify i f)).get x).getD i SlotRecord.free = f (p.slot x i) := by
  unfold Part.slot
  rw [PerEye.get_set, if_pos rfl, List.getD_eq_getElem?_getD, List.getD_eq_getElem?_getD, List.getElem?_modify,
    List.getElem?_eq_getElem known]
  simp

theorem entry_lt {p : Part} {e : Nat} {v : Entry} (found : p.entry e = some v) : e < p.req.table.length := by
  by_contra beyond
  unfold Part.entry at found
  rw [List.getD_eq_getElem?_getD, List.getElem?_eq_none (by omega)] at found
  cases found

theorem entry_resulted {p : Part} {e : Nat} {v : Entry} (found : p.entry e = some v) (code : Code) (data : List Byte) :
    (p.req.resulted e code data v).table.getD e none = some (v.resulted code data) := by
  unfold RequestPath.resulted
  rw [List.getD_eq_getElem?_getD, List.getElem?_set_self (entry_lt found)]
  rfl

/-- At the M-timeout the slot's record is the same but for its timer. -/
theorem tagLate_slot {p : Part} (m : Nat) (te : TagEntry) (r : Nat) (x : Eye) (i : Nat) (running : p.resetAsserted = false) :
    (p.tagLate m te r).slot x i = { p.slot x i with frameTimer := (p.slot x i).frameTimer.passes r } :=
  passTime_slot r p x i running

theorem tagLate_entry (p : Part) (m : Nat) (te : TagEntry) (r e : Nat) : (p.tagLate m te r).entry e = p.entry e := by
  show (passTime r p).req.table.getD e none = p.req.table.getD e none
  rw [passTime_req]

/-- The part at the moment of a result: as it stands, or with the time of the M-timeout passed and the tag's entry changed. -/
structure Part.AtResult (p : Part) (elapsed : Nat) (q : Part) : Prop where
  slot : ∀ x i, q.slot x i = (passTime elapsed p).slot x i
  length : ∀ x, (q.slots.get x).length = (p.slots.get x).length
  req : q.req = p.req
  queue : q.pairs.queue = p.pairs.queue
  counters : q.report.counters = p.report.counters
  streams : q.streams = p.streams
  rig : q.rig = p.rig

theorem atResult_now (p : Part) (running : p.resetAsserted = false) : p.AtResult 0 p where
  slot x i := (passTime_zero_slot p x i running).symm
  length _ := rfl
  req := rfl
  queue := rfl
  counters := rfl
  streams := rfl
  rig := rfl

theorem atResult_late (p : Part) (m : Nat) (te : TagEntry) (r : Nat) (running : p.resetAsserted = false) :
    p.AtResult r (p.tagLate m te r) where
  slot _ _ := rfl
  length x := by
    show ((passTime r p).slots.get x).length = _
    rw [passTime_of_running r p running]
    simp
  req := passTime_req r p
  queue := passTime_queue r p
  counters := (congrArg ReportUnit.counters (passTime_report r p)).trans rfl
  streams := passTime_streams r p
  rig := passTime_rig r p

theorem slotCompleted_of_none {p : Part} {x : Eye} {i : Nat} (none_named : recordOf p x i = none) : slotCompleted x i p = p := by
  unfold slotCompleted
  rw [none_named]

theorem toldOf_of_none {p : Part} {x : Eye} {i : Nat} (none_named : recordOf p x i = none) (last : Bool) :
    p.toldOf x i last = p := by
  unfold Part.toldOf
  rw [slotCompleted_of_none none_named]
  cases last <;> rfl

/-- What the two commands that bring a failed result do of the tag and the flag (R163, R165, R166). -/
theorem failed_tag {c : Instr} {m elapsed quarantined : Nat} {te : TagEntry} {s t : State} (running : s.hw.resetAsserted = false)
    (used : s.hw.tag m = some te) (inFlight : te.state = .inFlight) (executed : exec c s = .next t)
    (brings : (∃ (header : BitVec 64) (data : List Byte), c = .mportResponse header data ∧ m = header.toNat / 2 ^ 16 % 256 ∧
        ¬(parseResponse header data).Good te ∧ quarantined = 0) ∨
      (c = .mTimeout m ∧ te.timer = .running elapsed ∧ quarantined = 1)) :
    (quarantined = 0 → t.hw.tag m = none) ∧
      (quarantined = 1 → t.hw.tag m = some { te with state := .quarantined, timer := .stopped }) ∧
      t.hw.report.flags.getLsbD EventFlag.memoryFault.bit = true := by
  obtain ⟨ofResponse, ofTimeout⟩ := resultsFreeOrQuarantineTheTag
  rcases brings with ⟨header, data, rfl, rfl, bad, rfl⟩ | ⟨rfl, timer, rfl⟩
  · obtain ⟨t', executed', _, free, _, flag⟩ := ofResponse header data te s running used inFlight
    obtain rfl : t' = t := Host.Outcome.next.inj (executed'.symm.trans executed)
    refine ⟨fun _ => free, (fun other => by cases other), flag ?_⟩
    rw [parseResponse_good_iff] at bad
    by_contra fine
    simp only [not_or, not_not, not_and] at fine
    exact bad fine
  · obtain ⟨t', executed', _, quarantined, _, flag⟩ := ofTimeout m te s elapsed running used inFlight timer
    obtain rfl : t' = t := Host.Outcome.next.inj (executed'.symm.trans executed)
    exact ⟨(fun other => by cases other), fun _ => quarantined, flag⟩

theorem resultEvent_onlyReports (t : Nat) (te : TagEntry) (res : MResult) (p : Part) :
    p.OnlyReports (resultEvent t te res p) := by
  have event : ∀ cause, p.OnlyReports (memoryFaultEvent cause t te p) := by
    intro cause
    have raised : ∀ c, p.OnlyReports (setFlag .memoryFault (raise c p)) := fun c =>
      Part.OnlyReports.trans (q := raise c p) rfl (setFlag_onlyReports _ _)
    unfold memoryFaultEvent
    dsimp only
    split
    · exact raised _
    · exact (raised _).trans (queueRecord_onlyReports _ _ _ _)
  cases res with
  | ok data => exact .refl p
  | fault => exact event _
  | timedOut => exact event _

/-- The result of a read piece, but for its event (R39, R152). -/
theorem takeResult_readPiece {te : TagEntry} {e : Nat} {v : Entry} {x : Eye} {i place : Nat} {p : Part} (t : Nat) (res : MResult)
    (owner : te.owner = .entry e (.readPiece x i place)) (found : p.entry e = some v) (outstanding : v.outstanding ≠ 0) :
    takeResult t te res p = resultEvent t te res { p with
      slots := p.slots.set x ((p.slots.get x).modify i (SlotRecord.readResult res))
      req := p.req.resulted e (codeAfter res v.code) (dataAfter p.rig.global.fill v place te.length res) v } := by
  rw [takeResult_of_entry owner]
  unfold deliverResult
  rw [owner]
  dsimp only [slotResult, Role.place]
  rw [entryResult_eq found outstanding]
  rfl

theorem placeBytes_getElem? (place : Nat) (bytes data : List Byte) (j : Nat) :
    (placeBytes place bytes data)[j]? =
      data[j]?.map fun b => if place ≤ j ∧ j < place + bytes.length then bytes.getD (j - place) b else b := by
  unfold placeBytes
  rw [mapFrom_getElem?, Nat.zero_add]

theorem fillBytes_getD {fill : BitVec 16} {addr n k : Nat} (inside : k < n) (b : Byte) :
    (fillBytes fill addr n).getD k b = fillByte fill (addr + k) := by
  simp [fillBytes, List.getD_eq_getElem?_getD, inside]

/-- A byte of a READ's data after a result of a piece (R152, R154). -/
theorem dataAfter_getElem? {v : Entry} {j place length : Nat} {b : Byte} {res : MResult} (fill : BitVec 16) (read : v.kind = .read)
    (sized : ∀ data, res = .ok data → data.length = length) (held : v.data[j]? = some b) :
    (dataAfter fill v place length res)[j]? = some (
      if j < place ∨ place + length ≤ j then b
      else match res with
        | .ok data => data.getD (j - place) b
        | _ => fillByte fill (v.addr.toNat + j)) := by
  have bytes : (resultBytes fill v.addr.toNat place length res).length = length := by
    cases res with
    | ok data => exact sized data rfl
    | fault => exact fillBytes_length ..
    | timedOut => exact fillBytes_length ..
  unfold dataAfter
  rw [read]
  dsimp only
  rw [placeBytes_getElem?, held, Option.map_some, bytes]
  by_cases outside : j < place ∨ place + length ≤ j
  · rw [if_pos outside, if_neg (by omega)]
  · have inside : place ≤ j ∧ j < place + length := by omega
    have address : v.addr.toNat + place + (j - place) = v.addr.toNat + j := by omega
    rw [if_neg outside, if_pos inside]
    cases res with
    | ok data => rfl
    | fault => exact congrArg some ((fillBytes_getD (by omega) b).trans (congrArg _ address))
    | timedOut => exact congrArg some ((fillBytes_getD (by omega) b).trans (congrArg _ address))

theorem dataAfter_length (fill : BitVec 16) (v : Entry) (place length : Nat) (res : MResult) :
    (dataAfter fill v place length res).length = v.data.length := by
  unfold dataAfter
  split
  · exact mapFrom_length ..
  · rfl

/-- That a tag is freed is no matter of the other units. -/
theorem freed_sides {p u : Part} {m : Nat} (freed : u = p ∨ u = p.onTxn (TxnUnit.tagFreed m)) :
    u.slots = p.slots ∧ u.req = p.req ∧ u.report = p.report ∧ u.streams = p.streams ∧ u.pairs = p.pairs ∧ u.rig = p.rig := by
  rcases freed with rfl | rfl
  · exact ⟨rfl, rfl, rfl, rfl, rfl, rfl⟩
  · exact ⟨rfl, rfl, rfl, rfl, rfl, rfl⟩

/-- Settles O54: good write results, failed ones, failed ones at a slot of no record, and the results of reads. -/
theorem captureWriteResponsesLandTheFrame : Obligations.CaptureWriteResponsesLandTheFrame := by
  refine ⟨?_, ?_, ?_, ?_⟩
  · intro header data te e v x i s running h m used inFlight owner kind status kindByte found write outstanding writes last landed
      delivered told
    have good : (parseResponse header data).Good te :=
      (parseResponse_good_iff header data te).mpr ⟨status, by rw [kind]; exact kindByte, fun read => by rw [kind] at read; cases read⟩
    have result : formResult te (parseResponse header data) = .ok [] := by rw [formResult_of_good good, kind]
    have answered := takeResponse_of_inFlight (m := parseResponse header data) used inFlight
    have isLast : s.hw.lastWrite x i ↔ decide last = true := (decide_eq_true_iff (p := last)).symm
    rw [result, takeResult_ok owner found write outstanding _ _ isLast, delivered_eq (f := landed) (landed_ok [] writes) rfl]
      at answered
    refine whenRunning_eq running (answered.trans ?_)
    have same : Part.toldOf delivered x i (decide last) = told := by
      unfold Part.toldOf
      simp only [decide_eq_true_iff]
      rfl
    exact congrArg (fun u : Part => u.onTxn (TxnUnit.tagFreed m)) same
  · intro c m te e v x i elapsed late s running used inFlight owner kind brings found write outstanding writes q last landed
      delivered told event freed
    have effect : ∀ {r : SlotRecord} {res : MResult}, res.failed = true → res.quarantines = (if late = true then 1 else 0) →
        r.writes ≠ 0 → r.landed res = landed r := by
      intro r res failed quarantines some_write
      rw [landed_failed failed some_write]
      unfold SlotRecord.lowered
      rw [quarantines]
    cases late with
    | false =>
      obtain ⟨header, data, rfl, rfl, bad, rfl, _⟩ := brings.resolve_right fun timeout => by simp at timeout
      have wrong : ¬(parseResponse header data).Good te := by
        rw [parseResponse_good_iff, kind]
        rintro ⟨status, kindByte, _⟩
        exact bad.elim (fun other => other status) fun other => other kindByte
      have answered := takeResponse_of_inFlight (m := parseResponse header data) used inFlight
      have isLast : s.hw.lastWrite x i ↔ decide last = true := (decide_eq_true_iff (p := last)).symm
      rw [formResult_of_bad wrong, takeResult_event owner found write outstanding _ kind (cause := .fault) (fun _ => rfl) isLast,
        delivered_eq (f := landed) (effect rfl rfl writes) (codeAfter_failed rfl _)] at answered
      have same : Part.toldOf delivered x i (decide last) = told := by
        unfold Part.toldOf
        simp only [decide_eq_true_iff]
        rfl
      exact whenRunning_eq running (answered.trans (congrArg (fun u => (queueRecord s.hw.now s.hw.take
        (.memoryFault .fault te.addr .write te.owner te.source (header.toNat / 2 ^ 16 % 256) te.length)
        (setFlag .memoryFault (raise .mFaults u))).onTxn (TxnUnit.tagFreed (header.toNat / 2 ^ 16 % 256))) same))
    | true =>
      obtain ⟨rfl, timer, _⟩ := brings.resolve_left fun ⟨_, _, _, _, _, _, early⟩ => by cases early
      have slot := tagLate_slot m te elapsed x i running
      have answered := mTimeoutExpiry_of_inFlight used inFlight timer
      have isLast : (s.hw.tagLate m te elapsed).lastWrite x i ↔ decide last = true := by
        unfold Part.lastWrite
        rw [slot]
        exact (decide_eq_true_iff (p := last)).symm
      have late_writes : ((s.hw.tagLate m te elapsed).slot x i).writes ≠ 0 := by
        rw [slot]
        exact writes
      rw [takeResult_event owner ((tagLate_entry ..).trans found) write outstanding _ kind (cause := .timeout) (fun _ => rfl) isLast,
        delivered_eq (f := landed) (effect rfl rfl late_writes) (codeAfter_failed rfl _)] at answered
      have same : Part.toldOf delivered x i (decide last) = told := by
        unfold Part.toldOf
        simp only [decide_eq_true_iff]
        rfl
      exact whenRunning_eq running (answered.trans (congrArg (fun u => queueRecord q.now q.take
        (.memoryFault .timeout te.addr .write te.owner te.source m te.length)
        (setFlag .memoryFault (raise .mTimeouts u))) same))
  · intro c m te e v x i elapsed quarantined s running sized used inFlight owner kind brings found write outstanding known writes
      none_named r after faulted
    obtain ⟨res, cause, q, moment, brought, event, failed, quarantines, counter⟩ : ∃ res cause q, s.hw.AtResult elapsed q ∧
        BringsResult c m te res q s ∧ (∀ p, resultEvent m te res p = memoryFaultEvent cause m te p) ∧ res.failed = true ∧
        res.quarantines = quarantined ∧ (quarantined = 0 → cause.counter = .mFaults) ∧
        (quarantined = 1 → cause.counter = .mTimeouts) := by
      rcases brings with ⟨header, data, rfl, rfl, bad, rfl, rfl⟩ | ⟨rfl, timer, rfl⟩
      · have wrong : ¬(parseResponse header data).Good te := by
          rw [parseResponse_good_iff, kind]
          rintro ⟨status, kindByte, _⟩
          exact bad.elim (fun other => other status) fun other => other kindByte
        have brought := response_bringsResult (data := data) running used inFlight
        rw [formResult_of_bad wrong] at brought
        exact ⟨_, .fault, _, atResult_now _ running, brought, fun _ => rfl, rfl, rfl, fun _ => rfl, fun other => by cases other⟩
      · exact ⟨_, .timeout, _, atResult_late _ m te elapsed running, timeout_bringsResult running used inFlight timer, fun _ => rfl,
          rfl, rfl, (fun other => by cases other), fun _ => rfl⟩
    have tag := fun t executed => failed_tag (t := t) (elapsed := elapsed) (quarantined := quarantined) running used inFlight executed
      (brings.imp (fun ⟨header, data, isResponse, isTag, bad, _, none_quarantined⟩ => ⟨header, data, isResponse, isTag, fun good => by
        obtain ⟨status, kindByte, _⟩ := (parseResponse_good_iff header data te).mp good
        rw [kind] at kindByte
        exact bad.elim (fun other => other status) fun other => other kindByte, none_quarantined⟩) id)
    have foundThen : q.entry e = some v := by
      unfold Part.entry
      rw [moment.req]
      exact found
    have writesThen : (q.slot x i).writes ≠ 0 := by
      rw [moment.slot, passTime_slot _ _ _ _ running]
      exact writes
    have unnamed : recordOf (q.delivered x i e res v) x i = none := by
      unfold recordOf
      rw [show (q.delivered x i e res v).pairs.queue = s.hw.pairs.queue from moment.queue]
      exact none_named
    have isLast : q.lastWrite x i ↔ decide ((q.slot x i).state = .landing ∧ (q.slot x i).writes = 1) = true :=
      (decide_eq_true_iff (p := (q.slot x i).state = .landing ∧ (q.slot x i).writes = 1)).symm
    have result := takeResult_event owner foundThen write outstanding m kind event isLast
    rw [toldOf_of_none unnamed] at result
    obtain ⟨u, executed, freed⟩ := brought
    obtain ⟨free, late, flag⟩ := tag _ executed
    obtain ⟨slots, req, report, streams, pairs, rig⟩ := freed_sides freed
    have sizedThen : (q.delivered x i e res v).report.counters.length = 20 := by
      show q.report.counters.length = 20
      rw [moment.counters]
      exact sized
    have slotAfter : u.slot x i = (q.slot x i).landed res := by
      have known' : i < (q.slots.get x).length := by
        rw [moment.length]
        exact known
      unfold Part.slot
      rw [slots, result, queueRecord_slots, setFlag_slots]
      exact slot_onSlot _ known'
    have entryAfter : u.entry e = some (v.resulted .memoryFault v.data) := by
      unfold Part.entry
      rw [req, result, queueRecord_req, setFlag_req, ← codeAfter_failed failed v.code]
      exact entry_resulted foundThen _ _
    have counted : u.count cause.counter = s.hw.count cause.counter + 1 := by
      have before : (q.delivered x i e res v).count cause.counter = s.hw.count cause.counter := count_of_counters moment.counters _
      rw [count_of_counters (congrArg ReportUnit.counters report), result,
        queueRecord_count _ _ _ _ _ (by rw [setFlag_counters]; exact (raiseBy_length ..).trans sizedThen) (by cases cause <;> simp [MemoryFaultCause.counter]),
        count_of_counters (setFlag_counters _ _), raise_count _ _ _ sizedThen, if_pos rfl, before]
    rw [moment.slot] at slotAfter writesThen
    rw [landed_failed failed writesThen, quarantines] at slotAfter
    dsimp only at slotAfter
    refine ⟨_, executed, rfl, fun live => slotAfter.trans ?_, fun landing one => slotAfter.trans (if_pos ⟨landing, one⟩),
      fun draining => slotAfter.trans ?_, entryAfter, flag, fun now => ⟨?_, free now⟩, fun then_late => ⟨?_, late then_late⟩,
      ?_, ?_, ?_⟩
    · have notLast : ¬(((passTime elapsed s.hw).slot x i).state = .landing ∧ ((passTime elapsed s.hw).slot x i).writes = 1) := by
        rintro ⟨landing, one⟩
        rcases live with filling | ⟨_, more⟩
        · exact absurd (landing.symm.trans filling) (by decide)
        · exact more one
      exact (if_neg notLast).trans (if_pos (live.imp id And.left))
    · have other : ∀ st, st ≠ .draining → ((passTime elapsed s.hw).slot x i).state ≠ st := fun st notDraining same =>
        notDraining (same.symm.trans draining)
      rw [if_neg fun last => other .landing (by decide) last.1,
        if_neg fun live => live.elim (other .filling (by decide)) (other .landing (by decide))]
      rfl
    · rw [← counter.1 now]
      exact counted
    · rw [← counter.2 then_late]
      exact counted
    · show u.streams = _
      rw [streams, result, queueRecord_streams, setFlag_streams]
      exact moment.streams
    · show u.pairs.queue = _
      rw [pairs, result, queueRecord_pairs, setFlag_pairs]
      exact moment.queue
    · show u.rig = _
      rw [rig, result, queueRecord_rig, setFlag_rig]
      exact moment.rig
  · intro c m te e v x i place elapsed quarantined good data s running used inFlight owner kind brings found read outstanding known r
    obtain ⟨res, q, moment, brought, quarantines, ofGood, ofBad⟩ : ∃ res q, s.hw.AtResult elapsed q ∧ BringsResult c m te res q s ∧
        res.quarantines = quarantined ∧ (good = true → res = .ok data ∧ data.length = te.length ∧ q = s.hw) ∧
        (good = false → res.failed = true) := by
      rcases brings with ⟨header, rfl, rfl, rfl, rfl, carries, isGood⟩ | ⟨rfl, timer, rfl, rfl⟩
      · have goodIff : (parseResponse header data).Good te ↔ good = true := by
          rw [parseResponse_good_iff, isGood, kind]
          simp [kindCode]
        have brought := response_bringsResult (data := data) running used inFlight
        cases good with
        | true =>
          rw [formResult_of_good (goodIff.mpr rfl), kind] at brought
          have whole : fitBytes te.length data = data := fitBytes_of_length carries
          exact ⟨_, _, atResult_now _ running, brought, rfl, fun _ => ⟨congrArg MResult.ok whole, carries, rfl⟩, fun other => by cases other⟩
        | false =>
          rw [formResult_of_bad (mt goodIff.mp (by simp))] at brought
          exact ⟨_, _, atResult_now _ running, brought, rfl, (fun other => by cases other), fun _ => rfl⟩
      · exact ⟨_, _, atResult_late _ m te elapsed running, timeout_bringsResult running used inFlight timer, rfl,
          (fun other => by cases other), fun _ => rfl⟩
    have foundThen : q.entry e = some v := by
      unfold Part.entry
      rw [moment.req]
      exact found
    have result := takeResult_readPiece m res owner foundThen outstanding
    have only := resultEvent_onlyReports m te res { q with
      slots := q.slots.set x ((q.slots.get x).modify i (SlotRecord.readResult res))
      req := q.req.resulted e (codeAfter res v.code) (dataAfter q.rig.global.fill v place te.length res) v }
    rw [← result] at only
    obtain ⟨u, executed, freed⟩ := brought
    obtain ⟨slots, req, report, streams, pairs, rig⟩ := freed_sides freed
    have slotAfter : u.slot x i = ((passTime elapsed s.hw).slot x i).readResult res := by
      have known' : i < (q.slots.get x).length := by
        rw [moment.length]
        exact known
      rw [← moment.slot]
      unfold Part.slot
      rw [slots, only]
      exact slot_onSlot _ known'
    have entryAfter : u.entry e = some (v.resulted (codeAfter res v.code) (dataAfter q.rig.global.fill v place te.length res)) := by
      unfold Part.entry
      rw [req, only]
      exact entry_resulted foundThen _ _
    have code : codeAfter res v.code = if good then v.code else .memoryFault := by
      cases good with
      | true =>
        obtain ⟨rfl, _⟩ := ofGood rfl
        rfl
      | false => exact codeAfter_failed (ofBad rfl) _
    have sized : ∀ bytes, res = .ok bytes → bytes.length = te.length := by
      rintro bytes rfl
      cases good with
      | true =>
        obtain ⟨same, carries, _⟩ := ofGood rfl
        obtain rfl := MResult.ok.inj same
        exact carries
      | false => cases ofBad rfl
    refine ⟨_, executed, rfl, slotAfter.trans ?_, ⟨_, entryAfter, ?_, dataAfter_length .., fun j b held => ?_⟩, fun isBad => ?_,
      fun isGood => ?_, ?_, ?_, ?_⟩
    · rw [← quarantines]
      rfl
    · rw [← code]
      rfl
    · refine (dataAfter_getElem? _ read sized held).trans (congrArg some ?_)
      rw [moment.rig]
      cases good with
      | true =>
        obtain ⟨rfl, _⟩ := ofGood rfl
        rfl
      | false =>
        cases res with
        | ok bytes => cases ofBad rfl
        | fault => rfl
        | timedOut => rfl
    · have flag := takeResult_flag m te q (ofBad isBad)
      show u.report.flags.getLsbD _ = true
      rw [report]
      exact flag
    · obtain ⟨rfl, _, rfl⟩ := ofGood isGood
      have same : u.report = s.hw.report := by
        rw [report, result]
        rfl
      rw [markChanged_report, same]
    · show u.streams = _
      rw [streams, only]
      exact moment.streams
    · show u.pairs.queue = _
      rw [pairs, only]
      exact moment.queue
    · show u.rig = _
      rw [rig, only]
      exact moment.rig

end Sys2Proof.Machine

/-! SUPPORT. What a reader chooses, and what the choice leaves (R71, R72). -/

namespace Sys2Proof.Machine

/-! ### Passing a damaged pair -/

/-- What a choice leaves alone. -/
structure Part.ChoiceKeeps (p q : Part) : Prop where
  queue : q.pairs.queue = p.pairs.queue
  slots : q.slots = p.slots
  rig : q.rig = p.rig
  parkList : q.readers.parkList = p.readers.parkList
  req : q.req = p.req
  txn : q.txn = p.txn
  streams : q.streams = p.streams
  sync : q.sync = p.sync

theorem Part.ChoiceKeeps.refl (p : Part) : p.ChoiceKeeps p := ⟨rfl, rfl, rfl, rfl, rfl, rfl, rfl, rfl⟩

theorem Part.ChoiceKeeps.trans {p q u : Part} (a : p.ChoiceKeeps q) (b : q.ChoiceKeeps u) : p.ChoiceKeeps u :=
  ⟨b.queue.trans a.queue, b.slots.trans a.slots, b.rig.trans a.rig, b.parkList.trans a.parkList, b.req.trans a.req,
    b.txn.trans a.txn, b.streams.trans a.streams, b.sync.trans a.sync⟩

/-- The record of a pair passed (R71). -/
def PairRecord.skipBody (r : ReaderId) (k : PairRecord) : RecordBody := .readerEvent .skipped r k.damage k.number k.take 0

/-- Passing a pair moves the last-taken, raises a record and evaluates PRDY (R64, R71). -/
theorem skipPair_cases (r : ReaderId) (k : PairRecord) (p : Part) :
    ∃ prdy, skipPair r k p = { p with
      readers := { p.readers with ctx := p.readers.ctx.set r { p.reader r with lastTaken := k.number } }
      pairs := { p.pairs with prdy := prdy }
      report := p.report.queued p.now p.take (k.skipBody r) p.rig.global.alertEnables } := by
  unfold skipPair queueRecordNow
  rw [queueRecord_eq]
  obtain ⟨prdy, judged⟩ := evaluatePrdy_cases { p.onReader r fun c => { c with lastTaken := k.number } with
    report := p.report.queued p.now p.take (k.skipBody r) p.rig.global.alertEnables }
  exact ⟨prdy, judged⟩

theorem skipPair_keeps (r : ReaderId) (k : PairRecord) (p : Part) : p.ChoiceKeeps (skipPair r k p) := by
  obtain ⟨prdy, passed⟩ := skipPair_cases r k p
  rw [passed]
  exact ⟨rfl, rfl, rfl, rfl, rfl, rfl, rfl, rfl⟩

theorem skipPair_reader (r k : ReaderId) (q : PairRecord) (p : Part) :
    (skipPair r q p).reader k = if r = k then { p.reader r with lastTaken := q.number } else p.reader k := by
  obtain ⟨prdy, passed⟩ := skipPair_cases r q p
  rw [passed]
  exact PerReader.get_set ..

theorem skipPair_raises {r : ReaderId} {k : PairRecord} {p : Part} (room : p.report.queue.length < 16) :
    p.Raises (skipPair r k p) [k.skipBody r] := by
  obtain ⟨prdy, passed⟩ := skipPair_cases r k p
  rw [passed, queued_of_room _ _ _ _ room]
  refine ⟨[{ seq := p.report.seq, stamp := p.now, take := p.take, body := k.skipBody r }], rfl, ?_, rfl⟩
  intro record listed
  rw [List.mem_singleton.mp listed]
  exact ⟨rfl, rfl⟩

/-! ### The choice -/

theorem chooseEvery_keeps (r : ReaderId) (l : List PairRecord) (p : Part) : p.ChoiceKeeps (chooseEvery r l p).1 := by
  induction l generalizing p with
  | nil => exact .refl p
  | cons k ks ih =>
    unfold chooseEvery
    split
    · exact ih p
    · split
      · exact .refl p
      · split
        · exact (skipPair_keeps r k p).trans (ih _)
        · exact .refl p

theorem choosePair_keeps (r : ReaderId) (p : Part) : p.ChoiceKeeps (choosePair r p).1 := by
  unfold choosePair
  split
  · exact chooseEvery_keeps _ _ _
  · exact .refl p

/-- Of the readers a choice moves the chooser's last-taken alone. -/
theorem chooseEvery_reader (r k : ReaderId) (l : List PairRecord) (p : Part) (other : r ≠ k) :
    (chooseEvery r l p).1.reader k = p.reader k := by
  induction l generalizing p with
  | nil => rfl
  | cons a as ih =>
    unfold chooseEvery
    split
    · exact ih p
    · split
      · rfl
      · split
        · rw [ih, skipPair_reader, if_neg other]
        · rfl

theorem chooseEvery_own (r : ReaderId) (l : List PairRecord) (p : Part) :
    (chooseEvery r l p).1.reader r = { p.reader r with lastTaken := ((chooseEvery r l p).1.reader r).lastTaken } := by
  induction l generalizing p with
  | nil => rfl
  | cons a as ih =>
    unfold chooseEvery
    split
    · exact ih p
    · split
      · rfl
      · split
        · refine (ih _).trans ?_
          rw [skipPair_reader, if_pos rfl]
        · rfl

/-- The chosen record, where the first that is not passed is `k`. -/
def PairRecord.ifReady (k : PairRecord) : Option PairRecord := if k.state = .ready then some k else none

/-- An EVERY reader that passes no damaged pair looks at the first record above its last-taken (R71). -/
theorem chooseEvery_of_no_skip {r : ReaderId} {p : Part} (noSkip : (p.readerSettings r).skipDamaged = false) (l : List PairRecord) :
    chooseEvery r l p = (p, (l.find? fun k => decide ((p.reader r).lastTaken < k.number)).bind PairRecord.ifReady) := by
  induction l with
  | nil => rfl
  | cons k ks ih =>
    unfold chooseEvery
    by_cases below : k.number ≤ (p.reader r).lastTaken
    · rw [if_pos below, ih, List.find?_cons_of_neg (by simpa using below)]
    · rw [if_neg below, List.find?_cons_of_pos (by simpa using below), Option.bind_some]
      unfold PairRecord.ifReady
      cases state : k.state with
      | forming => simp
      | ready => simp [noSkip]

/-- A damaged READY pair, which a reader that skips damaged pairs passes (R71). -/
def PairRecord.passed (k : PairRecord) : Bool := k.state == .ready && k.damage.any

/-- The last-taken once these records have been passed (R71). -/
def lastPassed (l : List PairRecord) (n : Nat) : Nat := ((l.getLast?).map (·.number)).getD n

theorem lastPassed_cons (k : PairRecord) (l : List PairRecord) (n : Nat) : lastPassed (k :: l) n = lastPassed l k.number := by
  cases l with
  | nil => rfl
  | cons a as =>
    unfold lastPassed
    rw [List.getLast?_cons_cons]
    cases last : (a :: as).getLast? with
    | none => simp at last
    | some v => rfl

/-- An EVERY reader that skips damaged pairs passes the damaged READY records that come first (R71). -/
theorem chooseEvery_of_skip {r : ReaderId} {l : List PairRecord} (rising : l.Pairwise fun a b => a.number < b.number) {p : Part}
    (skips : (p.readerSettings r).skipDamaged = true) :
    let above := l.filter fun k => decide ((p.reader r).lastTaken < k.number)
    (chooseEvery r l p).2 = (above.dropWhile PairRecord.passed).head?.bind PairRecord.ifReady ∧
      ((chooseEvery r l p).1.reader r).lastTaken = lastPassed (above.takeWhile PairRecord.passed) (p.reader r).lastTaken ∧
      (p.report.queue.length + (above.takeWhile PairRecord.passed).length ≤ 16 →
        p.Raises (chooseEvery r l p).1 ((above.takeWhile PairRecord.passed).map (PairRecord.skipBody r))) := by
  induction l generalizing p with
  | nil => exact ⟨rfl, rfl, fun _ => .of_queue rfl⟩
  | cons k ks ih =>
    obtain ⟨above_k, rising_ks⟩ := List.pairwise_cons.mp rising
    unfold chooseEvery
    by_cases below : k.number ≤ (p.reader r).lastTaken
    · rw [if_pos below, List.filter_cons_of_neg (by simpa using below)]
      exact ih rising_ks skips
    · rw [if_neg below, List.filter_cons_of_pos (by simpa using below)]
      cases state : k.state with
      | forming =>
        have stops : k.passed = false := by simp [PairRecord.passed, state]
        simp [stops, PairRecord.ifReady, state, lastPassed, Part.Raises.of_queue]
      | ready =>
        cases damaged : k.damage.any with
        | false =>
          have stops : k.passed = false := by simp [PairRecord.passed, damaged]
          simp [stops, PairRecord.ifReady, state, lastPassed, Part.Raises.of_queue]
        | true =>
          have passes : k.passed = true := by simp [PairRecord.passed, damaged, state]
          have kept := skipPair_keeps r k p
          have reader : (skipPair r k p).reader r = { p.reader r with lastTaken := k.number } := by
            rw [skipPair_reader, if_pos rfl]
          have same : (skipPair r k p).readerSettings r = p.readerSettings r := by
            unfold Part.readerSettings
            rw [kept.rig]
          have above_last : (ks.filter fun a => decide (((skipPair r k p).reader r).lastTaken < a.number))
              = ks.filter fun a => decide ((p.reader r).lastTaken < a.number) := by
            refine List.filter_congr fun a listed => ?_
            have := above_k a listed
            rw [reader, decide_eq_decide]
            dsimp only
            omega
          obtain ⟨chosen, last, events⟩ := ih rising_ks (p := skipPair r k p) (by rw [same, skips])
          rw [above_last] at chosen last events
          rw [if_neg (by simp), if_pos (by rw [skips]; rfl)]
          dsimp only
          rw [List.dropWhile_cons_of_pos passes, List.takeWhile_cons_of_pos passes]
          refine ⟨chosen, ?_, fun room => ?_⟩
          · rw [last, reader, lastPassed_cons]
          · rw [List.length_cons] at room
            have event := skipPair_raises (r := r) (k := k) (p := p) (by omega)
            have length := event.length
            rw [List.length_singleton] at length
            exact event.trans (events (by omega)) (by unfold Part.now; rw [kept.sync])
              (by unfold Part.take; rw [kept.rig])

theorem choosePair_of_every {r : ReaderId} {p : Part} (every : (p.readerSettings r).policy = .every) :
    choosePair r p = chooseEvery r (p.pairs.queue.filter PairRecord.isCurrent) p := by
  unfold choosePair
  rw [every]

theorem choosePair_of_latest {r : ReaderId} {p : Part} (latest : (p.readerSettings r).policy = .latest) :
    choosePair r p = (p, chooseLatest r p) := by
  unfold choosePair
  rw [latest]

/-- The newest of the current READY records the reader does not pass (R72). -/
theorem chooseLatest_eq (r : ReaderId) (p : Part) :
    chooseLatest r p = ((p.pairs.queue.filter fun k => !k.stale).filter fun k =>
      k.state = .ready ∧ ¬((p.readerSettings r).skipDamaged = true ∧ k.damage.any = true)).getLast? := by
  unfold chooseLatest
  rw [List.filter_filter]
  congr 2
  funext k
  unfold PairRecord.isCurrent
  cases k.stale <;> cases k.state <;> cases (p.readerSettings r).skipDamaged <;> cases k.damage.any <;> rfl

/-- Settles O36. -/
theorem readersChooseByTheirPolicy : Obligations.ReadersChooseByTheirPolicy := by
  unfold Obligations.ReadersChooseByTheirPolicy
  intro r p current
  refine ⟨fun every noSkip => ?_, fun latest => ?_, fun every skips rising => ?_⟩
  · rw [choosePair_of_every every]
    refine (chooseEvery_of_no_skip noSkip current).trans ?_
    cases current.find? fun k => decide ((p.reader r).lastTaken < k.number) <;> rfl
  · rw [choosePair_of_latest latest, chooseLatest_eq]
  · intro above damaged passed q
    obtain ⟨chosen, last, events⟩ := chooseEvery_of_skip rising skips
    have own := chooseEvery_own r current p
    have others := fun k (other : k ≠ r) => chooseEvery_reader r k current p (Ne.symm other)
    have kept := chooseEvery_keeps r current p
    have choice : choosePair r p = chooseEvery r current p := choosePair_of_every every
    have after : q = (chooseEvery r current p).1 := congrArg Prod.fst choice
    rw [last] at own
    rw [choice, after]
    refine ⟨chosen.trans ?_, own, others, kept.queue, kept.slots, kept.rig, kept.parkList, kept.req, kept.txn, kept.streams,
      events⟩
    change ((above.dropWhile damaged).head?.bind PairRecord.ifReady) = _
    cases (above.dropWhile damaged).head? <;> rfl

end Sys2Proof.Machine

/-! SUPPORT. Pair reads that arrive: those answered at once and those that park (R69, R70, R74, R78, R80). -/

namespace Sys2Proof.Machine

/-! ### The reader a read is bound to -/

theorem boundReader_eq_none {p : Part} {source : BitVec 6}
    (unbound : ∀ r, (p.reader r).state = .unbound ∨ (p.readerSettings r).sourceTag ≠ source.toNat) : boundReader p source = none := by
  refine List.find?_eq_none.mpr fun r _ bound => ?_
  simp only [Bool.and_eq_true, bne_iff_ne, beq_iff_eq] at bound
  rcases unbound r with off | other
  · exact bound.1 off
  · exact other bound.2

theorem read_of_pair {p : Part} {q : Request} {e o : Nat} (accepts : p.Accepts q e .pair o) : q.kind = .read := by
  obtain ⟨base, classified, _⟩ := accepts.cls
  have passes := accepts.passes
  unfold isRefused at passes
  rw [classified] at passes
  cases kind : q.kind with
  | read => rfl
  | write => simp [classRefused, kind] at passes

/-- The command of pair reads has the reader unit answer the read it has taken. -/
theorem exec_pairRead {q : Request} {e o : Nat} {s : State} {u : Part} (running : s.hw.resetAsserted = false)
    (accepts : s.hw.Accepts q e .pair o) (work : readerUnitRead e (s.hw.taken e (entryOf q .pair o)) = u) :
    exec .pairRead s = .next { s with hw := markChanged s.hw u } := by
  obtain ⟨base, classified, _⟩ := accepts.cls
  exact exec_handle running accepts ((isPairRead_iff s.hw q).mpr ⟨read_of_pair accepts, base, classified⟩) work

/-- The same, of a read whose source tag is bound to a reader. -/
theorem exec_boundRead {q : Request} {r : ReaderId} {e o : Nat} {s : State} {u : Part} (running : s.hw.resetAsserted = false)
    (accepts : s.hw.Accepts q e .pair o) (bound : boundReader s.hw q.source = some r)
    (work : readerRead r e o q.length (s.hw.taken e (entryOf q .pair o)) = u) :
    exec .pairRead s = .next { s with hw := markChanged s.hw u } := by
  refine exec_pairRead running accepts ?_
  unfold readerUnitRead
  rw [entry_taken _ _ _ accepts.unused]
  have same : boundReader (s.hw.taken e (entryOf q .pair o)) (entryOf q .pair o).source = some r := bound
  dsimp only
  rw [same]
  exact work

/-! ### What happens before a read is answered -/

/-- What the operations of a reader leave alone until the read itself is answered. -/
structure Part.ArrivalKeeps (p q : Part) : Prop where
  req : q.req = p.req
  txn : q.txn = p.txn
  parkList : q.readers.parkList = p.readers.parkList
  settings : q.rig.reader = p.rig.reader
  fill : q.rig.global.fill = p.rig.global.fill

theorem Part.ArrivalKeeps.refl (p : Part) : p.ArrivalKeeps p := ⟨rfl, rfl, rfl, rfl, rfl⟩

theorem Part.ArrivalKeeps.trans {p q u : Part} (a : p.ArrivalKeeps q) (b : q.ArrivalKeeps u) : p.ArrivalKeeps u :=
  ⟨b.req.trans a.req, b.txn.trans a.txn, b.parkList.trans a.parkList, b.settings.trans a.settings, b.fill.trans a.fill⟩

theorem Part.ArrivalKeeps.readerSettings {p q : Part} (kept : p.ArrivalKeeps q) (r : ReaderId) :
    q.readerSettings r = p.readerSettings r := congrArg (PerReader.get · r) kept.settings

theorem Part.ChoiceKeeps.arrival {p q : Part} (kept : p.ChoiceKeeps q) : p.ArrivalKeeps q :=
  ⟨kept.req, kept.txn, kept.parkList, congrArg RigUnit.reader kept.rig, congrArg (·.global.fill) kept.rig⟩

theorem choosePair_arrival (r : ReaderId) (p : Part) : p.ArrivalKeeps (choosePair r p).1 := (choosePair_keeps r p).arrival

/-- A window change that takes effect changes the pair window alone (R91, R174). -/
theorem checkWindow_arrival (p : Part) : p.ArrivalKeeps (checkWindow p) := by
  unfold checkWindow
  split
  · exact .refl p
  · split <;> exact ⟨rfl, rfl, rfl, rfl, rfl⟩

theorem evaluateRetirement_arrival (p : Part) : p.ArrivalKeeps (evaluateRetirement p) := by
  rw [evaluateRetirement_frame]
  exact ⟨rfl, rfl, rfl, rfl, rfl⟩

/-- The release of a restart read latches nothing (R79; notes/assumptions/20.md). -/
theorem release_arrival (r : ReaderId) (p : Part) : p.ArrivalKeeps (release r false p) := by
  unfold release
  split
  · exact .refl p
  · rename_i h _
    have freed : p.ArrivalKeeps
        (p.onReader r fun c => { c with state := .idle, held := none, away := false, lease := .stopped }) := ⟨rfl, rfl, rfl, rfl, rfl⟩
    refine (freed.trans (checkWindow_arrival _)).trans (.trans ?_ (evaluateRetirement_arrival _))
    exact ⟨rfl, rfl, rfl, rfl, rfl⟩

/-- A part that has kept the taken request is one that has taken it itself. -/
theorem Part.ArrivalKeeps.is_taken {p q : Part} {e : Nat} {v : Entry} (kept : (p.taken e v).ArrivalKeeps q) :
    q = ({ q with req := p.req } : Part).taken e v := by
  have req : q.req = p.req.waiting e v := kept.req
  unfold Part.taken
  rw [← req]

theorem onEntry_taken {p : Part} {e : Nat} (v : Entry) (f : Entry → Entry) (unused : unusedEntry p = some e) :
    (p.taken e v).onEntry e f = p.taken e (f v) := by
  have changed := modify_entry _ _ _ f (entry_taken p e v unused)
  have table : (p.taken e v).req.table.set e (some (f v)) = p.req.table.set e (some (f v)) := List.set_set ..
  exact congrArg (fun t => ({ p with req := { p.req.waiting e v with table := t } } : Part)) (changed.trans table)

/-- A read that is answered once the reader unit has done what precedes it (R154). -/
theorem Part.ArrivalKeeps.answered {p u : Part} {q : Request} {e o : Nat} {v : Entry} (kept : (p.taken e v).ArrivalKeeps u)
    (isEntry : v = entryOf q .pair o) (unused : unusedEntry p = some e) (code : Code) :
    answerAtOnce e code u = { u with req := p.req.answered e { entryOf q .pair o with code := code, data := p.fillFor q } } := by
  subst isEntry
  have fill : ({ u with req := p.req } : Part).fillFor q = p.fillFor q := by
    unfold Part.fillFor
    dsimp only
    rw [kept.fill]
    rfl
  have room : unusedEntry ({ u with req := p.req } : Part) = some e := unused
  have answer := answerAtOnce_entryOf q .pair o code room
  rw [fill, ← kept.is_taken] at answer
  exact answer

/-- A read that parks once the reader unit has done what precedes it (R80). -/
theorem Part.ArrivalKeeps.parked {p u : Part} {q : Request} {e o : Nat} {v : Entry} (kept : (p.taken e v).ArrivalKeeps u)
    (isEntry : v = entryOf q .pair o) (unused : unusedEntry p = some e) (r : ReaderId) :
    parkRead r e o q.length u = { u with
      req := p.req.waiting e { entryOf q .pair o with state := .parked }
      readers :=
        { ctx := u.readers.ctx.set r { u.reader r with state := .parked }
          parkList := u.readers.parkList ++
            [{ entry := e, reader := r, offset := o, length := q.length,
               timer := .running ((p.readerSettings r).parkLimit * 250) }] } } := by
  subst isEntry
  have settings : (({ u with req := p.req } : Part).taken e (entryOf q .pair o)).readerSettings r = p.readerSettings r :=
    kept.readerSettings r
  have room : unusedEntry ({ u with
    req := p.req
    readers :=
      { ctx := u.readers.ctx.set r { u.reader r with state := .parked }
        parkList := u.readers.parkList ++
          [{ entry := e, reader := r, offset := o, length := q.length,
             timer := .running ((p.readerSettings r).parkLimit * 250) }] } } : Part) = some e := unused
  refine (congrArg (parkRead r e o q.length) kept.is_taken).trans ?_
  unfold parkRead
  rw [settings]
  exact onEntry_taken (entryOf q .pair o) (fun v => { v with state := .parked }) room

/-! ### A choice does not depend on the requests -/

theorem evaluatePrdy_with_req (p : Part) (u : RequestPath) :
    evaluatePrdy { p with req := u } = { evaluatePrdy p with req := u } := by
  unfold evaluatePrdy
  dsimp only
  split <;> rfl

theorem skipPair_with_req (r : ReaderId) (k : PairRecord) (p : Part) (u : RequestPath) :
    skipPair r k { p with req := u } = { skipPair r k p with req := u } := by
  unfold skipPair queueRecordNow
  rw [queueRecord_eq, queueRecord_eq]
  exact evaluatePrdy_with_req { p.onReader r fun c => { c with lastTaken := k.number } with
    report := p.report.queued p.now p.take (k.skipBody r) p.rig.global.alertEnables } u

theorem chooseEvery_with_req (r : ReaderId) (l : List PairRecord) (p : Part) (u : RequestPath) :
    chooseEvery r l { p with req := u } = ({ (chooseEvery r l p).1 with req := u }, (chooseEvery r l p).2) := by
  induction l generalizing p with
  | nil => rfl
  | cons k ks ih =>
    unfold chooseEvery
    rw [show ({ p with req := u } : Part).reader r = p.reader r from rfl,
      show ({ p with req := u } : Part).readerSettings r = p.readerSettings r from rfl]
    split
    · exact ih p
    · split
      · rfl
      · split
        · rw [skipPair_with_req]
          exact ih _
        · rfl

theorem choosePair_with_req (r : ReaderId) (p : Part) (u : RequestPath) :
    choosePair r { p with req := u } = ({ (choosePair r p).1 with req := u }, (choosePair r p).2) := by
  unfold choosePair
  rw [show ({ p with req := u } : Part).readerSettings r = p.readerSettings r from rfl]
  cases (p.readerSettings r).policy with
  | every => exact chooseEvery_with_req ..
  | latest => rfl

theorem choosePair_taken {r : ReaderId} {p : Part} (e : Nat) (v : Entry) (finds_none : choosePair r p = (p, none)) :
    choosePair r (p.taken e v) = (p.taken e v, none) := by
  refine (choosePair_with_req r p _).trans ?_
  rw [finds_none]
  rfl

/-! ### A take that fails -/

theorem attemptTake_of_failed {r : ReaderId} {p p1 : Part}
    (failed : choosePair r p = (p1, none) ∨ ∃ k, choosePair r p = (p1, some k) ∧ takeNotice k.number k.take p1 = none) :
    attemptTake r p = (p1, false) := by
  unfold attemptTake
  rcases failed with finds_none | ⟨k, chosen, refused⟩
  · rw [finds_none]
  · rw [chosen]
    dsimp only
    rw [refused]

/-- The part a take attempt starts from: the read taken, and the hold released where it is a restart read (R70, R78). -/
def Part.BeforeTake (s : Part) (r : ReaderId) (o : Nat) (handed p : Part) : Prop :=
  ((s.reader r).state = .idle ∧ p = handed) ∨
    ((s.reader r).state = .holding ∧ (s.readerSettings r).restartTakes = true ∧ o = 0 ∧ (s.reader r).away = true ∧
      p = release r false handed)

/-- Such a read is a take read (R70). -/
theorem readerRead_of_before {p s : Part} {r : ReaderId} {e o n : Nat} {v : Entry}
    (before : s.BeforeTake r o (s.taken e v) p) : readerRead r e o n (s.taken e v) = takeRead r e o n p := by
  unfold readerRead
  rw [show (s.taken e v).reader r = s.reader r from rfl]
  rcases before with ⟨idle, rfl⟩ | ⟨holding, restarts, rfl, away, rfl⟩
  · rw [idle]
  · have restart : isRestart (s.taken e v) r 0 = true := by
      unfold isRestart
      rw [show (s.taken e v).reader r = s.reader r from rfl, show (s.taken e v).readerSettings r = s.readerSettings r from rfl,
        restarts, away]
      rfl
    rw [holding]
    dsimp only
    rw [if_pos restart]

theorem Part.BeforeTake.arrival {p s handed : Part} {r : ReaderId} {o : Nat} (before : s.BeforeTake r o handed p) :
    handed.ArrivalKeeps p := by
  rcases before with ⟨_, rfl⟩ | ⟨_, _, _, _, rfl⟩
  · exact .refl _
  · exact release_arrival r handed

theorem takeRead_of_failed {r : ReaderId} {e o n : Nat} {p p1 : Part}
    (failed : choosePair r p = (p1, none) ∨ ∃ k, choosePair r p = (p1, some k) ∧ takeNotice k.number k.take p1 = none) :
    takeRead r e o n p = failedTake r e o n p1 := by
  unfold takeRead
  rw [attemptTake_of_failed failed]

theorem parkRoom_iff (p : Part) : parkRoom p = true ↔ p.readers.parkList.length < 8 := decide_eq_true_iff

/-- What is left after a take has failed. -/
theorem Part.BeforeTake.failed_arrival {p p1 s handed : Part} {r : ReaderId} {o : Nat} (before : s.BeforeTake r o handed p)
    (failed : choosePair r p = (p1, none) ∨ ∃ k, choosePair r p = (p1, some k) ∧ takeNotice k.number k.take p1 = none) :
    handed.ArrivalKeeps p1 := by
  have choice := choosePair_arrival r p
  have left : (choosePair r p).1 = p1 := by
    rcases failed with finds_none | ⟨k, chosen, _⟩
    · rw [finds_none]
    · rw [chosen]
  rw [left] at choice
  exact before.arrival.trans choice

theorem failedTake_of_no_place {p u : Part} {r : ReaderId} {e o n : Nat} (kept : p.ArrivalKeeps u)
    (noPlace : (p.readerSettings r).waitMode = .nowait ∨ 8 ≤ p.readers.parkList.length) :
    failedTake r e o n u = latchReaderIfPosted r (answerNoPair e u) := by
  unfold failedTake
  refine if_neg fun both => ?_
  obtain ⟨park, room⟩ := Bool.and_eq_true_iff.mp both
  replace park := of_decide_eq_true park
  rw [kept.readerSettings r] at park
  rw [parkRoom_iff, kept.parkList] at room
  rcases noPlace with nowait | full
  · rw [nowait] at park
    cases park
  · omega

theorem failedTake_of_place {p u : Part} {r : ReaderId} {e o n : Nat} (kept : p.ArrivalKeeps u)
    (park : (p.readerSettings r).waitMode = .park) (room : p.readers.parkList.length < 8) :
    failedTake r e o n u = parkRead r e o n u := by
  unfold failedTake
  refine if_pos (Bool.and_eq_true_iff.mpr ⟨decide_eq_true (by rw [kept.readerSettings r, park]), (parkRoom_iff u).mpr ?_⟩)
  rwa [kept.parkList]

theorem readerRead_of_parked {p : Part} {r : ReaderId} (parked : (p.reader r).state = .parked) (e o n : Nat) :
    readerRead r e o n p = if parkRoom p = true then parkRead r e o n p else answerNoPair e p := by
  unfold readerRead
  rw [parked]

theorem latchReaderIfPosted_of_not {r : ReaderId} {p : Part} (quiet : p.post (.reader r) ≠ .posted) :
    latchReaderIfPosted r p = p := if_neg quiet

/-- Settles O32. -/
theorem pairReadsAnsweredAtOnce : Obligations.PairReadsAnsweredAtOnce := by
  refine ⟨?_, ?_, ?_⟩
  · intro q e o s running accepts unbound answer counted
    refine exec_pairRead running accepts ?_
    unfold readerUnitRead
    rw [entry_taken _ _ _ accepts.unused]
    have nobody : boundReader (s.hw.taken e (entryOf q .pair o)) (entryOf q .pair o).source = none := boundReader_eq_none unbound
    dsimp only
    rw [nobody]
    dsimp only
    unfold refuseRead
    rw [answerAtOnce_entryOf _ _ _ _ accepts.unused]
    rfl
  · intro q r e o s running accepts bound cases answer
    refine exec_boundRead running accepts bound ?_
    have given : answerNoPair e (s.hw.taken e (entryOf q .pair o)) = { s.hw with req := s.hw.req.answered e answer } :=
      answerAtOnce_entryOf q .pair o .noPair accepts.unused
    rcases cases with ⟨parked, full⟩ | ⟨idle, finds_none, quiet, noRoom⟩
    · have noRoom : ¬parkRoom (s.hw.taken e (entryOf q .pair o)) = true := by
        rw [parkRoom_iff]
        exact Nat.not_lt.mpr full
      rw [readerRead_of_parked (p := s.hw.taken e (entryOf q .pair o)) parked, if_neg noRoom, given]
    · have before : s.hw.BeforeTake r o (s.hw.taken e (entryOf q .pair o)) (s.hw.taken e (entryOf q .pair o)) := .inl ⟨idle, rfl⟩
      rw [readerRead_of_before before, takeRead_of_failed (.inl (choosePair_taken _ _ finds_none)),
        failedTake_of_no_place (.refl (s.hw.taken e (entryOf q .pair o))) noRoom, given]
      exact latchReaderIfPosted_of_not quiet
  · intro q r e o s p p1 running accepts bound handed before failed noRoom answer answered
    refine exec_boundRead running accepts bound ?_
    have isBefore : s.hw.BeforeTake r o (s.hw.taken e (entryOf q .pair o)) p := before
    have kept := isBefore.failed_arrival failed
    rw [readerRead_of_before isBefore, takeRead_of_failed failed, failedTake_of_no_place kept noRoom]
    exact congrArg (latchReaderIfPosted r) (kept.answered rfl accepts.unused .noPair)

/-- Settles O33. -/
theorem pairReadsPark : Obligations.PairReadsPark := by
  constructor
  · intro q r e o s running accepts bound room cases
    refine exec_boundRead running accepts bound ?_
    have parks := (Part.ArrivalKeeps.refl (s.hw.taken e (entryOf q .pair o))).parked rfl accepts.unused r
    rcases cases with parked | ⟨idle, finds_none, park⟩
    · rw [readerRead_of_parked (p := s.hw.taken e (entryOf q .pair o)) parked, if_pos ((parkRoom_iff (s.hw.taken e (entryOf q .pair o))).mpr room), parks]
      rfl
    · have before : s.hw.BeforeTake r o (s.hw.taken e (entryOf q .pair o)) (s.hw.taken e (entryOf q .pair o)) := .inl ⟨idle, rfl⟩
      rw [readerRead_of_before before, takeRead_of_failed (.inl (choosePair_taken _ _ finds_none)),
        failedTake_of_place (.refl (s.hw.taken e (entryOf q .pair o))) park room, parks]
      rfl
  · intro q r e o s p p1 running accepts bound room handed before failed park
    refine exec_boundRead running accepts bound ?_
    have isBefore : s.hw.BeforeTake r o (s.hw.taken e (entryOf q .pair o)) p := before
    have kept := isBefore.failed_arrival failed
    rw [readerRead_of_before isBefore, takeRead_of_failed failed, failedTake_of_place kept park room,
      kept.parked rfl accepts.unused r]

end Sys2Proof.Machine

/-! SUPPORT. The translation of a read: its pieces, its fill and its code (R85 to R88). -/

namespace Sys2Proof.Machine

/-! ### Cutting a run, once more -/

/-- A part begins at the run's start or at a line, and ends at the run's end or at a line (R87, R106). -/
theorem cutRun_ends {lb : Nat} (positive : 0 < lb) {fuel o n : Nat} {part : Nat × Nat} (isPart : part ∈ cutRun lb fuel o n) :
    (part.1 = o ∨ part.1 % lb = 0) ∧ (part.1 + part.2 = o + n ∨ (part.1 + part.2) % lb = 0) := by
  induction fuel generalizing o n with
  | zero => cases isPart
  | succ fuel ih =>
    have place := Nat.mod_lt o positive
    have line : (o + (lb - o % lb)) % lb = 0 := by
      have split := Nat.div_add_mod o lb
      have whole : o + (lb - o % lb) = lb * (o / lb) + lb := by omega
      rw [whole, Nat.add_mod_right, Nat.mul_mod_right]
    unfold cutRun at isPart
    dsimp only at isPart
    split at isPart
    · cases isPart
    · rcases List.mem_cons.mp isPart with rfl | later
      · refine ⟨.inl rfl, ?_⟩
        dsimp only
        rcases Nat.le_total n (lb - o % lb) with short | long
        · exact .inl (by rw [Nat.min_eq_left short])
        · exact .inr (by rw [Nat.min_eq_right long, line])
      · obtain ⟨first, last⟩ := ih later
        rcases Nat.le_total n (lb - o % lb) with short | long
        · have := cutRun_part positive later
          omega
        · rw [Nat.min_eq_right long] at first last
          refine ⟨.inr ?_, ?_⟩
          · rcases first with start | start
            · rw [start, line]
            · exact start
          · rcases last with done | done
            · exact .inl (by omega)
            · exact .inr done

/-- The parts stand in offset order (R87). -/
theorem cutRun_rising {lb : Nat} (positive : 0 < lb) (fuel o n : Nat) :
    (cutRun lb fuel o n).Pairwise fun a b => a.1 < b.1 := by
  induction fuel generalizing o n with
  | zero => exact .nil
  | succ fuel ih =>
    have place := Nat.mod_lt o positive
    unfold cutRun
    dsimp only
    split
    · exact .nil
    · refine List.pairwise_cons.mpr ⟨fun part later => ?_, ih _ _⟩
      have := cutRun_part positive later
      dsimp only
      omega

/-! ### The place of a byte (R85, R86) -/

theorem bandGap_iff (g : Geometry) (j : Nat) : bandGap g j = true ↔
    (0 < g.shift ∧ (g.top : Int) ≤ j ∧ (j : Int) < g.top + g.shift) ∨
      (g.shift < 0 ∧ (g.lines : Int) - g.bottom + g.shift ≤ j ∧ (j : Int) < (g.lines : Int) - g.bottom) := by
  unfold bandGap
  dsimp only
  split
  · rw [decide_eq_true_iff]
    omega
  · split
    · rw [decide_eq_true_iff]
      omega
    · simp only [Bool.false_eq_true, false_iff]
      omega

/-- The bytes of one line stand behind one another in one line of a slot (R85). -/
theorem windowPlace_add (layout : Layout) {lb h o t : Nat} (inLine : o % lb + t < lb) :
    (windowPlace layout lb h (o + t)).eye = (windowPlace layout lb h o).eye ∧
      (windowPlace layout lb h (o + t)).line = (windowPlace layout lb h o).line := by
  obtain ⟨line, _⟩ := line_of_add inLine
  cases layout with
  | interleaved => simp only [windowPlace, line, and_self]
  | sequential =>
    have side (j : Nat) : j < lb * h ↔ j / lb < h := by
      rw [Nat.div_lt_iff_lt_mul (by omega), Nat.mul_comm]
    simp only [windowPlace, side, line]
    split
    · exact ⟨rfl, rfl⟩
    · exact ⟨rfl, by rw [Nat.sub_mul_div, Nat.sub_mul_div, line]⟩

theorem windowPlace_byte (layout : Layout) (lb h o : Nat) : (windowPlace layout lb h o).byte = o % lb := by
  cases layout with
  | interleaved => rfl
  | sequential =>
    unfold windowPlace
    dsimp only
    split <;> rfl

/-- The address of a byte of a pair (R87). -/
def pairAddress (p : Part) (q : PairRecord) (o : Nat) : Nat :=
  let w := pairPlace p q o
  p.slotBase w.eye (q.slotOf w.eye) + w.line * (p.slot w.eye (q.slotOf w.eye)).geom.pitch + w.byte

/-- A byte further on in the same line: the same line of the same slot, as many addresses further on. -/
theorem pairPlace_add {p : Part} {q : PairRecord} {o t : Nat} (inLine : o % q.geom.lineBytes + t < q.geom.lineBytes) :
    (pairPlace p q (o + t)).eye = (pairPlace p q o).eye ∧ inBandGap p q (o + t) = inBandGap p q o ∧
      pairAddress p q (o + t) = pairAddress p q o + t := by
  obtain ⟨eye, line⟩ := windowPlace_add p.rig.global.layout (h := q.geom.lines) inLine
  have eye : (pairPlace p q (o + t)).eye = (pairPlace p q o).eye := eye
  have line : (pairPlace p q (o + t)).line = (pairPlace p q o).line := line
  have byte : (pairPlace p q (o + t)).byte = (pairPlace p q o).byte + t := by
    have next := (line_of_add inLine).2
    unfold pairPlace
    rw [windowPlace_byte, windowPlace_byte, next]
  refine ⟨eye, ?_, ?_⟩
  · unfold inBandGap
    dsimp only
    rw [eye, line]
  · unfold pairAddress
    dsimp only
    rw [eye, line, byte]
    omega

/-! ### The pieces (R87) -/

theorem mem_readPieces {p : Part} {q : PairRecord} {e : Nat} {source : BitVec 6} {o n : Nat} {k : Piece} :
    k ∈ readPieces p q e source o n ↔
      ∃ part ∈ cutRun q.geom.lineBytes n o n, inBandGap p q part.1 = false ∧ readPieceOf p q e source o part = k := by
  simp only [readPieces, List.mem_map, List.mem_filter, Bool.not_eq_true', and_assoc]

/-- A byte outside the band gaps stands in the piece of its part, at its address (R87). -/
theorem readPieces_cover {p : Part} {q : PairRecord} {o n i : Nat} (positive : 0 < q.geom.lineBytes) (e : Nat) (source : BitVec 6)
    (inside : i < n) (noGap : inBandGap p q (o + i) = false) : ∃ k ∈ readPieces p q e source o n, ∃ at0,
      k.role = .readPiece (pairPlace p q (o + i)).eye (q.slotOf (pairPlace p q (o + i)).eye) at0 ∧ at0 ≤ i ∧
      i < at0 + k.length ∧ k.addr + (i - at0) = pairAddress p q (o + i) := by
  obtain ⟨part, isPart, before, after⟩ := cutRun_covers positive (Nat.le_refl n) (Nat.le_add_right o i)
    (show o + i < o + n by omega)
  obtain ⟨nonempty, first, last, inLine⟩ := cutRun_part positive isPart
  obtain ⟨eye, gap, address⟩ := pairPlace_add (p := p) (q := q) (o := part.1) (t := o + i - part.1) (by omega)
  rw [show part.1 + (o + i - part.1) = o + i by omega] at eye gap address
  rw [gap] at noGap
  refine ⟨_, mem_readPieces.mpr ⟨part, isPart, noGap, rfl⟩, part.1 - o, ?_, by omega, ?_, ?_⟩
  · rw [eye]
    rfl
  · change i < part.1 - o + part.2
    omega
  · change pairAddress p q part.1 + (i - (part.1 - o)) = _
    rw [address]
    omega

/-- A piece is a read of a run within one line outside the band gaps, as long as it can be (R87). -/
theorem readPieces_shape {p : Part} {q : PairRecord} {e o n : Nat} {source : BitVec 6} (positive : 0 < q.geom.lineBytes) {k : Piece}
    (isPiece : k ∈ readPieces p q e source o n) : ∃ at0,
      k.role = .readPiece (pairPlace p q (o + at0)).eye (q.slotOf (pairPlace p q (o + at0)).eye) at0 ∧
      0 < k.length ∧ at0 + k.length ≤ n ∧ (at0 = 0 ∨ (o + at0) % q.geom.lineBytes = 0) ∧
      (at0 + k.length = n ∨ (o + at0 + k.length) % q.geom.lineBytes = 0) ∧
      (o + at0) % q.geom.lineBytes + k.length ≤ q.geom.lineBytes ∧
      (∀ i, at0 ≤ i → i < at0 + k.length → inBandGap p q (o + i) = false) ∧ k.kind = .read ∧ k.data = [] ∧
      k.source = source ∧ k.entry = e := by
  obtain ⟨part, isPart, noGap, rfl⟩ := mem_readPieces.mp isPiece
  obtain ⟨nonempty, first, last, inLine⟩ := cutRun_part positive isPart
  obtain ⟨starts, ends⟩ := cutRun_ends positive isPart
  have start : o + (part.1 - o) = part.1 := by omega
  refine ⟨part.1 - o, by rw [start]; rfl, nonempty, ?_, ?_, ?_, ?_, fun i after before => ?_, rfl, rfl, rfl, rfl⟩
  · change part.1 - o + part.2 ≤ n
    omega
  · rw [start]
    omega
  · change part.1 - o + part.2 = n ∨ (o + (part.1 - o) + part.2) % q.geom.lineBytes = 0
    rw [start]
    omega
  · rw [start]
    exact inLine
  · replace before : i < part.1 - o + part.2 := before
    obtain ⟨_, gap, _⟩ := pairPlace_add (p := p) (q := q) (o := part.1) (t := o + i - part.1) (by omega)
    rw [show part.1 + (o + i - part.1) = o + i by omega, noGap] at gap
    exact gap

theorem readPieces_rising {p : Part} {q : PairRecord} {e o n : Nat} {source : BitVec 6} (positive : 0 < q.geom.lineBytes) :
    ((readPieces p q e source o n).map (·.role.place)).Pairwise (· < ·) := by
  unfold readPieces
  rw [List.map_map, List.pairwise_map]
  refine (List.Pairwise.filter _ ?_)
  refine (cutRun_rising positive n o n).imp_of_mem fun {a b} isA isB before => ?_
  have := (cutRun_part positive isA).2.1
  change a.1 - o < b.1 - o
  omega

/-! ### The fill and the code (R86, R88) -/

theorem readFill_gap {p : Part} {q : PairRecord} {o n i : Nat} (addr : Nat) (inside : i < n) (gap : inBandGap p q (o + i) = true) :
    (readFill p q addr o n)[i]? = some (fillByte p.rig.global.fill (addr + i)) := by
  simp [readFill, inside, gap]

theorem readHasFill_iff {p : Part} {q : PairRecord} {o n : Nat} (positive : 0 < q.geom.lineBytes) :
    readHasFill p q o n = true ↔ ∃ i, i < n ∧ inBandGap p q (o + i) = true := by
  unfold readHasFill
  rw [List.any_eq_true]
  constructor
  · rintro ⟨part, isPart, gap⟩
    obtain ⟨nonempty, first, last, _⟩ := cutRun_part positive isPart
    exact ⟨part.1 - o, by omega, by rw [show o + (part.1 - o) = part.1 by omega, gap]⟩
  · rintro ⟨i, inside, gap⟩
    obtain ⟨part, isPart, before, after⟩ := cutRun_covers positive (Nat.le_refl n) (Nat.le_add_right o i)
      (show o + i < o + n by omega)
    obtain ⟨nonempty, first, last, inLine⟩ := cutRun_part positive isPart
    obtain ⟨_, same, _⟩ := pairPlace_add (p := p) (q := q) (o := part.1) (t := o + i - part.1) (by omega)
    rw [show part.1 + (o + i - part.1) = o + i by omega, gap] at same
    exact ⟨part, isPart, same.symm⟩

/-! ### A translation (R39, R87) -/

/-- An entry once its read has been translated (R88). -/
def translatedEntry (q : Request) (o : Nat) (p : Part) (k : PairRecord) (e : Nat) : Entry :=
  { entryOf q .pair o with
    outstanding := (readPieces p k e q.source o q.length).length, code := readCode p k o q.length,
    data := readFill p k q.addr.toNat o q.length }

/-- The part once a taken read has been translated: its pieces handed on, or, with none, its response given (R87). -/
def Part.translated (p : Part) (q : Request) (o : Nat) (k : PairRecord) (e : Nat) : Part :=
  let pieces := readPieces p k e q.source o q.length
  { p with
    slots := (countReads k pieces p).slots
    req := if pieces = [] then p.req.answered e (translatedEntry q o p k e) else p.req.waiting e (translatedEntry q o p k e)
    txn := if pieces = [] then p.txn else { p.txn with issue := p.txn.issue ++ [pieces] } }

theorem countReads_nil (k : PairRecord) (p : Part) : countReads k [] p = p := by
  unfold countReads
  rw [onSlot_of_fixed (f := fun r => { r with reads := r.reads + piecesTo .left [] }) rfl, onSlot_of_fixed rfl]

/-- A translation in full, of any entry: with no piece at all the response is given at once (R87, R88). -/
theorem translateRead_eq {p : Part} {e : Nat} {v : Entry} (k : PairRecord) (o n : Nat) (entry : p.entry e = some v) :
    translateRead k e o n p =
      let pieces := readPieces p k e v.source o n
      { p with
        slots := (countReads k pieces p).slots
        req := { p.req with
          table := p.req.table.set e (some { v with
            state := if pieces = [] then .returning else .inProgress, outstanding := pieces.length,
            code := readCode p k o n, data := readFill p k v.addr.toNat o n })
          returning := if pieces = [] then p.req.returning ++ [e] else p.req.returning }
        txn := if pieces = [] then p.txn else { p.txn with issue := p.txn.issue ++ [pieces] } } := by
  unfold translateRead
  rw [entry]
  dsimp only
  cases readPieces p k e v.source o n with
  | nil =>
    rw [List.isEmpty_nil, if_pos rfl, countReads_nil, finishEntry_eq _ _ _ _ _ entry]
    rfl
  | cons a as =>
    have same : (countReads k (a :: as) p).entry e = some v := entry
    rw [List.isEmpty_cons, if_neg (by decide), handOn_eq _ _ _ _ _ _ same]
    rfl

theorem translateRead_taken {p : Part} {q : Request} {e o : Nat} (k : PairRecord) (unused : unusedEntry p = some e) :
    translateRead k e o q.length (p.taken e (entryOf q .pair o)) = p.translated q o k e := by
  have pieces : readPieces (p.taken e (entryOf q .pair o)) k e (entryOf q .pair o).source o q.length =
    readPieces p k e q.source o q.length := rfl
  refine (translateRead_eq k o q.length (entry_taken p e _ unused)).trans ?_
  unfold Part.translated translatedEntry
  rw [pieces]
  dsimp only
  by_cases none_left : readPieces p k e q.source o q.length = []
  · simp only [if_pos none_left, Part.taken, RequestPath.waiting, RequestPath.answered, List.set_set]
    rfl
  · simp only [if_neg none_left, Part.taken, RequestPath.waiting, List.set_set]
    rfl

end Sys2Proof.Machine

/-! SUPPORT. Reads of a held pair (R75, R77, R79, R89). -/

namespace Sys2Proof.Machine

/-! ### Contexts and queues -/

theorem PerReader.set_set {α : Type} (p : PerReader α) (r : ReaderId) (v w : α) : (p.set r v).set r w = p.set r w := by
  cases r <;> rfl

theorem onReader_onReader (p : Part) (r : ReaderId) (f g : ReaderCtx → ReaderCtx) :
    (p.onReader r f).onReader r g = p.onReader r (g ∘ f) := by
  simp only [Part.onReader, Part.onReaders, PerReader.get_set, if_true, PerReader.set_set]
  rfl

theorem updateFirst_append {α : Type} {test : α → Bool} (f : α → α) {older newer : List α} {a : α}
    (before : ∀ b ∈ older, test b = false) (here : test a = true) :
    updateFirst test f (older ++ a :: newer) = older ++ f a :: newer := by
  induction older with
  | nil => exact if_pos here
  | cons b bs ih =>
    obtain ⟨other, rest⟩ := List.forall_mem_cons.mp before
    exact (if_neg (by rw [other]; decide)).trans (congrArg (b :: ·) (ih rest))

theorem isHeld_iff (h : HeldPair) (k : PairRecord) : k.isHeld h = true ↔ k.asHeld = h := beq_iff_eq

/-- The holders of a record that is the first of its number, take and left slot (R58). -/
theorem onHolders_of_split {p : Part} {older newer : List PairRecord} {k : PairRecord} (f : Nat → Nat)
    (queue : p.pairs.queue = older ++ k :: newer) (first : ∀ a ∈ older, a.asHeld ≠ k.asHeld) :
    onHolders k.asHeld f p =
      { p with pairs := { p.pairs with queue := older ++ { k with holders := f k.holders } :: newer } } := by
  have changed := updateFirst_append (test := PairRecord.isHeld k.asHeld) (newer := newer)
    (fun a => { a with holders := f a.holders }) (fun a listed => by simpa [PairRecord.isHeld] using first a listed)
    ((isHeld_iff _ _).mpr rfl)
  unfold onHolders Part.onPairs
  dsimp only
  rw [queue, changed]

/-! ### The held record -/

theorem held_of_heldRecord {p : Part} {r : ReaderId} {k : PairRecord} (held : heldRecord p r = some k) :
    (p.reader r).held = some k.asHeld := by
  unfold heldRecord at held
  split at held
  · cases held
  · rename_i h isHeld
    rw [isHeld, (isHeld_iff _ _).mp (List.find?_some held)]

/-- The context of a reader whose hold has been released (R79). -/
def ReaderCtx.released (c : ReaderCtx) : ReaderCtx :=
  { state := .idle, held := none, lastTaken := c.lastTaken, away := false, lease := .stopped }

theorem release_of_held {p : Part} {r : ReaderId} {h : HeldPair} (held : (p.reader r).held = some h) :
    release r true p =
      evaluateRetirement (onHolders h (· - 1) (checkWindow (latchReaderIfPosted r (p.onReader r ReaderCtx.released)))) := by
  unfold release
  rw [held]
  rfl

/-- A read bound to a held pair: refused beyond its extent (R89), translated inside it, and released at its end (R77). -/
theorem boundRead_taken {p : Part} {q : Request} {r : ReaderId} {e o : Nat} {k : PairRecord} (unused : unusedEntry p = some e)
    (held : heldRecord p r = some k) : boundRead r e o q.length (p.taken e (entryOf q .pair o)) =
      if k.geom.extent < o + q.length then
        raise .rejected { p with req := p.req.answered e { entryOf q .pair o with code := .rejected, data := p.fillFor q } }
      else if o + q.length = k.geom.extent then release r true (p.translated q o k e)
      else p.translated q o k e := by
  have same : heldRecord (p.taken e (entryOf q .pair o)) r = some k := held
  unfold boundRead
  rw [same]
  dsimp only
  rw [translateRead_taken k unused]
  unfold refuseRead
  rw [answerAtOnce_entryOf _ _ _ _ unused]

/-! ### Hold reads -/

theorem not_isRestart {p : Part} {r : ReaderId} {o : Nat}
    (notRestart : ¬((p.readerSettings r).restartTakes = true ∧ o = 0 ∧ (p.reader r).away = true)) : isRestart p r o = false := by
  refine Bool.eq_false_iff.mpr fun restart => notRestart ?_
  simp only [isRestart, Bool.and_eq_true, beq_iff_eq] at restart
  exact ⟨restart.1.1, restart.1.2, restart.2⟩

theorem readerRead_of_holding {p : Part} {r : ReaderId} {o : Nat} (holding : (p.reader r).state = .holding)
    (notRestart : isRestart p r o = false) (e n : Nat) : readerRead r e o n p = holdRead r e o n p := by
  unfold readerRead
  rw [holding]
  dsimp only
  rw [notRestart]
  rfl

/-- The context of a reader as a hold read leaves it (R75). -/
def Part.heldOn (p : Part) (r : ReaderId) (o : Nat) : ReaderCtx :=
  { p.reader r with
    lease := .running ((p.readerSettings r).lease * 250), away := (p.reader r).away || decide (o ≠ 0) }

def Part.withReader (p : Part) (r : ReaderId) (c : ReaderCtx) : Part :=
  { p with readers := { p.readers with ctx := p.readers.ctx.set r c } }

theorem withReader_reader (p : Part) (r : ReaderId) (c : ReaderCtx) : (p.withReader r c).reader r = c := by
  simp [Part.withReader, Part.reader]

theorem holdRead_eq (p : Part) (r : ReaderId) (e o n : Nat) :
    holdRead r e o n p = boundRead r e o n (p.withReader r (p.heldOn r o)) := by
  have away : (o != 0) = decide (o ≠ 0) := by by_cases zero : o = 0 <;> simp [zero]
  unfold holdRead
  rw [away]
  rfl

theorem holdRead_taken (p : Part) (r : ReaderId) (e o n : Nat) (v : Entry) :
    holdRead r e o n (p.taken e v) = boundRead r e o n ((p.withReader r (p.heldOn r o)).taken e v) :=
  holdRead_eq (p.taken e v) r e o n

/-- A change of a reader that leaves what it holds leaves its held record. -/
theorem heldRecord_withReader {p : Part} {r : ReaderId} {c : ReaderCtx} (same : c.held = (p.reader r).held) :
    heldRecord (p.withReader r c) r = heldRecord p r := by
  have after : ((p.withReader r c).reader r).held = (p.reader r).held := by rw [withReader_reader, same]
  unfold heldRecord
  rw [after]
  rfl

theorem checkWindow_of_none {p : Part} (noChange : p.rig.windowChange = none) : checkWindow p = p := by
  unfold checkWindow
  rw [noChange]

/-- Settles O34. -/
theorem holdReadsAreTranslated : Obligations.HoldReadsAreTranslated := by
  constructor
  · intro q r pair e o s running accepts bound holding notRestart held ctx readers answer counted pieces entry translated
    have record : heldRecord (s.hw.withReader r ctx) r = some pair := (heldRecord_withReader (by rfl)).trans held
    have read : readerRead r e o q.length (s.hw.taken e (entryOf q .pair o)) =
        if pair.geom.extent < o + q.length then
          raise .rejected { s.hw.withReader r ctx with req := s.hw.req.answered e answer }
        else if o + q.length = pair.geom.extent then release r true ((s.hw.withReader r ctx).translated q o pair e)
        else (s.hw.withReader r ctx).translated q o pair e := by
      rw [readerRead_of_holding (p := s.hw.taken e (entryOf q .pair o)) holding (not_isRestart notRestart), holdRead_taken]
      exact boundRead_taken (p := s.hw.withReader r ctx) accepts.unused record
    have isHeld : (((s.hw.withReader r ctx).translated q o pair e).reader r).held = some pair.asHeld :=
      held_of_heldRecord record
    have freed : ((s.hw.withReader r ctx).translated q o pair e).onReader r ReaderCtx.released =
        translated.withReader r (s.hw.reader r).released :=
      congrArg (fun u => ({ translated with readers := Part.readers u } : Part))
        (onReader_onReader s.hw r (fun _ => ctx) ReaderCtx.released)
    have ends (last : o + q.length = pair.geom.extent) : readerRead r e o q.length (s.hw.taken e (entryOf q .pair o)) =
        evaluateRetirement (onHolders pair.asHeld (· - 1) (checkWindow (latchReaderIfPosted r
          (translated.withReader r (s.hw.reader r).released)))) := by
      rw [read, if_neg (by omega), if_pos last, release_of_held isHeld, freed]
    refine ⟨fun beyond => ?_, fun inside => ?_, fun last => ?_, fun last quiet noChange older newer queue first => ?_⟩
    · refine exec_boundRead running accepts bound ?_
      rw [read, if_pos beyond]
      rfl
    · refine exec_boundRead running accepts bound ?_
      rw [read, if_neg (by omega), if_neg (by omega)]
      rfl
    · exact exec_boundRead running accepts bound (ends last)
    · intro idle
      refine exec_boundRead running accepts bound ((ends last).trans ?_)
      rw [latchReaderIfPosted_of_not (p := translated.withReader r (s.hw.reader r).released) quiet,
        checkWindow_of_none (p := translated.withReader r (s.hw.reader r).released) noChange]
      exact congrArg evaluateRetirement (onHolders_of_split _ queue first)
  · intro p pair e source addr o n positive inside lb frame eye line index slot place gap pieces
    have isEye (i : Nat) : eye i = (pairPlace p pair (o + i)).eye := by
      simp only [eye, frame, lb, pairPlace, windowPlace]
      cases p.rig.global.layout with
      | sequential =>
        dsimp only
        split <;> rfl
      | interleaved => rfl
    have isLine (i : Nat) : line i = (pairPlace p pair (o + i)).line := by
      simp only [line, frame, lb, pairPlace, windowPlace]
      cases p.rig.global.layout with
      | sequential =>
        dsimp only
        split <;> rfl
      | interleaved => rfl
    have isIndex (x : Eye) : index x = pair.slotOf x := by cases x <;> rfl
    have isGap (i : Nat) : gap i ↔ inBandGap p pair (o + i) = true := by
      refine Iff.trans ?_ (bandGap_iff _ _).symm
      rw [← isEye, ← isLine, ← isIndex]
    have noGap (i : Nat) : ¬gap i ↔ inBandGap p pair (o + i) = false := by rw [isGap, Bool.not_eq_true]
    have isPlace (i : Nat) : place i = pairAddress p pair (o + i) := by
      unfold pairAddress Part.slotBase
      dsimp only
      rw [← isEye, ← isLine, ← isIndex]
      unfold pairPlace
      rw [windowPlace_byte]
    refine ⟨fun i within clear => ?_, fun k isPiece => ?_, readPieces_rising positive, by simp [readFill],
      fun i within isIn => readFill_gap addr within ((isGap i).mp isIn), fun damaged => if_pos damaged,
      fun undamaged ⟨i, within, isIn⟩ => ?_, fun undamaged clear => ?_⟩
    · obtain ⟨k, isPiece, covers⟩ := readPieces_cover positive e source within ((noGap i).mp clear)
      rw [← isEye, ← isIndex, ← isPlace] at covers
      exact ⟨k, isPiece, covers⟩
    · obtain ⟨at0, role, nonempty, whole, starts, ends, inLine, clear, rest⟩ := readPieces_shape positive isPiece
      rw [← isEye, ← isIndex] at role
      exact ⟨at0, role, nonempty, whole, starts, ends, inLine, fun i after before => (noGap i).mpr (clear i after before), rest⟩
    · have filled : readHasFill p pair o n = true := (readHasFill_iff positive).mpr ⟨i, within, (isGap i).mp isIn⟩
      unfold readCode
      rw [undamaged, filled]
      rfl
    · have unfilled : readHasFill p pair o n = false := by
        refine Bool.eq_false_iff.mpr fun filled => ?_
        obtain ⟨i, within, isIn⟩ := (readHasFill_iff positive).mp filled
        exact clear i within ((isGap i).mpr isIn)
      unfold readCode
      rw [undamaged, unfilled]
      rfl

end Sys2Proof.Machine

/-! SUPPORT. Takes (R58, R70, R73). -/

namespace Sys2Proof.Machine

/-! ### A held record does not retire (R59) -/

theorem retires_of_held {p : Part} {k : PairRecord} (held : 0 < k.holders) (newer : List PairRecord) : retires p k newer = false := by
  have busy : (k.holders == 0) = false := beq_false_of_ne (by omega)
  unfold retires
  rw [busy, Bool.and_false, Bool.false_and]

theorem find?_staying {p : Part} {test : PairRecord → Bool} {k : PairRecord} (held : 0 < k.holders) {l : List PairRecord}
    (found : l.find? test = some k) : (staying p l).find? test = some k := by
  induction l with
  | nil => cases found
  | cons a as ih =>
    unfold staying
    cases here : test a with
    | true =>
      rw [List.find?_cons_of_pos here] at found
      cases found
      rw [if_neg (by rw [retires_of_held held]; decide), List.find?_cons_of_pos here]
    | false =>
      rw [List.find?_cons_of_neg (by rw [here]; decide)] at found
      split
      · exact ih found
      · rw [List.find?_cons_of_neg (by rw [here]; decide), ih found]

theorem find?_of_split {test : PairRecord → Bool} {older newer : List PairRecord} {k : PairRecord}
    (before : ∀ a ∈ older, test a = false) (here : test k = true) : (older ++ k :: newer).find? test = some k := by
  rw [List.find?_append, List.find?_eq_none.mpr fun a listed => by rw [before a listed]; decide, List.find?_cons_of_pos here]
  rfl

/-! ### The take -/

/-- The context of a reader that has taken a pair (R73). -/
def Part.holding (p : Part) (r : ReaderId) (k : PairRecord) : ReaderCtx :=
  { state := .holding, held := some k.asHeld, lastTaken := k.number, away := false,
    lease := .running ((p.readerSettings r).lease * 250) }

/-- The pair with one holder more (R58). -/
def PairRecord.raised (k : PairRecord) : PairRecord := { k with holders := k.holders + 1 }

theorem acceptTake_of_split {p : Part} {older newer : List PairRecord} {k : PairRecord} (r : ReaderId)
    (queue : p.pairs.queue = older ++ k :: newer) (first : ∀ a ∈ older, a.asHeld ≠ k.asHeld) :
    acceptTake r k p = evaluateRetirement (evaluatePrdy { p with
      pairs := { p.pairs with queue := older ++ k.raised :: newer }
      readers := { p.readers with ctx := p.readers.ctx.set r (p.holding r k) } }) := by
  unfold acceptTake
  dsimp only
  rw [onHolders_of_split (· + 1) queue first]
  rfl

theorem evaluatePrdy_arrival (p : Part) : p.ArrivalKeeps (evaluatePrdy p) := by
  obtain ⟨prdy, judged⟩ := evaluatePrdy_cases p
  rw [judged]
  exact ⟨rfl, rfl, rfl, rfl, rfl⟩

theorem acceptTake_arrival (r : ReaderId) (k : PairRecord) (p : Part) : p.ArrivalKeeps (acceptTake r k p) := by
  refine .trans ?_ ((evaluatePrdy_arrival _).trans (evaluateRetirement_arrival _))
  exact ⟨rfl, rfl, rfl, rfl, rfl⟩

/-- A take changes the pairs, the slots and the taker alone. -/
theorem acceptTake_frame (r : ReaderId) (k : PairRecord) (p : Part) : ∃ pairs slots, acceptTake r k p =
    { p.withReader r (p.holding r k) with pairs := pairs, slots := slots } := by
  obtain ⟨prdy, judged⟩ := evaluatePrdy_cases ((onHolders k.asHeld (· + 1) p).withReader r (p.holding r k))
  have began : acceptTake r k p = evaluateRetirement (evaluatePrdy ((onHolders k.asHeld (· + 1) p).withReader r (p.holding r k))) :=
    rfl
  rw [began, judged, evaluateRetirement_frame]
  exact ⟨_, _, rfl⟩

theorem acceptTake_reader (r : ReaderId) (k : PairRecord) (p : Part) : (acceptTake r k p).reader r = p.holding r k := by
  obtain ⟨pairs, slots, taken⟩ := acceptTake_frame r k p
  rw [taken]
  exact withReader_reader p r _

theorem evaluateRetirement_queue (p : Part) : (evaluateRetirement p).pairs.queue = staying p p.pairs.queue := by
  obtain ⟨prdy, after⟩ := evaluateRetirement_cases p
  rw [after]

theorem evaluatePrdy_queue (p : Part) : (evaluatePrdy p).pairs.queue = p.pairs.queue := by
  obtain ⟨prdy, judged⟩ := evaluatePrdy_cases p
  rw [judged]

/-- The reader's record is the pair it has taken (R73). -/
theorem acceptTake_heldRecord {p : Part} {older newer : List PairRecord} {k : PairRecord} (r : ReaderId)
    (queue : p.pairs.queue = older ++ k :: newer) (first : ∀ a ∈ older, a.asHeld ≠ k.asHeld) :
    heldRecord (acceptTake r k p) r = some k.raised := by
  have found : (older ++ k.raised :: newer).find? (PairRecord.isHeld k.asHeld) = some k.raised :=
    find?_of_split (fun a listed => beq_false_of_ne (first a listed)) ((isHeld_iff _ _).mpr rfl)
  have isHeld : ((acceptTake r k p).reader r).held = some k.asHeld := by rw [acceptTake_reader]; rfl
  unfold heldRecord
  rw [isHeld]
  dsimp only
  rw [acceptTake_of_split r queue first, evaluateRetirement_queue, evaluatePrdy_queue]
  exact find?_staying (Nat.succ_pos k.holders) found

theorem attemptTake_of_taken {r : ReaderId} {p p1 : Part} {k : PairRecord} (chosen : choosePair r p = (p1, some k))
    (noticed : takeNotice k.number k.take p1 = some k) : attemptTake r p = (acceptTake r k p1, true) := by
  unfold attemptTake
  rw [chosen]
  dsimp only
  rw [noticed]

theorem takeRead_of_taken {r : ReaderId} {p p1 : Part} {k : PairRecord} (e o n : Nat) (chosen : choosePair r p = (p1, some k))
    (noticed : takeNotice k.number k.take p1 = some k) : takeRead r e o n p = takenRead r e o n (acceptTake r k p1) := by
  unfold takeRead
  rw [attemptTake_of_taken chosen noticed]

theorem takenRead_of_held {r : ReaderId} {p : Part} {k : PairRecord} (held : heldRecord p r = some k) (e o n : Nat) :
    takenRead r e o n p = boundRead r e o n
      (if o + n ≤ k.geom.extent then p.withReader r { p.reader r with away := decide (o ≠ 0) } else p) := by
  have away : (o != 0) = decide (o ≠ 0) := by by_cases zero : o = 0 <;> simp [zero]
  unfold takenRead
  rw [held, away]
  dsimp only
  by_cases inside : o + n ≤ k.geom.extent
  · rw [if_pos (decide_eq_true inside), if_pos inside]
    rfl
  · rw [if_neg (by rw [decide_eq_false inside]; decide), if_neg inside]

/-- Settles O35. -/
theorem takeReadsHoldThePair : Obligations.TakeReadsHoldThePair := by
  intro q r pair older newer e o s p p1 running accepts bound handed before chosen noticed queue first raised holding away idle
    taken refusal pieces entry translated
  have isBefore : s.hw.BeforeTake r o (s.hw.taken e (entryOf q .pair o)) p := before
  have kept_p1 : (s.hw.taken e (entryOf q .pair o)).ArrivalKeeps p1 := by
    have choice := choosePair_arrival r p
    rw [chosen] at choice
    exact isBefore.arrival.trans choice
  have settings : (p1.readerSettings r).lease = (s.hw.readerSettings r).lease :=
    congrArg ReaderSettings.lease (kept_p1.readerSettings r)
  have isHolding : p1.holding r pair = holding := by
    unfold Part.holding
    rw [settings]
    rfl
  have isTaken : acceptTake r pair p1 = taken := by
    rw [acceptTake_of_split r queue first, isHolding]
    rfl
  have kept : (s.hw.taken e (entryOf q .pair o)).ArrivalKeeps taken := isTaken ▸ kept_p1.trans (acceptTake_arrival r pair p1)
  have record : heldRecord taken r = some raised := isTaken ▸ acceptTake_heldRecord r queue first
  have isReader : taken.reader r = holding := by rw [← isTaken, acceptTake_reader, isHolding]
  have read : readerRead r e o q.length (s.hw.taken e (entryOf q .pair o)) = takenRead r e o q.length taken := by
    rw [readerRead_of_before isBefore, takeRead_of_taken e o q.length chosen noticed, isTaken]
  clear_value taken
  let free : Part := { taken with req := s.hw.req }
  have unused : unusedEntry free = some e := accepts.unused
  have isFree : taken = free.taken e (entryOf q .pair o) := kept.is_taken
  have refusalData : free.fillFor q = s.hw.fillFor q := by
    unfold Part.fillFor
    rw [show free.rig.global.fill = s.hw.rig.global.fill from kept.fill]
  have away_record : heldRecord (free.withReader r away) r = some raised := by
    have sameHeld : ((free.withReader r away).reader r).held = (taken.reader r).held := by
      rw [withReader_reader, isReader]
    rw [← record]
    unfold heldRecord
    rw [sameHeld]
    rfl
  have inside (within : o + q.length ≤ pair.geom.extent) : takenRead r e o q.length taken =
      if o + q.length = pair.geom.extent then release r true (translated away) else translated away := by
    have start : taken.withReader r away = (free.withReader r away).taken e (entryOf q .pair o) :=
      congrArg (Part.withReader · r away) isFree
    rw [takenRead_of_held record, if_pos (show o + q.length ≤ raised.geom.extent from within), isReader]
    refine (congrArg (boundRead r e o q.length) start).trans ?_
    exact (boundRead_taken (p := free.withReader r away) unused away_record).trans
      (if_neg (show ¬pair.geom.extent < o + q.length by omega))
  refine ⟨fun beyond => ?_, fun within => ?_, fun last => ?_⟩
  · intro counted
    refine exec_boundRead running accepts bound (read.trans ?_)
    rw [takenRead_of_held record, if_neg (show ¬o + q.length ≤ raised.geom.extent from Nat.not_le.mpr beyond)]
    refine (congrArg (boundRead r e o q.length) isFree).trans ?_
    refine ((boundRead_taken (p := free) unused record).trans (if_pos beyond)).trans ?_
    rw [refusalData]
    rfl
  · refine exec_boundRead running accepts bound (read.trans ?_)
    rw [inside (by omega), if_neg (by omega)]
  · intro released
    refine exec_boundRead running accepts bound (read.trans ?_)
    have isHeld : ((translated away).reader r).held = some pair.asHeld := congrArg ReaderCtx.held (withReader_reader taken r away)
    have freed : (translated away).onReader r ReaderCtx.released = translated idle :=
      congrArg (fun u => ({ translated away with readers := Part.readers u } : Part))
        (onReader_onReader taken r (fun _ => away) ReaderCtx.released)
    rw [inside (by omega), if_pos last, release_of_held isHeld, freed]

end Sys2Proof.Machine

/-! SUPPORT. Announcements to parked readers (R82, R83). -/

namespace Sys2Proof.Machine

/-! ### The order of the readers -/

theorem eraseDups_filter (test : ReaderId → Bool) (l : List ReaderId) : (l.filter test).eraseDups = l.eraseDups.filter test := by
  match l with
  | [] => rfl
  | r :: rs =>
    have others := eraseDups_filter test (rs.filter fun k => !k == r)
    rw [List.eraseDups_cons]
    by_cases here : test r = true
    · rw [List.filter_cons_of_pos here, List.filter_cons_of_pos here, List.eraseDups_cons, ← others, List.filter_filter,
        List.filter_filter]
      simp only [Bool.and_comm]
    · have same : (rs.filter fun k => !k == r).filter test = rs.filter test := by
        rw [List.filter_filter]
        refine List.filter_congr fun k _ => ?_
        by_cases is_r : k = r
        · rw [is_r, Bool.eq_false_iff.mpr here, Bool.false_and]
        · simp [is_r]
      rw [List.filter_cons_of_neg here, List.filter_cons_of_neg here, ← others, same]
termination_by l.length
decreasing_by
  exact Nat.lt_succ_of_le (List.length_filter_le _ _)

theorem firstOccurrences_eq (l : List ReaderId) : firstOccurrences l = l.eraseDups := by
  induction l with
  | nil => rfl
  | cons r rs ih =>
    rw [List.eraseDups_cons, eraseDups_filter, ← ih]
    rfl

/-- The readers with parked reads, in the order of each one's oldest (R82). -/
theorem parkedReaders_eq (p : Part) : parkedReaders p = (p.readers.parkList.map (·.reader)).eraseDups := firstOccurrences_eq _

theorem mem_parkedReaders {p : Part} {r : ReaderId} (listed : r ∈ parkedReaders p) : ∃ k ∈ p.readers.parkList, k.reader = r := by
  rw [parkedReaders_eq, List.mem_eraseDups] at listed
  exact List.mem_map.mp listed

theorem foldl_fixed {α β : Type} {f : β → α → β} {l : List α} {b : β} (fixed : ∀ a ∈ l, f b a = b) : l.foldl f b = b := by
  induction l with
  | nil => rfl
  | cons a as ih =>
    obtain ⟨here, rest⟩ := List.forall_mem_cons.mp fixed
    rw [List.foldl_cons, here]
    exact ih rest

/-! ### One reader's attempt -/

theorem attemptParked_of_not {p : Part} {r : ReaderId} (other : (p.reader r).state ≠ .parked) : attemptParked r p = p := if_neg other

theorem attemptParked_of_failed {p p1 : Part} {r : ReaderId} (parked : (p.reader r).state = .parked)
    (failed : choosePair r p = (p1, none) ∨ ∃ k, choosePair r p = (p1, some k) ∧ takeNotice k.number k.take p1 = none) :
    attemptParked r p = p1 := by
  unfold attemptParked
  rw [if_pos parked, attemptTake_of_failed failed]

/-- A choice whose notice reaches a record: the take succeeds with that record (R58, R73). -/
def Part.Takes (p p1 : Part) (r : ReaderId) (k : PairRecord) : Prop :=
  ∃ q, choosePair r p = (p1, some q) ∧ takeNotice q.number q.take p1 = some k

theorem Part.Takes.attempt {p p1 : Part} {r : ReaderId} {k : PairRecord} (takes : p.Takes p1 r k) :
    attemptTake r p = (acceptTake r k p1, true) := by
  obtain ⟨q, chosen, noticed⟩ := takes
  unfold attemptTake
  rw [chosen]
  dsimp only
  rw [noticed]

theorem Part.Takes.arrival {p p1 : Part} {r : ReaderId} {k : PairRecord} (takes : p.Takes p1 r k) : p.ArrivalKeeps p1 := by
  obtain ⟨q, chosen, _⟩ := takes
  have choice := choosePair_arrival r p
  rwa [chosen] at choice

theorem attemptParked_of_taken {p p1 : Part} {r : ReaderId} {k : PairRecord} (parked : (p.reader r).state = .parked)
    (takes : p.Takes p1 r k) :
    attemptParked r p = processParkedReads r (p.readers.parkList.filter fun j => j.reader == r) (acceptTake r k p1) := by
  have list : (acceptTake r k p1).readers.parkList = p.readers.parkList :=
    (acceptTake_arrival r k p1).parkList.trans takes.arrival.parkList
  unfold attemptParked
  rw [if_pos parked, takes.attempt]
  dsimp only
  unfold parkedOf
  rw [list]

theorem processParkedReads_of_busy {p : Part} {r : ReaderId} (busy : (p.reader r).state ≠ .idle) (j : ParkedRead)
    (js : List ParkedRead) : processParkedReads r (j :: js) p =
      processParkedReads r js (readerRead r j.entry j.offset j.length (removeParked j.entry p)) := by
  rw [processParkedReads, if_neg busy]

theorem processParkedReads_of_failed {p p1 : Part} {r : ReaderId} (idle : (p.reader r).state = .idle)
    (failed : choosePair r p = (p1, none) ∨ ∃ k, choosePair r p = (p1, some k) ∧ takeNotice k.number k.take p1 = none)
    (j : ParkedRead) (js : List ParkedRead) : processParkedReads r (j :: js) p = backToParked r p1 := by
  rw [processParkedReads, if_pos idle, attemptTake_of_failed failed]

theorem processParkedReads_of_taken {p p1 : Part} {r : ReaderId} {k : PairRecord} (idle : (p.reader r).state = .idle)
    (takes : p.Takes p1 r k) (j : ParkedRead) (js : List ParkedRead) : processParkedReads r (j :: js) p =
      processParkedReads r js (takenRead r j.entry j.offset j.length (removeParked j.entry (acceptTake r k p1))) := by
  rw [processParkedReads, if_pos idle, takes.attempt]

/-! ### Nobody takes -/

theorem attemptParked_of_none {p : Part} {r : ReaderId} (finds_none : choosePair r p = (p, none)) : attemptParked r p = p := by
  by_cases parked : (p.reader r).state = .parked
  · exact attemptParked_of_failed parked (.inl finds_none)
  · exact attemptParked_of_not parked

theorem announceReady_of_none {p : Part} (finds_none : ∀ k ∈ p.readers.parkList, choosePair k.reader p = (p, none)) :
    announceReady p = p := by
  refine foldl_fixed fun r listed => ?_
  obtain ⟨k, isParked, rfl⟩ := mem_parkedReaders listed
  exact attemptParked_of_none (finds_none k isParked)

theorem announceRemoval_of_none {p : Part}
    (none_takes : ∀ k ∈ p.readers.parkList, (p.readerSettings k.reader).policy = .latest ∨ choosePair k.reader p = (p, none)) :
    announceRemoval p = p := by
  refine foldl_fixed fun r listed => ?_
  obtain ⟨k, isParked, rfl⟩ := mem_parkedReaders listed
  split
  · rename_i every
    rcases none_takes k isParked with latest | finds_none
    · rw [every] at latest
      cases latest
    · exact attemptParked_of_none finds_none
  · rfl

end Sys2Proof.Machine

/-! SUPPORT. A read that reaches its reader, and a pair that becomes READY (R55, R56, R70). -/

namespace Sys2Proof.Machine

/-! ### A read that reaches its reader -/

/-- Entry `e` holds `v`; the part once it has been answered at once with a code (R148, R154). -/
def Part.answeredWith (p : Part) (e : Nat) (v : Entry) (code : Code) : Part :=
  { p with req := { p.req with
    table := p.req.table.set e (some { v with
      state := .returning, outstanding := 0, code := code, data := fillBytes p.rig.global.fill v.addr.toNat v.length })
    returning := p.req.returning ++ [e] } }

theorem answerAtOnce_of_read {p : Part} {e : Nat} {v : Entry} (entry : p.entry e = some v) (read : v.kind = .read) (code : Code) :
    answerAtOnce e code p = p.answeredWith e v code := by
  rw [answerAtOnce_eq _ _ _ _ entry, if_pos read]
  rfl

theorem parkRead_of_entry {p : Part} {e : Nat} {v : Entry} (entry : p.entry e = some v) (r : ReaderId) (o n : Nat) :
    parkRead r e o n p = { p with
      readers :=
        { ctx := p.readers.ctx.set r { p.reader r with state := .parked }
          parkList := p.readers.parkList ++
            [{ entry := e, reader := r, offset := o, length := n,
               timer := .running ((p.readerSettings r).parkLimit * 250) }] }
      req := { p.req with table := p.req.table.set e (some { v with state := .parked }) } } := by
  rw [← modify_entry p e v (fun w => { w with state := .parked }) entry]
  rfl

theorem entry_of_arrival {p q : Part} {e : Nat} {v : Entry} (kept : p.ArrivalKeeps q) (entry : p.entry e = some v) :
    q.entry e = some v := by
  unfold Part.entry at entry ⊢
  rw [kept.req]
  exact entry

/-- A read bound to a held pair, of any entry (R77, R87, R89). -/
theorem boundRead_of_held {p : Part} {r : ReaderId} {k : PairRecord} {e : Nat} {v : Entry} (held : heldRecord p r = some k)
    (entry : p.entry e = some v) (read : v.kind = .read) (o n : Nat) : boundRead r e o n p =
      if k.geom.extent < o + n then raise .rejected (p.answeredWith e v .rejected)
      else if o + n = k.geom.extent then release r true (translateRead k e o n p)
      else translateRead k e o n p := by
  unfold boundRead refuseRead
  rw [held, answerAtOnce_of_read entry read]

theorem PerReader.set_get {α : Type} (p : PerReader α) (r : ReaderId) : p.set r (p.get r) = p := by cases r <;> rfl

theorem withReader_self (p : Part) (r : ReaderId) : p.withReader r (p.reader r) = p :=
  congrArg (fun ctx => ({ p with readers := { p.readers with ctx := ctx } } : Part)) (PerReader.set_get p.readers.ctx r)

end Sys2Proof.Machine

/-! SUPPORT. Which records an evaluation retires, and what that does to their slots (R38, R59, R60). -/

namespace Sys2Proof.Machine

/-! ### The records that go and those that stay -/

theorem staying_sublist (p : Part) (l : List PairRecord) : (staying p l).Sublist l := by
  induction l with
  | nil => exact .slnil
  | cons k ks ih =>
    unfold staying
    split
    · exact ih.cons k
    · exact ih.cons_cons k

theorem retiring_sublist (p : Part) (l : List PairRecord) : (retiring p l).Sublist l := by
  induction l with
  | nil => exact .slnil
  | cons k ks ih =>
    unfold retiring
    split
    · exact ih.cons_cons k
    · exact ih.cons k

/-- Among the records that stay, a record stands by its own judgement (R59). -/
theorem staying_split (p : Part) (older : List PairRecord) (k : PairRecord) (newer : List PairRecord) :
    ∃ before after, staying p (older ++ k :: newer) = before ++ (if retires p k newer = true then after else k :: after) ∧
      before.Sublist older ∧ after.Sublist newer := by
  induction older with
  | nil => exact ⟨[], staying p newer, rfl, .slnil, staying_sublist p newer⟩
  | cons a as ih =>
    obtain ⟨before, after, stays, isOlder, isNewer⟩ := ih
    rw [List.cons_append, staying, stays]
    by_cases goes : retires p a (as ++ k :: newer) = true
    · exact ⟨before, after, if_pos goes, isOlder.cons a, isNewer⟩
    · exact ⟨a :: before, after, if_neg goes, isOlder.cons_cons a, isNewer⟩

theorem retiring_split (p : Part) (older : List PairRecord) (k : PairRecord) (newer : List PairRecord) :
    ∃ before after, retiring p (older ++ k :: newer) = before ++ (if retires p k newer = true then k :: after else after) ∧
      before.Sublist older ∧ after.Sublist newer := by
  induction older with
  | nil => exact ⟨[], retiring p newer, rfl, .slnil, retiring_sublist p newer⟩
  | cons a as ih =>
    obtain ⟨before, after, goes, isOlder, isNewer⟩ := ih
    rw [List.cons_append, retiring, goes]
    by_cases first : retires p a (as ++ k :: newer) = true
    · exact ⟨a :: before, after, if_pos first, isOlder.cons_cons a, isNewer⟩
    · exact ⟨before, after, if_neg first, isOlder.cons a, isNewer⟩

theorem mem_staying_of_kept {p : Part} {older newer : List PairRecord} {k : PairRecord} (kept : retires p k newer = false) :
    k ∈ staying p (older ++ k :: newer) := by
  obtain ⟨before, after, stays, _, _⟩ := staying_split p older k newer
  rw [stays, kept]
  exact List.mem_append_right _ List.mem_cons_self

/-- What retires, in the words of R59 and R60. -/
theorem retires_iff (p : Part) (k : PairRecord) (newer : List PairRecord) : retires p k newer = true ↔
    k.state = .ready ∧ k.holders = 0 ∧ (k.stale = true ∨ ((∃ a ∈ newer, a.state = .ready) ∧
      ∀ r, (p.readerSettings r).enabled = true → (p.reader r).state ≠ .unbound → (p.readerSettings r).policy = .every →
        k.number ≤ (p.reader r).lastTaken)) := by
  have passed : everyPassed p k.number = true ↔ ∀ r, (p.readerSettings r).enabled = true → (p.reader r).state ≠ .unbound →
      (p.readerSettings r).policy = .every → k.number ≤ (p.reader r).lastTaken := by
    unfold everyPassed
    rw [List.all_eq_true]
    refine ⟨fun all r enabled bound every => ?_, fun all r _ => ?_⟩
    · have here := all r (mem_allReaders r)
      simpa [enabled, bound, every] using here
    · by_cases counts : (p.readerSettings r).enabled = true ∧ (p.reader r).state ≠ .unbound ∧ (p.readerSettings r).policy = .every
      · obtain ⟨enabled, bound, every⟩ := counts
        simp [all r enabled bound every]
      · have none_of : ((p.readerSettings r).enabled && (p.reader r).state != .unbound && (p.readerSettings r).policy == .every) = false := by
          refine Bool.eq_false_iff.mpr fun isCounted => counts ?_
          simp only [Bool.and_eq_true, bne_iff_ne, beq_iff_eq] at isCounted
          exact ⟨isCounted.1.1, isCounted.1.2, isCounted.2⟩
        rw [none_of]
        rfl
  simp only [retires, PairRecord.isCurrent, Bool.and_eq_true, Bool.or_eq_true, Bool.not_not, beq_iff_eq, passed, List.any_eq_true,
    and_assoc]
  simp only [and_comm]

/-- A current record with no READY record behind it stays, and so does a held one and a FORMING one (R59, R60). -/
theorem retires_of_kept {p : Part} {k : PairRecord} {newer : List PairRecord}
    (kept : (k.stale = false ∧ ∀ a ∈ newer, a.state ≠ .ready) ∨ k.holders ≠ 0 ∨ k.state = .forming) : retires p k newer = false := by
  refine Bool.eq_false_iff.mpr fun goes => ?_
  obtain ⟨ready, unheld, stale | ⟨⟨a, listed, isReady⟩, _⟩⟩ := (retires_iff p k newer).mp goes
  all_goals rcases kept with ⟨current, newest⟩ | held | forming
  · rw [current] at stale
    cases stale
  · exact held unheld
  · rw [ready] at forming
    cases forming
  · exact newest a listed isReady
  · exact held unheld
  · rw [ready] at forming
    cases forming

/-! ### The slots of records that go -/

/-- A change that leaves a FREE record as it is: the slot's record is changed, and no other (notes/assumptions on indices). -/
theorem slot_onSlot_eq {f : SlotRecord → SlotRecord} (fixed : f SlotRecord.free = SlotRecord.free) (p : Part) (x y : Eye) (i j : Nat) :
    (p.onSlot x i f).slot y j = if x = y ∧ i = j then f (p.slot y j) else p.slot y j := by
  unfold Part.slot
  rw [Part.onSlot_slots, PerEye.get_set]
  by_cases eye : x = y
  · subst eye
    rw [if_pos rfl, List.getD_eq_getElem?_getD, List.getD_eq_getElem?_getD, List.getElem?_modify]
    by_cases index : i = j
    · subst index
      rw [if_pos ⟨rfl, rfl⟩]
      cases (p.slots.get x)[i]? with
      | none => exact fixed.symm
      | some r => simp
    · rw [if_neg (fun both => index both.2)]
      cases (p.slots.get x)[j]? with
      | none => rfl
      | some r => simp [index]
  · rw [if_neg eye, if_neg (fun both => eye both.1)]

theorem retireSlots_slot (p : Part) (k : PairRecord) (x : Eye) (i : Nat) :
    (retireSlots p k).slot x i = if k.slotOf x = i then (p.slot x i).retire else p.slot x i := by
  unfold retireSlots
  rw [slot_onSlot_eq rfl, slot_onSlot_eq rfl]
  cases x <;> simp only [true_and, reduceCtorEq, false_and, if_false] <;> rfl

/-- A slot that none of the records names is left as it is. -/
theorem foldl_retireSlots_slot_of_other {l : List PairRecord} {x : Eye} {i : Nat} (other : ∀ k ∈ l, k.slotOf x ≠ i) (p : Part) :
    (l.foldl retireSlots p).slot x i = p.slot x i := by
  induction l generalizing p with
  | nil => rfl
  | cons k ks ih =>
    obtain ⟨here, rest⟩ := List.forall_mem_cons.mp other
    rw [List.foldl_cons, ih rest, retireSlots_slot, if_neg here]

theorem evaluateRetirement_slot (p : Part) (x : Eye) (i : Nat) :
    (evaluateRetirement p).slot x i = ((retiring p p.pairs.queue).foldl retireSlots p).slot x i := by
  unfold Part.slot
  rw [evaluateRetirement_slots]

/-- A record that stays keeps a slot that it alone names. -/
theorem evaluateRetirement_slot_of_kept {p : Part} {older newer : List PairRecord} {k : PairRecord} {x : Eye}
    (queue : p.pairs.queue = older ++ k :: newer) (alone : ∀ a ∈ older ++ newer, a.slotOf x ≠ k.slotOf x)
    (kept : retires p k newer = false) : (evaluateRetirement p).slot x (k.slotOf x) = p.slot x (k.slotOf x) := by
  obtain ⟨before, after, goes, isOlder, isNewer⟩ := retiring_split p older k newer
  rw [evaluateRetirement_slot, queue, goes, kept]
  refine foldl_retireSlots_slot_of_other (fun a listed => alone a ?_) p
  exact List.mem_append.mpr ((List.mem_append.mp listed).imp isOlder.mem isNewer.mem)

/-- A record that goes retires a slot that it alone names (R38). -/
theorem evaluateRetirement_slot_of_gone {p : Part} {older newer : List PairRecord} {k : PairRecord} {x : Eye}
    (queue : p.pairs.queue = older ++ k :: newer) (alone : ∀ a ∈ older ++ newer, a.slotOf x ≠ k.slotOf x)
    (gone : retires p k newer = true) : (evaluateRetirement p).slot x (k.slotOf x) = (p.slot x (k.slotOf x)).retire := by
  obtain ⟨before, after, goes, isOlder, isNewer⟩ := retiring_split p older k newer
  rw [evaluateRetirement_slot, queue, goes, gone, if_pos rfl, List.foldl_append, List.foldl_cons,
    foldl_retireSlots_slot_of_other fun a listed => alone a (List.mem_append_right _ (isNewer.mem listed)), retireSlots_slot,
    if_pos rfl, foldl_retireSlots_slot_of_other fun a listed => alone a (List.mem_append_left _ (isOlder.mem listed))]

/-- Settles O38. -/
theorem newestAndHeldPairsStay : Obligations.NewestAndHeldPairsStay := by
  intro p older newer q queue
  refine ⟨fun kept => ?_, fun alone ready unheld reason left right => ?_⟩
  · rw [evaluateRetirement_queue, queue]
    exact mem_staying_of_kept (retires_of_kept kept)
  · intro t
    have gone : retires p q newer = true := (retires_iff p q newer).mpr ⟨ready, unheld, reason⟩
    have members : t.pairs.queue.Sublist p.pairs.queue := by
      rw [evaluateRetirement_queue]
      exact staying_sublist p _
    have drained {r : SlotRecord} (paired : r.state = .paired) :
        r.retire = SlotRecord.freeIfDrained { r with state := .draining } := if_pos paired
    have slot (x : Eye) := evaluateRetirement_slot_of_gone (x := x) queue (fun a listed => by
      cases x with
      | left => exact (alone a listed).1
      | right => exact (alone a listed).2) gone
    refine ⟨?_, (slot .left).trans (drained left), (slot .right).trans (drained right), fun k listed => members.mem listed,
      evaluateRetirement_sync p, evaluateRetirement_streams p, evaluateRetirement_readers p, evaluateRetirement_req p,
      evaluateRetirement_txn p, evaluateRetirement_skew p, evaluateRetirement_rig p, evaluateRetirement_report p⟩
    obtain ⟨before, after, stays, isOlder, isNewer⟩ := staying_split p older q newer
    rw [evaluateRetirement_queue, queue, stays, gone, if_pos rfl]
    intro listed
    exact (alone q (List.mem_append.mpr ((List.mem_append.mp listed).imp isOlder.mem isNewer.mem))).1 rfl

end Sys2Proof.Machine

/-! SUPPORT. Completed pairs become READY, and the readers are told (R55, R56, R62, R82, R83). -/

namespace Sys2Proof.Machine

/-! ### Readiness -/

theorem prdyOnReady_cases (p : Part) :
    ∃ prdy pulse, prdyOnReady p = { p with pairs := { p.pairs with prdy := prdy, prdyPulse := pulse } } := by
  unfold prdyOnReady
  split
  · exact ⟨p.pairs.prdy, p.pairs.prdyPulse, rfl⟩
  · exact ⟨true, .running Config.prdyPulseTicks, rfl⟩
  · obtain ⟨prdy, judged⟩ := evaluatePrdy_cases p
    exact ⟨prdy, p.pairs.prdyPulse, judged⟩

theorem pairReadyEvents_onlyReports (k : PairRecord) (p : Part) : p.OnlyReports (pairReadyEvents k p) := by
  have recorded : p.OnlyReports (raise .pairsFormed (queueRecord (k.readyStamp.getD 0) k.take
      (.pairReady k.damage k.number k.leftFrame k.rightFrame k.linkSkew k.leftSlot k.rightSlot) p)) :=
    (queueRecord_onlyReports ..).trans rfl
  unfold pairReadyEvents
  dsimp only
  split
  · exact recorded.trans (setFlag_onlyReports _ _)
  · exact recorded

/-- The record READY and both its slots PAIRED, before the readers are told (R55 steps 1 to 3). -/
def Part.madeReady (p : Part) (older : List PairRecord) (k : PairRecord) (newer : List PairRecord) : Part :=
  { p with
    pairs := { p.pairs with queue := older ++ readyRecord p k :: newer }
    slots := (p.slots.set .left ((p.slots.get .left).modify k.leftSlot SlotRecord.makePaired)).set .right
      ((p.slots.get .right).modify k.rightSlot SlotRecord.makePaired) }

theorem recordOf_of_split {p : Part} {x : Eye} {i : Nat} {older newer : List PairRecord} {k : PairRecord}
    (queue : p.pairs.queue = older ++ k :: newer) (before : ∀ a ∈ older, a.slotOf x ≠ i) (names : k.slotOf x = i) :
    recordOf p x i = some k := by
  unfold recordOf
  rw [queue]
  exact find?_of_split (fun a listed => beq_false_of_ne (before a listed)) (beq_iff_eq.mpr names)

/-- Both slots of a FORMING record COMPLETE: the record becomes READY (R55). -/
theorem slotCompleted_of_whole {p : Part} {x : Eye} {i : Nat} {older newer : List PairRecord} {k : PairRecord}
    (queue : p.pairs.queue = older ++ k :: newer) (before : ∀ a ∈ older, a.slotOf x ≠ i) (names : k.slotOf x = i)
    (whole : k.state = .forming ∧ (p.slot .left k.leftSlot).state = .complete ∧ (p.slot .right k.rightSlot).state = .complete) :
    slotCompleted x i p =
      let told := pairReadyEvents (readyRecord p k) (p.madeReady older k newer)
      evaluateRetirement (if k.stale = true then told else prdyOnReady (announceReady told)) := by
  have others : ∀ a ∈ older, (a == k) = false := fun a listed => beq_false_of_ne fun same => before a listed (same ▸ names)
  have changed := updateFirst_append (newer := newer) (fun _ => readyRecord p k) others (beq_self_eq_true k)
  have made : ((p.onPairs fun m => { m with queue := updateFirst (fun r => r == k) (fun _ => readyRecord p k) m.queue }).onSlot .left
      k.leftSlot SlotRecord.makePaired).onSlot .right k.rightSlot SlotRecord.makePaired = p.madeReady older k newer := by
    unfold Part.onPairs
    dsimp only
    rw [queue, changed]
    rfl
  unfold slotCompleted
  rw [recordOf_of_split queue before names]
  dsimp only
  rw [if_pos whole]
  unfold makeReady
  dsimp only
  rw [made]
  unfold PairRecord.isCurrent readyRecord
  dsimp only
  cases k.stale <;> rfl

theorem slotCompleted_of_not_whole {p : Part} {x : Eye} {i : Nat} {k : PairRecord} (record : recordOf p x i = some k)
    (notWhole : ¬(k.state = .forming ∧ (p.slot .left k.leftSlot).state = .complete ∧
      (p.slot .right k.rightSlot).state = .complete)) : slotCompleted x i p = p := by
  unfold slotCompleted
  rw [record]
  exact if_neg notWhole

theorem slotCompleted_of_no_record {p : Part} {x : Eye} {i : Nat} (nobody : ∀ k ∈ p.pairs.queue, k.slotOf x ≠ i) :
    slotCompleted x i p = p := by
  have record : recordOf p x i = none := List.find?_eq_none.mpr fun k listed => by simpa using nobody k listed
  unfold slotCompleted
  rw [record]

theorem madeReady_slot {p : Part} {older newer : List PairRecord} {k : PairRecord} (x : Eye)
    (complete : (p.slot x (k.slotOf x)).state = .complete) :
    (p.madeReady older k newer).slot x (k.slotOf x) = { p.slot x (k.slotOf x) with state := .paired } := by
  have paired : (p.slot x (k.slotOf x)).makePaired = { p.slot x (k.slotOf x) with state := .paired } := if_pos complete
  have after : (p.madeReady older k newer).slot x (k.slotOf x) =
      ((p.onSlot .left k.leftSlot SlotRecord.makePaired).onSlot .right k.rightSlot SlotRecord.makePaired).slot x (k.slotOf x) := rfl
  rw [after, slot_onSlot_eq rfl, slot_onSlot_eq rfl, ← paired]
  cases x <;> simp [PairRecord.slotOf]

/-- What is recorded of a pair that has become READY (R56, R184). -/
theorem pairReadyEvents_report (k : PairRecord) (p : Part) :
    (p.report.counters.length = 20 → (pairReadyEvents k p).count .pairsFormed = p.count .pairsFormed + 1) ∧
    (k.damage.any = true → (pairReadyEvents k p).report.flags.getLsbD EventFlag.pairDamaged.bit = true) ∧
    (p.report.queue.length < 16 → (pairReadyEvents k p).report.queue = p.report.queue ++
      [{ seq := p.report.seq, stamp := k.readyStamp.getD 0, take := k.take,
         body := .pairReady k.damage k.number k.leftFrame k.rightFrame k.linkSkew k.leftSlot k.rightSlot }]) := by
  let body : RecordBody := .pairReady k.damage k.number k.leftFrame k.rightFrame k.linkSkew k.leftSlot k.rightSlot
  let counted := raise .pairsFormed (queueRecord (k.readyStamp.getD 0) k.take body p)
  have told : pairReadyEvents k p = if k.damage.any then setFlag .pairDamaged counted else counted := rfl
  have count : p.report.counters.length = 20 → counted.count .pairsFormed = p.count .pairsFormed + 1 := fun sized => by
    rw [raise_count _ _ _ ((queueRecord_length ..).trans sized), if_pos rfl, queueRecord_count _ _ _ _ _ sized (by decide)]
  have queue (room : p.report.queue.length < 16) : counted.report.queue = p.report.queue ++
      [{ seq := p.report.seq, stamp := k.readyStamp.getD 0, take := k.take, body := body }] :=
    congrArg (fun u : Part => u.report.queue) (queueRecord_room _ _ body p room)
  cases damaged : k.damage.any with
  | false =>
    rw [told, if_neg (by rw [damaged]; decide)]
    exact ⟨count, fun impossible => absurd impossible (by decide), queue⟩
  | true =>
    rw [told, if_pos damaged, setFlag_queue, count_of_counters (setFlag_counters _ _), setFlag_getLsbD]
    exact ⟨count, fun _ => by simp, queue⟩

/-! ### An announcement that a parked read is served by -/

theorem processParkedReads_nil (r : ReaderId) (p : Part) : processParkedReads r [] p = p := rfl

/-- A translation changes the slots, the requests and the transactions alone. -/
theorem translateRead_frame (k : PairRecord) (e o n : Nat) (p : Part) :
    ∃ slots req txn, translateRead k e o n p = { p with slots := slots, req := req, txn := txn } := by
  cases entry : p.entry e with
  | none =>
    unfold translateRead
    rw [entry]
    exact ⟨_, _, _, rfl⟩
  | some v => exact ⟨_, _, _, translateRead_eq k o n entry⟩

/-- The entry of a translated read waits for its results or is given back (R87). -/
theorem translateRead_entry {p : Part} {e : Nat} {v : Entry} (k : PairRecord) (o n : Nat) (entry : p.entry e = some v) :
    ∃ w, (translateRead k e o n p).entry e = some w ∧ w.ttag = v.ttag ∧ w.source = v.source ∧ w.state ≠ .parked := by
  rw [translateRead_eq k o n entry]
  dsimp only
  unfold Part.entry
  rw [List.getD_eq_getElem?_getD, List.getElem?_set_self (entry_lt entry)]
  refine ⟨_, rfl, rfl, rfl, ?_⟩
  dsimp only
  split <;> decide

theorem withReader_reader_of_other {p : Part} {r k : ReaderId} (c : ReaderCtx) (other : k ≠ r) :
    (p.withReader r c).reader k = p.reader k := by
  simp [Part.withReader, Part.reader, Ne.symm other]

theorem boundRead_inside {p : Part} {r : ReaderId} {k : PairRecord} {o n : Nat} (held : heldRecord p r = some k)
    (inside : o + n < k.geom.extent) (e : Nat) : boundRead r e o n p = translateRead k e o n p := by
  unfold boundRead
  rw [held]
  dsimp only
  rw [if_neg (by omega), if_neg (by omega)]

/-- What the announcement leaves to a reader that alone has a parked read, which it takes a pair for (R82). -/
structure Part.Served (p t : Part) (r : ReaderId) (j : ParkedRead) (q : PairRecord) (v : Entry) : Prop where
  reader : t.reader r = { p.holding r q with away := decide (j.offset ≠ 0) }
  parkList : t.readers.parkList = []
  queue : q.raised ∈ t.pairs.queue
  others : ∀ k, k ≠ r → t.reader k = p.reader k
  entry : ∃ w, t.entry j.entry = some w ∧ w.ttag = v.ttag ∧ w.source = v.source ∧ w.state ≠ .parked
  streams : t.streams = p.streams
  rig : t.rig = p.rig
  skew : t.skew = p.skew

theorem attemptParked_serves {p : Part} {r : ReaderId} {j : ParkedRead} {q : PairRecord} {v : Entry}
    (alone : p.readers.parkList = [j]) (mine : j.reader = r) (parked : (p.reader r).state = .parked)
    (chosen : choosePair r p = (p, some q)) (noticed : takeNotice q.number q.take p = some q)
    (first : p.pairs.queue.find? (fun k => k.asHeld == q.asHeld) = some q) (inside : j.offset + j.length < q.geom.extent)
    (entry : p.entry j.entry = some v) : p.Served (attemptParked r p) r j q v := by
  obtain ⟨_, older, newer, queue, before⟩ := List.find?_eq_some_iff_append.mp first
  have before : ∀ k ∈ older, k.asHeld ≠ q.asHeld := fun k listed => by simpa using before k listed
  have takes : p.Takes p r q := ⟨q, chosen, noticed⟩
  let taken := removeParked j.entry (acceptTake r q p)
  have kept : p.ArrivalKeeps (acceptTake r q p) := acceptTake_arrival r q p
  have reader : taken.reader r = p.holding r q := acceptTake_reader r q p
  have record : heldRecord taken r = some q.raised := acceptTake_heldRecord r queue before
  have takenEntry : taken.entry j.entry = some v := (entry_of_arrival kept entry :)
  have ctx : taken.heldOn r j.offset = { p.holding r q with away := decide (j.offset ≠ 0) } := by
    have settings : taken.readerSettings r = p.readerSettings r := kept.readerSettings r
    unfold Part.heldOn
    rw [settings, reader]
    rfl
  let start := taken.withReader r { p.holding r q with away := decide (j.offset ≠ 0) }
  have startEntry : start.entry j.entry = some v := takenEntry
  have served : attemptParked r p = translateRead q.raised j.entry j.offset j.length start := by
    have isHolding : (taken.reader r).state = .holding := congrArg ReaderCtx.state reader
    have notRestart : isRestart taken r j.offset = false := not_isRestart fun both => by
      rw [reader] at both
      exact Bool.false_ne_true both.2.2
    have busy : ((acceptTake r q p).reader r).state ≠ .idle := by
      rw [show ((acceptTake r q p).reader r).state = .holding from isHolding]
      decide
    have heldToo : heldRecord start r = some q.raised := by
      rw [heldRecord_withReader (by rw [reader]), record]
    rw [attemptParked_of_taken parked takes, alone, List.filter_cons_of_pos (by rw [mine]; exact beq_self_eq_true r),
      List.filter_nil, processParkedReads_of_busy busy, processParkedReads_nil]
    refine (readerRead_of_holding isHolding notRestart j.entry j.length).trans ?_
    rw [holdRead_eq, ctx]
    exact boundRead_inside heldToo inside j.entry
  obtain ⟨pairs, slots, isTaken⟩ := acceptTake_frame r q p
  have same_streams : (acceptTake r q p).streams = p.streams := by rw [isTaken]; rfl
  have same_rig : (acceptTake r q p).rig = p.rig := by rw [isTaken]; rfl
  have same_skew : (acceptTake r q p).skew = p.skew := by rw [isTaken]; rfl
  have lists : taken.readers.parkList = [] := by
    change (acceptTake r q p).readers.parkList.filter _ = []
    rw [kept.parkList, alone, List.filter_cons_of_neg (by simp), List.filter_nil]
  have isQueued : q.raised ∈ taken.pairs.queue := by
    unfold heldRecord at record
    rw [reader] at record
    exact List.mem_of_find?_eq_some record
  have others (k : ReaderId) (other : k ≠ r) : start.reader k = p.reader k := by
    rw [withReader_reader_of_other _ other]
    change (acceptTake r q p).reader k = _
    rw [isTaken]
    exact withReader_reader_of_other _ other
  obtain ⟨w, pieceEntry, sameTag, sameSource, notParked⟩ := translateRead_entry q.raised j.offset j.length startEntry
  obtain ⟨slots, req, txn, isTranslated⟩ := translateRead_frame q.raised j.entry j.offset j.length start
  rw [served]
  refine ⟨?_, ?_, ?_, fun k other => ?_, ⟨w, pieceEntry, sameTag, sameSource, notParked⟩, ?_, ?_, ?_⟩
  · rw [isTranslated]
    exact withReader_reader taken r _
  · rw [isTranslated]
    exact lists
  · rw [isTranslated]
    exact isQueued
  · rw [isTranslated]
    exact others k other
  · rw [isTranslated]
    exact same_streams
  · rw [isTranslated]
    exact same_rig
  · rw [isTranslated]
    exact same_skew

end Sys2Proof.Machine

/-! SUPPORT. What a completed slot and an announcement bring about, put together (R55, R62, R70, R82, R83). -/

namespace Sys2Proof.Machine

theorem announceReady_of_no_parked {p : Part} (nobody : p.readers.parkList = []) : announceReady p = p :=
  announceReady_of_none fun k listed => by rw [nobody] at listed; cases listed

/-- The newest current record that becomes READY with no read parked (R55). -/
theorem newest_becomes_ready {p : Part} {x : Eye} {i : Nat} {older : List PairRecord} {q : PairRecord}
    (queue : p.pairs.queue = older ++ [q]) (alone : ∀ k ∈ older, k.leftSlot ≠ q.leftSlot ∧ k.rightSlot ≠ q.rightSlot)
    (names : q.slotOf x = i) (forming : q.state = .forming) (current : q.stale = false)
    (left : (p.slot .left q.leftSlot).state = .complete) (right : (p.slot .right q.rightSlot).state = .complete)
    (nobody : p.readers.parkList = []) :
    let told := pairReadyEvents (readyRecord p q) (p.madeReady older q [])
    ∃ prdy pulse, slotCompleted x i p = evaluateRetirement { told with
        pairs := { p.pairs with queue := older ++ [readyRecord p q], prdy := prdy, prdyPulse := pulse } } ∧
      ∀ y, (slotCompleted x i p).slot y (q.slotOf y) = { p.slot y (q.slotOf y) with state := .paired } := by
  intro told
  have only : (p.madeReady older q []).OnlyReports told := pairReadyEvents_onlyReports _ _
  have others (y : Eye) : ∀ k ∈ older, k.slotOf y ≠ q.slotOf y := fun k listed => by
    cases y with
    | left => exact (alone k listed).1
    | right => exact (alone k listed).2
  have noReads : told.readers.parkList = [] := by
    rw [only]
    exact nobody
  have completed := slotCompleted_of_whole queue (fun k listed => names ▸ others x k listed) names ⟨forming, left, right⟩
  have pairs : told.pairs = { p.pairs with queue := older ++ [readyRecord p q] } := by rw [only]; rfl
  obtain ⟨prdy, pulse, driven⟩ := prdyOnReady_cases told
  rw [pairs] at driven
  have judged : slotCompleted x i p = evaluateRetirement { told with
      pairs := { p.pairs with queue := older ++ [readyRecord p q], prdy := prdy, prdyPulse := pulse } } := by
    rw [completed]
    dsimp only
    rw [current, if_neg (by decide), announceReady_of_no_parked noReads, driven]
  refine ⟨prdy, pulse, judged, fun y => ?_⟩
  rw [judged]
  have stays := evaluateRetirement_slot_of_kept (x := y) (k := readyRecord p q) (older := older) (newer := [])
    (p := { told with pairs := { p.pairs with queue := older ++ [readyRecord p q], prdy := prdy, prdyPulse := pulse } }) rfl
    (fun k listed => by
      rw [List.append_nil] at listed
      exact others y k listed)
    (retires_of_kept (.inl ⟨current, fun k impossible => by cases impossible⟩))
  refine (show (evaluateRetirement _).slot y (q.slotOf y) = _ from stays).trans ?_
  have complete : (p.slot y (q.slotOf y)).state = .complete := by
    cases y with
    | left => exact left
    | right => exact right
  rw [← madeReady_slot (older := older) (newer := []) y complete]
  unfold Part.slot
  rw [only]
  rfl

theorem served_announceReady {p t : Part} {r : ReaderId} {j : ParkedRead} (alone : p.readers.parkList = [j]) (mine : j.reader = r)
    (after : attemptParked r p = t) : announceReady p = t := by
  unfold announceReady
  rw [parkedReaders_eq, alone]
  subst mine
  exact after

theorem served_announceRemoval {p : Part} {r : ReaderId} {j : ParkedRead} (alone : p.readers.parkList = [j]) (mine : j.reader = r)
    (every : (p.readerSettings r).policy = .every) : announceRemoval p = attemptParked r p := by
  unfold announceRemoval
  rw [parkedReaders_eq, alone]
  subst mine
  exact if_pos every

/-! ### A read that reaches its reader, by the reader's state (R70) -/

theorem readerRead_of_unbound {p : Part} {r : ReaderId} (unbound : (p.reader r).state = .unbound) (e o n : Nat) :
    readerRead r e o n p = refuseRead e p := by
  unfold readerRead
  rw [unbound]

theorem readerRead_of_idle {p : Part} {r : ReaderId} (idle : (p.reader r).state = .idle) (e o n : Nat) :
    readerRead r e o n p = takeRead r e o n p := by
  unfold readerRead
  rw [idle]

theorem readerRead_of_restart {p : Part} {r : ReaderId} {o : Nat} (holding : (p.reader r).state = .holding)
    (restart : (p.readerSettings r).restartTakes = true ∧ o = 0 ∧ (p.reader r).away = true) (e n : Nat) :
    readerRead r e o n p = takeRead r e o n (release r false p) := by
  obtain ⟨restarts, rfl, away⟩ := restart
  have isARestart : isRestart p r 0 = true := by
    unfold isRestart
    rw [restarts, away]
    rfl
  unfold readerRead
  rw [holding]
  dsimp only
  rw [if_pos isARestart]

theorem failedTake_iff (r : ReaderId) (e o n : Nat) (p : Part) : failedTake r e o n p =
    if (p.readerSettings r).waitMode = .park ∧ p.readers.parkList.length < 8 then parkRead r e o n p
    else latchReaderIfPosted r (answerNoPair e p) := by
  unfold failedTake
  refine if_congr ?_ rfl rfl
  rw [Bool.and_eq_true, decide_eq_true_iff, parkRoom_iff]

/-- The part once the read has been translated, refused or translated with the hold released (R77, R87, R89). -/
theorem boundRead_withReader {p : Part} {r : ReaderId} {k : PairRecord} {e : Nat} {v : Entry} {c : ReaderCtx}
    (held : heldRecord (p.withReader r c) r = some k) (entry : p.entry e = some v) (read : v.kind = .read) (o n : Nat) :
    boundRead r e o n (p.withReader r c) =
      if k.geom.extent < o + n then raise .rejected ((p.answeredWith e v .rejected).withReader r c)
      else if o + n = k.geom.extent then release r true ((translateRead k e o n p).withReader r c)
      else (translateRead k e o n p).withReader r c := by
  have sameEntry : (p.withReader r c).entry e = some v := entry
  have translated : translateRead k e o n (p.withReader r c) = (translateRead k e o n p).withReader r c := by
    rw [translateRead_eq k o n sameEntry, translateRead_eq k o n entry]
    rfl
  rw [boundRead_of_held held sameEntry read, translated]
  rfl

/-- Settles O37. -/
theorem completedPairsBecomeReady : Obligations.CompletedPairsBecomeReady := by
  refine ⟨?_, ?_, ?_, ?_, ?_, ?_, ?_, ?_, ?_, ?_, ?_⟩
  · intro p x i older q queue alone names forming current left right nobody sized damage t
    obtain ⟨prdy, pulse, judged, slots⟩ := newest_becomes_ready queue alone names forming current left right nobody
    obtain ⟨count, flag, record⟩ := pairReadyEvents_report (readyRecord p q) (p.madeReady older q [])
    have only := pairReadyEvents_onlyReports (readyRecord p q) (p.madeReady older q [])
    generalize pairReadyEvents (readyRecord p q) (p.madeReady older q []) = told at *
    replace judged : t = _ := judged
    have report : t.report = told.report := (congrArg Part.report judged).trans (evaluateRetirement_report _)
    have member : readyRecord p q ∈ t.pairs.queue := by
      rw [judged, evaluateRetirement_queue]
      exact mem_staying_of_kept (retires_of_kept (.inl ⟨current, fun k impossible => by cases impossible⟩))
    have streams : t.streams = p.streams := by rw [judged, evaluateRetirement_streams, only]; rfl
    have readers : t.readers = p.readers := by rw [judged, evaluateRetirement_readers, only]; rfl
    have rig : t.rig = p.rig := by rw [judged, evaluateRetirement_rig, only]; rfl
    have req : t.req = p.req := by rw [judged, evaluateRetirement_req, only]; rfl
    have txn : t.txn = p.txn := by rw [judged, evaluateRetirement_txn, only]; rfl
    have skew : t.skew = p.skew := by rw [judged, evaluateRetirement_skew, only]; rfl
    refine ⟨member, slots .left, slots .right, ?_, ?_, ?_, streams, readers, rig, req, txn, skew⟩
    · rw [count_of_counters (congrArg ReportUnit.counters report), count sized]
      rfl
    · rw [report]
      exact flag
    · rw [report]
      exact record
  · intro p x i older newer q queue before names whole damage paired made counted told
    refine ⟨slotCompleted_of_whole queue before names, slotCompleted_of_not_whole (recordOf_of_split queue before names)⟩
  · exact fun p x i nobody => slotCompleted_of_no_record nobody
  · intro p r k q v alone mine parked chosen noticed first inside entry served
    have serves := attemptParked_serves alone mine parked chosen noticed first inside entry
    have given : served (attemptParked r p) := ⟨serves.reader, serves.parkList, serves.queue, serves.others, serves.entry,
      serves.streams, serves.rig, serves.skew⟩
    refine ⟨?_, fun every => ?_, fun latest => announceRemoval_of_none fun j listed => ?_⟩
    · rw [served_announceReady alone mine rfl]
      exact given
    · rw [served_announceRemoval alone mine every]
      exact given
    · rw [alone] at listed
      rw [List.mem_singleton.mp listed, mine]
      exact .inl latest
  · exact fun p finds_none => ⟨announceReady_of_none finds_none, announceRemoval_of_none fun k listed => .inr (finds_none k listed)⟩
  · exact fun p latest => announceRemoval_of_none fun k listed => .inl (latest k listed)
  · intro p order
    unfold announceReady announceRemoval
    rw [parkedReaders_eq]
    exact ⟨rfl, rfl⟩
  · intro r p fails takes inState
    exact ⟨attemptParked_of_not, fun parked p1 => attemptParked_of_failed parked, fun parked p1 k => attemptParked_of_taken parked,
      rfl, fun j js => ⟨fun busy => processParkedReads_of_busy busy j js,
        fun idle p1 failed => processParkedReads_of_failed idle failed j js,
        fun idle p1 k taken => processParkedReads_of_taken idle taken j js⟩⟩
  · intro r e o n v p entry read holding answered parked restart
    refine ⟨fun unbound => ?_, fun isParked => ?_, fun idle => readerRead_of_idle idle e o n,
      fun isHolding restarts => readerRead_of_restart isHolding restarts e n, fun p1 k takes => ?_, fun p1 failed => ?_,
      fun pair held => ?_⟩
    · rw [readerRead_of_unbound unbound, refuseRead, answerAtOnce_of_read entry read]
      rfl
    · rw [readerRead_of_parked isParked]
      refine if_congr (parkRoom_iff p) (parkRead_of_entry entry r o n) (answerAtOnce_of_read entry read .noPair)
    · have attempt := Part.Takes.attempt takes
      unfold takeRead
      rw [attempt]
    · have kept : p.ArrivalKeeps p1 := by
        have choice := choosePair_arrival r p
        rcases failed with finds_none | ⟨q, chosen, _⟩
        · rwa [finds_none] at choice
        · rwa [chosen] at choice
      have entry1 := entry_of_arrival kept entry
      rw [takeRead_of_failed failed, failedTake_iff, parkRead_of_entry entry1, answerNoPair, answerAtOnce_of_read entry1 read]
      rfl
    · intro pieces entryAfter translated bound
      have isTranslated : translateRead pair e o n p = translated := translateRead_eq pair o n entry
      constructor
      · intro isHolding notRestart
        rw [readerRead_of_holding isHolding (not_isRestart notRestart), holdRead_eq,
          boundRead_withReader (by rw [heldRecord_withReader (by rfl), held]) entry read, isTranslated]
        rfl
      · have start : (if o + n ≤ pair.geom.extent then p.withReader r { p.reader r with away := decide (o ≠ 0) } else p) =
            p.withReader r (if o + n ≤ pair.geom.extent then { p.reader r with away := decide (o ≠ 0) } else p.reader r) := by
          split
          · rfl
          · exact (withReader_self p r).symm
        rw [takenRead_of_held held, start,
          boundRead_withReader (by rw [heldRecord_withReader (by split <;> rfl), held]) entry read, isTranslated]
        rfl
  · exact fun r k p => rfl
  · exact fun q r e o s running accepts bound => exec_boundRead running accepts bound rfl

end Sys2Proof.Machine

/-! SUPPORT. The PRDY line (R63 to R65). -/

namespace Sys2Proof.Machine

/-! ### An evaluation of PRDY (R64) -/

theorem prdyLevel_iff (p : Part) : prdyLevel p = true ↔
    ∃ k ∈ p.pairs.queue, k.stale = false ∧ k.state = .ready ∧ (p.reader p.rig.global.prdyReader).lastTaken < k.number := by
  simp [prdyLevel, PairRecord.isCurrent, and_assoc]

theorem evaluatePrdy_of_level {p : Part} (level : p.rig.global.prdyMode = .level) :
    evaluatePrdy p = { p with pairs := { p.pairs with prdy := prdyLevel p } } := if_pos level

theorem evaluatePrdy_of_not_level {p : Part} (other : p.rig.global.prdyMode ≠ .level) : evaluatePrdy p = p := if_neg other

theorem prdyOnReady_of_pulse {p : Part} (pulse : p.rig.global.prdyMode = .pulse) :
    prdyOnReady p = { p with pairs := { p.pairs with prdy := true, prdyPulse := .running 250 } } := by
  unfold prdyOnReady
  rw [pulse]
  rfl

/-- Outside LEVEL a retirement leaves PRDY as it is, and in any mode the pulse (R63, R64). -/
theorem evaluateRetirement_prdy (p : Part) : (evaluateRetirement p).pairs.prdyPulse = p.pairs.prdyPulse ∧
    (p.rig.global.prdyMode ≠ .level → (evaluateRetirement p).pairs.prdy = p.pairs.prdy) := by
  have given := foldl_retireSlots_pairs (retiring p p.pairs.queue) (p.onPairs fun m => { m with queue := staying p m.queue })
  have rig := foldl_retireSlots_rig (retiring p p.pairs.queue) (p.onPairs fun m => { m with queue := staying p m.queue })
  constructor
  · obtain ⟨prdy, after⟩ := evaluateRetirement_cases p
    rw [after]
  · intro other
    unfold evaluateRetirement
    dsimp only
    split
    · rw [given]
      rfl
    · rw [evaluatePrdy_of_not_level (by rw [rig]; exact other), given]
      rfl

/-- No announcement, release or retirement changes the PRDY mode. -/
theorem prdyModeFree (mode : PrdyMode) : FreeMoves fun p => p.rig.global.prdyMode = mode where
  pairs _ _ _ _ h := h
  prdy _ h := by simpa using h
  ready p h := by
    obtain ⟨prdy, pulse, driven⟩ := prdyOnReady_cases p
    rw [driven]
    exact h
  slots _ _ _ h := h
  ctx _ _ h := h
  park _ _ _ h := h
  table _ _ _ h := h
  returning _ _ h := h
  issue _ _ h := h
  count _ _ _ h := h
  record _ _ _ _ h := by simpa using h
  flag _ _ h := by simpa using h
  post _ _ _ h := h
  readerSettings _ _ _ _ h := h
  window _ _ _ h := h

/-- In PULSE the readiness of a current record asserts PRDY, whatever the readers then do; that of a stale one leaves it (R63). -/
theorem slotCompleted_pulse {p : Part} {x : Eye} {i : Nat} {older newer : List PairRecord} {k : PairRecord}
    (queue : p.pairs.queue = older ++ k :: newer) (before : ∀ a ∈ older, a.slotOf x ≠ i) (names : k.slotOf x = i)
    (whole : k.state = .forming ∧ (p.slot .left k.leftSlot).state = .complete ∧ (p.slot .right k.rightSlot).state = .complete)
    (pulse : p.rig.global.prdyMode = .pulse) :
    (k.stale = false → (slotCompleted x i p).pairs.prdy = true ∧ (slotCompleted x i p).pairs.prdyPulse = .running 250) ∧
    (k.stale = true → (slotCompleted x i p).pairs.prdy = p.pairs.prdy ∧
      (slotCompleted x i p).pairs.prdyPulse = p.pairs.prdyPulse) := by
  have completed := slotCompleted_of_whole queue before names whole
  have only := pairReadyEvents_onlyReports (readyRecord p k) (p.madeReady older k newer)
  dsimp only at completed
  generalize pairReadyEvents (readyRecord p k) (p.madeReady older k newer) = told at completed only
  have mode : told.rig.global.prdyMode = .pulse := by
    rw [only]
    exact pulse
  rw [completed]
  constructor
  · intro current
    have announced := (prdyModeFree .pulse).moves.announceReady told mode
    rw [current, if_neg (by decide), prdyOnReady_of_pulse announced]
    obtain ⟨samePulse, samePrdy⟩ := evaluateRetirement_prdy
      { announceReady told with pairs := { (announceReady told).pairs with prdy := true, prdyPulse := .running 250 } }
    exact ⟨samePrdy (by rw [announced]; decide), samePulse⟩
  · intro stale
    obtain ⟨samePulse, samePrdy⟩ := evaluateRetirement_prdy told
    have pairs : told.pairs = { p.pairs with queue := older ++ readyRecord p k :: newer } := by rw [only]; rfl
    rw [if_pos stale, samePulse, samePrdy (by rw [mode]; decide), pairs]
    exact ⟨rfl, rfl⟩

/-! ### A GLOBAL latch (R65) -/

/-- PRDY as a GLOBAL latch with mode `mode` leaves it, the mode having been `before` (R64, R65). -/
structure Part.PrdyLatched (p t : Part) (g : GlobalSettings) : Prop where
  mode : t.rig.global.prdyMode = g.prdyMode
  reader : t.rig.global.prdyReader = g.prdyReader
  ends : g.prdyMode ≠ p.rig.global.prdyMode → t.pairs.prdyPulse = .stopped
  clears : g.prdyMode ≠ p.rig.global.prdyMode → g.prdyMode ≠ .level → t.pairs.prdy = false
  level : g.prdyMode = .level → (t.pairs.prdy = true ↔
    ∃ k ∈ t.pairs.queue, k.stale = false ∧ k.state = .ready ∧ (t.reader g.prdyReader).lastTaken < k.number)
  stays : g.prdyMode = p.rig.global.prdyMode → g.prdyMode ≠ .level →
    t.pairs.prdy = p.pairs.prdy ∧ t.pairs.prdyPulse = p.pairs.prdyPulse

theorem takeChange_eq (old : Word) (p : Part) : takeChange old p =
    queueRecordNow (.takeChange old p.take) (evaluatePrdy (p.takeChanged (evaluateRetirement p.staled).pairs.prdy)) := by
  obtain ⟨level, retired⟩ := evaluateRetirement_cases p.staled
  rw [show staying p.staled p.staled.pairs.queue = p.stayingStale from staying_of_stale p.staled p.pairs.queue] at retired
  have prdy : (evaluateRetirement p.staled).pairs.prdy = level := by rw [retired]
  unfold takeChange
  rw [show (p.onPairs fun m => { m with queue := m.queue.map fun r => { r with stale := true } }) = p.staled from rfl, prdy, retired]
  rfl

theorem takeChange_prdy (old : Word) (p : Part) :
    (takeChange old p).rig = p.rig ∧ (takeChange old p).pairs.prdyPulse = p.pairs.prdyPulse ∧
      (p.rig.global.prdyMode ≠ .level → (takeChange old p).pairs.prdy = p.pairs.prdy) := by
  refine ⟨?_, ?_, fun other => ?_⟩
  · obtain ⟨prdy, changed⟩ := takeChange_cases old p
    rw [changed]
    rfl
  · obtain ⟨prdy, changed⟩ := takeChange_cases old p
    rw [changed]
    rfl
  · have retired := (evaluateRetirement_prdy p.staled).2 other
    rw [takeChange_eq, queueRecordNow, queueRecord_eq,
      evaluatePrdy_of_not_level (p := p.takeChanged (evaluateRetirement p.staled).pairs.prdy) other]
    exact retired

theorem closeLatch_frame (old new : GlobalSettings) (p : Part) :
    ∃ report, evaluateAlert (reportOnLatch old new p) = { p with report := report } := by
  unfold evaluateAlert reportOnLatch
  split <;> exact ⟨_, rfl⟩

/-- The PRDY line once the latch has evaluated it, the part `p` holding the new settings (R64, R65). -/
theorem prdyOnLatch_spec (old : GlobalSettings) (p : Part) :
    let t := prdyOnLatch old p.rig.global p
    (p.rig.global.prdyMode ≠ old.prdyMode → t.pairs.prdyPulse = .stopped) ∧
    (p.rig.global.prdyMode ≠ old.prdyMode → p.rig.global.prdyMode ≠ .level → t.pairs.prdy = false) ∧
    (p.rig.global.prdyMode = .level → (t.pairs.prdy = true ↔
      ∃ k ∈ t.pairs.queue, k.stale = false ∧ k.state = .ready ∧ (t.reader p.rig.global.prdyReader).lastTaken < k.number)) ∧
    (p.rig.global.prdyMode = old.prdyMode → p.rig.global.prdyMode ≠ .level →
      t.pairs.prdy = p.pairs.prdy ∧ t.pairs.prdyPulse = p.pairs.prdyPulse) := by
  intro t
  let cleared := p.onPairs fun m => { m with prdy := false, prdyPulse := .stopped }
  by_cases same : old.prdyMode = p.rig.global.prdyMode
  · have judged : t = evaluatePrdy p := if_pos same
    refine ⟨fun other => absurd same.symm other, fun other => absurd same.symm other, fun level => ?_, fun _ other => ?_⟩
    · rw [judged, evaluatePrdy_of_level level]
      exact prdyLevel_iff p
    · rw [judged, evaluatePrdy_of_not_level other]
      exact ⟨rfl, rfl⟩
  · have judged : t = evaluatePrdy cleared := if_neg same
    obtain ⟨prdy, level⟩ := evaluatePrdy_cases cleared
    refine ⟨fun _ => ?_, fun _ other => ?_, fun level => ?_, fun again => absurd again.symm same⟩
    · rw [judged, level]
      rfl
    · rw [judged, evaluatePrdy_of_not_level (p := cleared) other]
      rfl
    · rw [judged, evaluatePrdy_of_level (p := cleared) level]
      exact prdyLevel_iff cleared

theorem latchGlobal_prdy {p : Part} {g : GlobalSettings} (passes : validateGlobal p (p.staged .global) = .ok g) :
    p.PrdyLatched (latchGlobal true p) g := by
  let began := if true = true ∧ p.rig.global.take ≠ (p.withGlobal g).take then takeChange p.rig.global.take (p.withGlobal g)
    else p.withGlobal g
  have latched : latchGlobal true p = evaluateAlert (reportOnLatch p.rig.global (p.withGlobal g).rig.global
      (prdyOnLatch p.rig.global (p.withGlobal g).rig.global began)) := latchGlobal_of_ok true passes
  have mode : (p.withGlobal g).rig.global.prdyMode = g.prdyMode := congrArg (·.prdyMode) (latchedGlobal_eq p g)
  have reader : (p.withGlobal g).rig.global.prdyReader = g.prdyReader := congrArg (·.prdyReader) (latchedGlobal_eq p g)
  obtain ⟨rig, pulse, prdy⟩ : began.rig = (p.withGlobal g).rig ∧ began.pairs.prdyPulse = p.pairs.prdyPulse ∧
      (g.prdyMode ≠ .level → began.pairs.prdy = p.pairs.prdy) := by
    obtain ⟨rig, pulse, prdy⟩ := takeChange_prdy p.rig.global.take (p.withGlobal g)
    rw [mode] at prdy
    by_cases changes : true = true ∧ p.rig.global.take ≠ (p.withGlobal g).take
    · have isBegun : began = takeChange p.rig.global.take (p.withGlobal g) := if_pos changes
      rw [isBegun]
      exact ⟨rig, pulse, prdy⟩
    · have isBegun : began = p.withGlobal g := if_neg changes
      rw [isBegun]
      exact ⟨rfl, rfl, fun _ => rfl⟩
  clear_value began
  have spec := prdyOnLatch_spec p.rig.global began
  obtain ⟨report, closed⟩ := closeLatch_frame p.rig.global began.rig.global (prdyOnLatch p.rig.global began.rig.global began)
  obtain ⟨_, _, driven⟩ := prdyOnLatch_cases p.rig.global began.rig.global began
  have sameRig : (latchGlobal true p).rig = (p.withGlobal g).rig := by
    rw [latched, ← rig, closed, driven]
  rw [← rig, closed] at latched
  rw [← rig] at mode reader
  dsimp only at spec
  rw [mode, reader] at spec
  obtain ⟨ends, clears, level, stays⟩ := spec
  refine ⟨by rw [sameRig, ← rig, mode], by rw [sameRig, ← rig, reader], ?_, ?_, ?_, fun same other => ?_⟩
  · rw [latched]
    exact ends
  · rw [latched]
    exact clears
  · rw [latched]
    exact level
  · rw [latched]
    obtain ⟨samePrdy, samePulse⟩ := stays same other
    exact ⟨samePrdy.trans (prdy other), samePulse.trans pulse⟩

/-- Settles O39. -/
theorem prdyFollowsItsMode : Obligations.PrdyFollowsItsMode := by
  refine ⟨fun p level => ?_, fun p => ⟨?_, evaluatePrdy_of_not_level, fun off => ?_, prdyOnReady_of_pulse, fun level => ?_⟩,
    ?_, ?_, ?_⟩
  · rw [evaluatePrdy_of_level level]
    exact prdyLevel_iff p
  · obtain ⟨prdy, judged⟩ := evaluatePrdy_cases p
    rw [judged]
  · unfold prdyOnReady
    rw [off]
  · unfold prdyOnReady
    rw [level]
  · intro p x i older q queue alone names forming left right pulse t
    refine slotCompleted_pulse queue (fun k listed => ?_) names ⟨forming, left, right⟩ pulse
    rw [← names]
    cases x with
    | left => exact (alone k listed).1
    | right => exact (alone k listed).2
  · intro s r running pulse q
    refine whenRunning_eq running ?_
    unfold prdyPulseEnd onExpiry
    rw [pulse]
    rfl
  · intro q e o g s running accepts write whole state only words right valid before
    obtain ⟨a, t, staged, last, step⟩ := exec_matchingCheckWord running accepts write whole state only right
    have passes := (congrArg (validateGlobal s.hw) staged).trans valid
    have latched := latchGlobal_prdy (p := s.hw.handed q e a) passes
    exact ⟨_, step, latched.mode, latched.reader, latched.ends, latched.clears, latched.level, latched.stays⟩

end Sys2Proof.Machine

/-! SUPPORT. Releases and the readers' timers (R76, R79, R81, R91). -/

namespace Sys2Proof.Machine

/-! ### Releases and the window -/

theorem checkWindow_of_busy {p : Part} (busy : anyBusy p = true) : checkWindow p = p := by
  unfold checkWindow
  split
  · rfl
  · exact if_pos busy

theorem checkWindow_of_idle {p : Part} {w : WindowChange} (waits : p.rig.windowChange = some w) (idle : ¬anyBusy p = true) :
    checkWindow p = { p with rig := { p.rig with
      global := { p.rig.global with windowBase := w.base, layout := w.layout }, windowChange := none } } := by
  unfold checkWindow
  rw [waits]
  exact if_neg idle

/-- A release in full (R79; notes/assumptions/20.md). -/
theorem release_eq {p : Part} {r : ReaderId} {h : HeldPair} (latch : Bool) (held : (p.reader r).held = some h) :
    release r latch p = evaluateRetirement (onHolders h (· - 1) (checkWindow
      (if latch = true ∧ p.post (.reader r) = .posted then latchReader r (p.withReader r (p.reader r).released)
        else p.withReader r (p.reader r).released))) := by
  unfold release
  rw [held]
  cases latch with
  | false => rfl
  | true =>
    have post : latchReaderIfPosted r (p.withReader r (p.reader r).released) =
        if true = true ∧ p.post (.reader r) = .posted then latchReader r (p.withReader r (p.reader r).released)
        else p.withReader r (p.reader r).released := by
      unfold latchReaderIfPosted
      exact if_congr ⟨fun posted => ⟨rfl, posted⟩, And.right⟩ rfl rfl
    exact congrArg (fun u => evaluateRetirement (onHolders h (· - 1) (checkWindow u))) post

theorem release_of_none {p : Part} {r : ReaderId} (latch : Bool) (none_held : (p.reader r).held = none) :
    release r latch p = p := by
  unfold release
  rw [none_held]

theorem asHeld_iff (k : PairRecord) (h : HeldPair) :
    k.asHeld = h ↔ k.number = h.number ∧ k.take = h.take ∧ k.leftSlot = h.leftSlot := by
  cases h
  simp [PairRecord.asHeld]

theorem updateFirst_of_none {α : Type} {test : α → Bool} {l : List α} (f : α → α) (nobody : ∀ a ∈ l, test a = false) :
    updateFirst test f l = l := by
  induction l with
  | nil => rfl
  | cons a as ih =>
    obtain ⟨other, rest⟩ := List.forall_mem_cons.mp nobody
    exact (if_neg (by rw [other]; decide)).trans (congrArg (a :: ·) (ih rest))

theorem onHolders_of_none {p : Part} {h : HeldPair} (f : Nat → Nat) (nobody : ∀ k ∈ p.pairs.queue, k.asHeld ≠ h) :
    onHolders h f p = p := by
  have same := updateFirst_of_none (test := PairRecord.isHeld h) (fun k => { k with holders := f k.holders })
    (fun k listed => beq_false_of_ne (nobody k listed))
  unfold onHolders Part.onPairs
  dsimp only
  rw [same]

/-- Neither the clock nor the take number moves with a release. -/
theorem release_clock (r : ReaderId) (latch : Bool) (p : Part) :
    (release r latch p).now = p.now ∧ (release r latch p).take = p.take := by
  obtain ⟨sync, take⟩ := (clockFree p.sync p.take).moves.release p r latch ⟨rfl, rfl⟩
  refine ⟨?_, take⟩
  unfold Part.now
  rw [sync]

/-! ### The lease (R76) -/

/-- The part once the lease of `reader`, which held `h`, has lapsed (R76). -/
def Part.leaseLapsed (p : Part) (reader : ReaderId) (h : HeldPair) : Part :=
  queueRecord p.now p.take (.readerEvent .leaseLapsed reader Damage.none h.number h.take 0)
    (setFlag .readerLapsed (release reader true p))

theorem exec_leaseExpiry {reader : ReaderId} {h : HeldPair} {s : State} {r : Nat} (running : s.hw.resetAsserted = false)
    (lease : (s.hw.reader reader).lease = .running r) (held : (s.hw.reader reader).held = some h) :
    exec (.leaseExpiry reader) s = .next { s with hw := markChanged s.hw ((passTime r s.hw).leaseLapsed reader h) } := by
  refine whenRunning_eq running ?_
  have still : ((passTime r s.hw).reader reader).held = some h := by rw [passTime_reader r s.hw reader running, held]
  obtain ⟨now_same, take_same⟩ := release_clock reader true (passTime r s.hw)
  have only := setFlag_onlyReports .readerLapsed (release reader true (passTime r s.hw))
  unfold leaseExpiry onExpiry
  rw [lease]
  dsimp only
  unfold leaseLapses queueRecordNow
  rw [still]
  dsimp only
  rw [only.now, only.take, now_same, take_same]
  rfl

theorem passTime_take (n : Nat) (p : Part) : (passTime n p).take = p.take := by
  unfold passTime
  split <;> rfl

theorem checkWindow_frame (p : Part) : ∃ rig, checkWindow p = { p with rig := rig } := by
  unfold checkWindow
  split
  · exact ⟨p.rig, rfl⟩
  · split
    · exact ⟨p.rig, rfl⟩
    · exact ⟨_, rfl⟩

/-- The queue with the holder of the first record of this pair gone (R58). -/
def lowered (h : HeldPair) (l : List PairRecord) : List PairRecord :=
  updateFirst (PairRecord.isHeld h) (fun k => { k with holders := k.holders - 1 }) l

/-- A release with no section posted (R79). -/
theorem release_quiet {p : Part} {r : ReaderId} {h : HeldPair} (held : (p.reader r).held = some h)
    (quiet : p.post (.reader r) ≠ .posted) : ∃ u prdy slots, release r true p =
      { p.withReader r (p.reader r).released with
        rig := (checkWindow (p.withReader r (p.reader r).released)).rig
        pairs := { p.pairs with queue := staying u (lowered h p.pairs.queue), prdy := prdy }
        slots := slots } := by
  obtain ⟨rig, window⟩ := checkWindow_frame (p.withReader r (p.reader r).released)
  rw [release_eq true held, if_neg fun both => quiet both.2, window]
  obtain ⟨prdy, retired⟩ := evaluateRetirement_cases
    (onHolders h (· - 1) { p.withReader r (p.reader r).released with rig := rig })
  rw [retired]
  exact ⟨_, prdy, _, rfl⟩

/-- What is reported of a lease that has lapsed (R76). -/
theorem leaseLapsed_report (p : Part) (reader : ReaderId) (h : HeldPair)
    (unreported : (release reader true p).report = p.report) :
    (p.leaseLapsed reader h).report.flags.getLsbD EventFlag.readerLapsed.bit = true ∧
    (p.report.queue.length < 16 → (p.leaseLapsed reader h).report.queue = p.report.queue ++
      [{ seq := p.report.seq, stamp := p.now, take := p.take,
         body := .readerEvent .leaseLapsed reader Damage.none h.number h.take 0 }]) := by
  unfold Part.leaseLapsed
  constructor
  · rw [queueRecord_getLsbD _ _ _ _ (by decide), setFlag_getLsbD, decide_eq_true rfl, Bool.or_true]
  · intro room
    rw [queueRecord_room _ _ _ _ (by rw [setFlag_queue, unreported]; exact room), setFlag_queue, setFlag_seq, unreported]

theorem leaseLapsed_onlyReports (p : Part) (reader : ReaderId) (h : HeldPair) :
    (release reader true p).OnlyReports (p.leaseLapsed reader h) :=
  (setFlag_onlyReports _ _).trans (queueRecord_onlyReports ..)

/-- A record that goes wherever it stands is not among those that stay. -/
theorem not_mem_staying_of_gone {u : Part} {k : PairRecord} {l : List PairRecord} (gone : ∀ newer, retires u k newer = true) :
    k ∉ staying u l := by
  induction l with
  | nil => exact List.not_mem_nil
  | cons a as ih =>
    unfold staying
    split
    · exact ih
    · rename_i stays
      intro listed
      rcases List.mem_cons.mp listed with rfl | later
      · exact stays (gone as)
      · exact ih later

/-- The lowered record stays while it is held or is the newest current READY one, and goes when it is stale and unheld (R59). -/
theorem lowered_stays_iff {u : Part} {older newer : List PairRecord} {pair : PairRecord}
    (first : ∀ k ∈ older, k.asHeld ≠ pair.asHeld) :
    let after : PairRecord := { pair with holders := pair.holders - 1 }
    let queue := staying u (lowered pair.asHeld (older ++ pair :: newer))
    (after.holders ≠ 0 ∨ (pair.stale = false ∧ ∀ k ∈ newer, k.state ≠ .ready) → after ∈ queue) ∧
      (pair.state = .ready → pair.stale = true → after.holders = 0 → after ∉ queue) := by
  intro after queue
  have changed : lowered pair.asHeld (older ++ pair :: newer) = older ++ after :: newer :=
    updateFirst_append _ (fun k listed => beq_false_of_ne (first k listed)) ((isHeld_iff _ _).mpr rfl)
  have isQueue : queue = staying u (older ++ after :: newer) := congrArg (staying u) changed
  rw [isQueue]
  refine ⟨fun kept => mem_staying_of_kept (retires_of_kept ?_), fun ready stale unheld => ?_⟩
  · rcases kept with isHeld | newest
    · exact .inr (.inl isHeld)
    · exact .inl newest
  · exact not_mem_staying_of_gone fun newer => (retires_iff u after newer).mpr ⟨ready, unheld, .inl stale⟩

/-- A reader that is let go is not busy; the others are as before (R91). -/
theorem anyBusy_released (p : Part) (r : ReaderId) : anyBusy (p.withReader r (p.reader r).released) = true ↔
    ∃ k, k ≠ r ∧ ((p.reader k).state = .holding ∨ (p.reader k).state = .parked) := by
  rw [anyBusy_iff]
  refine exists_congr fun k => ?_
  by_cases same : k = r
  · subst same
    rw [withReader_reader]
    simp [ReaderCtx.released]
  · rw [withReader_reader_of_other _ same]
    simp [same]

/-! ### The park limit (R81) -/

/-- A park limit has run out, in full: the read leaves, is answered, and the reader is let go with its last one (R81). -/
theorem parkLapses_eq {p : Part} {k : ParkedRead} {v : Entry} (entry : p.entry k.entry = some v) (read : v.kind = .read) :
    let left := p.readers.parkList.filter fun j => j.entry != k.entry
    let last := decide ((p.reader k.reader).state = .parked ∧ ∀ j ∈ left, j.reader ≠ k.reader)
    let reported := queueRecord p.now p.take (.readerEvent .parkExpired k.reader Damage.none 0 0 k.offset) p
    let answered : Part := { reported with
      readers :=
        { ctx := if last then p.readers.ctx.set k.reader { p.reader k.reader with state := .idle } else p.readers.ctx
          parkList := left }
      req := (p.answeredWith k.entry v .noPair).req }
    parkLapses k p = if last then checkWindow (latchReaderIfPosted k.reader answered) else answered := by
  intro left last reported answered
  have removed : (removeParked k.entry p).entry k.entry = some v := entry
  have isLast : (((parkedOf (removeParked k.entry p) k.reader).isEmpty = true) ∧ (p.reader k.reader).state = .parked) ↔
      last = true := by
    rw [decide_eq_true_iff, and_comm, List.isEmpty_iff]
    refine and_congr_right fun _ => ?_
    unfold parkedOf
    rw [List.filter_eq_nil_iff]
    simp only [beq_iff_eq]
    rfl
  let given := (removeParked k.entry p).answeredWith k.entry v .noPair
  let told : Part := { reported with
    readers := { p.readers with parkList := left }
    req := (p.answeredWith k.entry v .noPair).req }
  have isTold : queueRecord given.now given.take (.readerEvent .parkExpired k.reader Damage.none 0 0 k.offset) given = told := by
    unfold told reported
    rw [queueRecord_eq, queueRecord_eq]
    rfl
  have lapses : parkLapses k p =
      if (parkedOf told k.reader).isEmpty ∧ (told.reader k.reader).state = .parked then
        checkWindow (latchReaderIfPosted k.reader (told.onReader k.reader fun c => { c with state := .idle }))
      else told := by
    rw [← isTold]
    unfold parkLapses answerNoPair queueRecordNow
    rw [answerAtOnce_of_read removed read]
  have sameLast : ((parkedOf told k.reader).isEmpty ∧ (told.reader k.reader).state = .parked) ↔ last = true := isLast
  rw [lapses]
  by_cases isIt : last = true
  · rw [if_pos (sameLast.mpr isIt), if_pos isIt]
    refine congrArg (fun u => checkWindow (latchReaderIfPosted k.reader u)) ?_
    unfold answered
    rw [if_pos isIt]
    rfl
  · rw [if_neg fun both => isIt (sameLast.mp both), if_neg isIt]
    unfold answered
    rw [if_neg isIt]

/-- Settles O40. -/
theorem readerTimersExpire : Obligations.ReaderTimersExpire := by
  refine ⟨?_, ?_, ?_, ?_, ?_, ?_, ?_⟩
  · intro reader h s r running lease held quiet room
    have step := exec_leaseExpiry running lease held
    have settings : (passTime r s.hw).rig = s.hw.rig := by rw [passTime_of_running r s.hw running]
    have queue : (passTime r s.hw).pairs.queue = s.hw.pairs.queue := by rw [passTime_of_running r s.hw running]
    have contexts := fun k => passTime_reader r s.hw k running
    have report : (passTime r s.hw).report.queue = s.hw.report.queue ∧ (passTime r s.hw).report.seq = s.hw.report.seq := by
      rw [passTime_report]
      exact ⟨rfl, rfl⟩
    have others : (passTime r s.hw).req = s.hw.req ∧ (passTime r s.hw).streams = s.hw.streams ∧
        (passTime r s.hw).txn.issue = s.hw.txn.issue := by
      rw [passTime_of_running r s.hw running]
      exact ⟨rfl, rfl, rfl⟩
    have take := passTime_take r s.hw
    generalize passTime r s.hw = q at *
    obtain ⟨u, prdy, slots, released⟩ := release_quiet (p := q) (r := reader) (h := h) (by rw [contexts, held])
      (by unfold Part.post; rw [settings]; exact quiet)
    obtain ⟨flag, record⟩ := leaseLapsed_report q reader h (by rw [released]; rfl)
    have only := leaseLapsed_onlyReports q reader h
    rw [released] at only
    have sameReader : q.reader reader = { s.hw.reader reader with lease := (s.hw.reader reader).lease.passes r } := contexts reader
    have rig : (q.leaseLapsed reader h).rig = (checkWindow (q.withReader reader (q.reader reader).released)).rig := by rw [only]
    have busyIff : anyBusy (q.withReader reader (q.reader reader).released) = true ↔
        ∃ k, k ≠ reader ∧ ((s.hw.reader k).state = .holding ∨ (s.hw.reader k).state = .parked) := by
      rw [anyBusy_released]
      exact exists_congr fun k => by rw [contexts k]
    refine ⟨_, step, rfl, ?_, flag, ?_, fun older newer pair isQueue isHeld first => ?_, fun w waits idle => ?_, fun still => ?_,
      ?_, ?_, ?_⟩
    · change (q.leaseLapsed reader h).reader reader = _
      rw [only]
      refine (withReader_reader q reader _).trans ?_
      rw [sameReader]
      rfl
    · rw [report.1, report.2, take] at record
      exact record room
    · subst isHeld
      have after : (q.leaseLapsed reader pair.asHeld).pairs.queue = staying u (lowered pair.asHeld (older ++ pair :: newer)) := by
        rw [only, queue, isQueue]
      have judged := lowered_stays_iff (u := u) (newer := newer) first
      dsimp only at judged
      rw [← after] at judged
      exact judged
    · refine rig.trans ?_
      rw [checkWindow_of_idle (p := q.withReader reader (q.reader reader).released) (w := w) ((congrArg _ settings).trans waits)
        (fun isBusy => idle (busyIff.mp isBusy)), ← settings]
      rfl
    · refine rig.trans ?_
      rcases still with noChange | isBusy
      · rw [checkWindow_of_none (p := q.withReader reader (q.reader reader).released) ((congrArg _ settings).trans noChange)]
        exact settings
      · rw [checkWindow_of_busy (busyIff.mpr isBusy)]
        exact settings
    · change (q.leaseLapsed reader h).req = _
      rw [only]
      exact others.1
    · change (q.leaseLapsed reader h).streams = _
      rw [only]
      exact others.2.1
    · change (q.leaseLapsed reader h).txn.issue = _
      rw [only]
      exact others.2.2
  · intro e k v s r running found timer entry read q left last reported answer answered idled
    have isEntry : k.entry = e := by simpa using List.find?_some found
    subst isEntry
    have qEntry : q.entry k.entry = some v := by
      unfold q
      rw [passTime_of_running r s.hw running]
      exact entry
    have settings : q.rig = s.hw.rig := by unfold q; rw [passTime_of_running r s.hw running]
    have requests : q.req = s.hw.req := by unfold q; rw [passTime_of_running r s.hw running]
    have sameState : (q.reader k.reader).state = (s.hw.reader k.reader).state := by
      unfold q
      rw [passTime_reader r s.hw k.reader running]
    have lapses := parkLapses_eq qEntry read
    dsimp only at lapses
    rw [sameState, show (q.answeredWith k.entry v .noPair).req = answered.req by
      unfold Part.answeredWith
      rw [requests, settings]] at lapses
    refine whenRunning_eq running ?_
    unfold parkTimerExpiry
    rw [found]
    dsimp only
    unfold onExpiry
    rw [timer]
    exact lapses
  · intro reader h s r running lease held q lapsed
    refine (exec_leaseExpiry running lease held).trans ?_
    unfold Part.leaseLapsed
    rw [passTime_take]
  · intro r latch p
    exact ⟨release_of_none latch, fun h held => release_eq latch held⟩
  · exact fun r p => rfl
  · intro h f p
    refine ⟨fun older newer k queue same before => ?_, fun nobody => onHolders_of_none f fun k listed isHeld => ?_⟩
    · obtain rfl := (asHeld_iff k h).mpr same
      exact onHolders_of_split f queue fun j listed isHeld => before j listed ((asHeld_iff j _).mp isHeld)
    · exact nobody k listed ((asHeld_iff k h).mp isHeld)
  · intro p busy
    refine ⟨fun still => ?_, fun w waits idle => checkWindow_of_idle waits fun isBusy => idle ((anyBusy_iff p).mp isBusy)⟩
    rcases still with noChange | isBusy
    · exact checkWindow_of_none noChange
    · exact checkWindow_of_busy ((anyBusy_iff p).mpr isBusy)

end Sys2Proof.Machine

/-! SUPPORT. Abandonment of a frame, in the order of R34 (R20, R34 to R36, R42, R57). -/

namespace Sys2Proof.Machine

/-! ### The steps of an abandonment -/

/-- Slot `i` of eye `x` drains, its stream is told where `tell` says so, and its match timer stops (R34 steps 1 to 3). -/
def Part.drained (p : Part) (x : Eye) (i : Nat) (tell : Bool) : Part :=
  { p with
    slots := p.slots.set x ((p.slots.get x).modify i fun r => { r with state := .draining, frameTimer := .stopped })
    streams :=
      if tell = true ∧ (p.slot x i).state = .filling ∧ (p.stream x).state = .open ∧ (p.stream x).currentSlot = some i then
        p.streams.set x { p.stream x with state := .spill, currentSlot := none }
      else p.streams
    pairs := { p.pairs with matchTimers := p.pairs.matchTimers.set x ((p.pairs.matchTimers.get x).set i .stopped) } }

/-- The frame of record `r` is lost, and its slot is FREE where nothing of it is outstanding (R34 steps 4 and 5, R36, R42). -/
def Part.lost (p : Part) (x : Eye) (i : Nat) (why : LostReason) (r : SlotRecord) : Part :=
  let told := queueRecord r.startStamp (r.pairTake.getD p.take)
    (.frameLost why r.frameNumber r.pairNumber x (some i) r.endReached) (raise (.lost why) (setFlag .frameLost p))
  { told with slots := told.slots.set x ((told.slots.get x).modify i SlotRecord.freeIfDrained) }

/-- The reasons of which the stream is told (R34 step 2). -/
theorem tellsStream_eq (why : LostReason) :
    tellsStream why = decide (why = .timedOut ∨ why = .orphaned ∨ why = .partnerLost) := by cases why <;> rfl

/-- An accepted abandonment: the slot drains, the pair manager is told, and the frame is lost (R34). -/
theorem abandonBy_of_accepted {x : Eye} {i : Nat} {why : LostReason} {p : Part} (notice noticed : Part → Part)
    (accepted : acceptsAbandon why (p.slot x i) = true)
    (stops : ∀ u : Part, notice u = noticed (u.setMatchTimer x i .stopped)) :
    abandonBy notice x i why p = (noticed (p.drained x i (tellsStream why))).lost x i why (p.slot x i) := by
  have drained : ((if (tellsStream why && (p.slot x i).state == .filling) = true then
      (p.onSlot x i fun r => { r with state := .draining, frameTimer := .stopped }).onStream x (StreamCtx.abandoned i)
      else p.onSlot x i fun r => { r with state := .draining, frameTimer := .stopped }).setMatchTimer x i .stopped) =
      p.drained x i (tellsStream why) := by
    have streams : (if (tellsStream why && (p.slot x i).state == .filling) = true then
        p.streams.set x (StreamCtx.abandoned i (p.stream x)) else p.streams) = (p.drained x i (tellsStream why)).streams := by
      unfold Part.drained StreamCtx.abandoned
      by_cases told : (tellsStream why && (p.slot x i).state == .filling) = true
      · have both : tellsStream why = true ∧ (p.slot x i).state = .filling := by simpa using told
        rw [if_pos told]
        by_cases open_here : (p.stream x).state = .open ∧ (p.stream x).currentSlot = some i
        · rw [if_pos open_here]
          exact (if_pos ⟨both.1, both.2, open_here.1, open_here.2⟩).symm
        · rw [if_neg open_here]
          exact (PerEye.set_get p.streams x).trans (if_neg fun all => open_here all.2.2).symm
      · rw [if_neg told]
        exact (if_neg fun all => told (by simp [all.1, all.2.1])).symm
    rw [show (p.drained x i (tellsStream why)) = { p.drained x i (tellsStream why) with
      streams := (p.drained x i (tellsStream why)).streams } from rfl, ← streams]
    split <;> rfl
  unfold abandonBy
  dsimp only
  rw [if_pos accepted, stops, drained]
  rfl

theorem abandonBy_of_refused {x : Eye} {i : Nat} {why : LostReason} {p : Part} (notice : Part → Part)
    (refused : acceptsAbandon why (p.slot x i) = false) : abandonBy notice x i why p = p := by
  unfold abandonBy
  dsimp only
  rw [refused]
  rfl

/-! ### Abandonment, by the record that names the slot (R57) -/

theorem acceptsAbandon_iff (why : LostReason) (r : SlotRecord) : acceptsAbandon why r = true ↔ match why with
    | .truncated => r.state = .filling
    | .syncLost => r.state = .filling
    | .timedOut => r.state = .filling ∨ r.state = .landing
    | .orphaned => r.state.live = true ∧ r.partner = none
    | .partnerLost => r.state.live = true ∧ r.partner ≠ none
    | .starved => False := by
  cases why <;> simp [acceptsAbandon, Option.isSome_iff_ne_none]

theorem abandon_of_refused {x : Eye} {i : Nat} {why : LostReason} {p : Part}
    (refused : acceptsAbandon why (p.slot x i) = false) : abandon x i why p = p := abandonBy_of_refused _ refused

/-- What the pair manager does once the match timer of an abandoned slot has stopped (R57). -/
def noticed (x : Eye) (i : Nat) (p : Part) : Part :=
  match recordOf p x i with
  | none => evaluateRetirement p
  | some q => if q.state = .forming then evaluateRetirement (removeRecord q x p) else evaluateRetirement p

theorem abandon_of_accepted {x : Eye} {i : Nat} {why : LostReason} {p : Part}
    (accepted : acceptsAbandon why (p.slot x i) = true) :
    abandon x i why p = (noticed x i (p.drained x i (tellsStream why))).lost x i why (p.slot x i) :=
  abandonBy_of_accepted (abandonNotice x i) (noticed x i) accepted fun _ => rfl

/-- No FORMING record names the slot: retirement is evaluated (R57). -/
theorem noticed_of_not_forming {x : Eye} {i : Nat} {p : Part} (ready : ∀ k ∈ p.pairs.queue, k.slotOf x = i → k.state = .ready) :
    noticed x i p = evaluateRetirement p := by
  unfold noticed
  cases record : recordOf p x i with
  | none => rfl
  | some q =>
    have isReady := ready q (List.mem_of_find?_eq_some record) (by simpa using List.find?_some record)
    dsimp only
    rw [if_neg (by rw [isReady]; decide)]

/-- A FORMING record goes with its partner (R57). -/
theorem noticed_of_forming {x : Eye} {i : Nat} {p : Part} {older newer : List PairRecord} {q : PairRecord}
    (queue : p.pairs.queue = older ++ q :: newer) (before : ∀ k ∈ older, k.slotOf x ≠ i) (names : q.slotOf x = i)
    (forming : q.state = .forming) : noticed x i p = evaluateRetirement (removeRecord q x p) := by
  unfold noticed
  rw [recordOf_of_split queue before names]
  exact if_pos forming

/-- The queue without the record. -/
def Part.without (p : Part) (q : PairRecord) (older newer : List PairRecord) : Part :=
  { p with pairs := { p.pairs with queue := older ++ newer.filter fun k => decide (k ≠ q) } }

/-- The partner of a removed record, abandoned where it can be (R35). -/
def Part.partnerAbandoned (p : Part) (y : Eye) (j : Nat) : Part :=
  if (p.slot y j).state.live = true ∧ (p.slot y j).partner ≠ none then
    (evaluateRetirement (p.drained y j true)).lost y j .partnerLost (p.slot y j)
  else p

theorem abandonPartner_eq (y : Eye) (j : Nat) (p : Part) : abandonPartner y j p = p.partnerAbandoned y j := by
  unfold abandonPartner Part.partnerAbandoned
  by_cases accepted : acceptsAbandon .partnerLost (p.slot y j) = true
  · rw [abandonBy_of_accepted (noticeWithoutRecord y j) evaluateRetirement accepted fun _ => rfl]
    exact (if_pos ((acceptsAbandon_iff ..).mp accepted)).symm
  · rw [abandonBy_of_refused _ (Bool.eq_false_iff.mpr accepted)]
    exact (if_neg fun both => accepted ((acceptsAbandon_iff ..).mpr both)).symm

theorem removeRecord_of_split {x : Eye} {i : Nat} {p : Part} {older newer : List PairRecord} {q : PairRecord}
    (queue : p.pairs.queue = older ++ q :: newer) (before : ∀ k ∈ older, k.slotOf x ≠ i) (names : q.slotOf x = i) :
    removeRecord q x p =
      let alone := (p.without q older newer).partnerAbandoned x.other (q.slotOf x.other)
      if q.stale = true then alone else announceRemoval alone := by
  have kept : (older ++ q :: newer).filter (fun k => k != q) = older ++ newer.filter fun k => decide (k ≠ q) := by
    have all : older.filter (fun k => k != q) = older := List.filter_eq_self.mpr fun k listed =>
      bne_iff_ne.mpr fun same => before k listed (same ▸ names)
    rw [List.filter_append, all, List.filter_cons_of_neg (by simp)]
    congr 1
    refine List.filter_congr fun k _ => ?_
    rw [Bool.eq_iff_iff, bne_iff_ne, decide_eq_true_iff]
  have removed : (p.onPairs fun m => { m with queue := m.queue.filter fun k => k != q }) = p.without q older newer := by
    unfold Part.onPairs Part.without
    dsimp only
    rw [queue, kept]
  unfold removeRecord
  dsimp only
  rw [removed, abandonPartner_eq]
  unfold PairRecord.isCurrent
  cases q.stale <;> rfl

/-- The partner's slot is another one: its record is as before. -/
theorem drained_slot (p : Part) (x y : Eye) (i j : Nat) (tell : Bool) (other : x ≠ y) : (p.drained x i tell).slot y j = p.slot y j := by
  unfold Part.drained Part.slot
  dsimp only
  rw [PerEye.get_set, if_neg other]

end Sys2Proof.Machine

/-! SUPPORT. What an abandonment leaves: slots, streams, timers and reports (R20, R34, R36, R42, R57). -/

namespace Sys2Proof.Machine

/-! ### A slot that drains -/

theorem drained_slot_same {p : Part} {x : Eye} {i : Nat} (tell : Bool) (known : i < (p.slots.get x).length) :
    (p.drained x i tell).slot x i = { p.slot x i with state := .draining, frameTimer := .stopped } :=
  slot_onSlot (fun r => { r with state := .draining, frameTimer := .stopped }) known

theorem drained_matchTimer (p : Part) (x : Eye) (i : Nat) (tell : Bool) : (p.drained x i tell).matchTimer x i = .stopped := by
  unfold Part.drained Part.matchTimer
  dsimp only
  rw [PerEye.get_set, if_pos rfl, List.getD_eq_getElem?_getD, List.getElem?_set]
  split
  · split <;> rfl
  · rename_i other
    exact absurd rfl other

theorem drained_matchTimer_of_other (p : Part) {x y : Eye} (other : x ≠ y) (i j : Nat) (tell : Bool) :
    (p.drained x i tell).matchTimer y j = p.matchTimer y j := by
  unfold Part.drained Part.matchTimer
  dsimp only
  rw [PerEye.get_set, if_neg other]

/-- The stream whose slot is abandoned (R20). -/
theorem drained_stream (p : Part) (x : Eye) (i : Nat) : (p.drained x i true).stream x =
    if (p.slot x i).state = .filling ∧ (p.stream x).state = .open ∧ (p.stream x).currentSlot = some i then
      { p.stream x with state := .spill, currentSlot := none }
    else p.stream x := by
  unfold Part.drained Part.stream
  dsimp only
  by_cases spills : (p.slot x i).state = .filling ∧ (p.streams.get x).state = .open ∧ (p.streams.get x).currentSlot = some i
  · rw [if_pos ⟨rfl, spills⟩, if_pos spills, PerEye.get_set, if_pos rfl]
  · rw [if_neg fun all => spills all.2, if_neg spills]

theorem drained_stream_of_other (p : Part) {x y : Eye} (other : x ≠ y) (i : Nat) (tell : Bool) :
    (p.drained x i tell).stream y = p.stream y := by
  unfold Part.drained Part.stream
  dsimp only
  split
  · rw [PerEye.get_set, if_neg other]
  · rfl

/-- A slot that is not PAIRED is no matter of a retirement (R38). -/
theorem evaluateRetirement_slot_of_not_paired {p : Part} {x : Eye} {i : Nat} (other : (p.slot x i).state ≠ .paired) :
    (evaluateRetirement p).slot x i = p.slot x i := by
  rw [evaluateRetirement_slot]
  generalize retiring p p.pairs.queue = l
  induction l generalizing p with
  | nil => rfl
  | cons k ks ih =>
    have here : (retireSlots p k).slot x i = p.slot x i := by
      rw [retireSlots_slot]
      split
      · exact if_neg other
      · rfl
    rw [List.foldl_cons, ih (by rw [here]; exact other), here]

/-! ### A frame that is lost -/

theorem raise_onlyReports (c : Counter) (p : Part) : p.OnlyReports (raise c p) := rfl

section
variable (p : Part) (x : Eye) (i : Nat) (why : LostReason) (r : SlotRecord)

theorem lost_frame : ∃ slots, p.lost x i why r = { p with slots := slots, report := (p.lost x i why r).report } := by
  have only : p.OnlyReports (queueRecord r.startStamp (r.pairTake.getD p.take)
      (.frameLost why r.frameNumber r.pairNumber x (some i) r.endReached) (raise (.lost why) (setFlag .frameLost p))) :=
    ((setFlag_onlyReports .frameLost p).trans (raise_onlyReports ..)).trans (queueRecord_onlyReports ..)
  unfold Part.lost
  dsimp only
  generalize queueRecord r.startStamp (r.pairTake.getD p.take)
    (.frameLost why r.frameNumber r.pairNumber x (some i) r.endReached) (raise (.lost why) (setFlag .frameLost p)) = told at only ⊢
  rw [only]
  exact ⟨_, rfl⟩

theorem lost_slot (y : Eye) (j : Nat) :
    (p.lost x i why r).slot y j = if x = y ∧ i = j then (p.slot y j).freeIfDrained else p.slot y j := by
  have only : p.OnlyReports (queueRecord r.startStamp (r.pairTake.getD p.take)
      (.frameLost why r.frameNumber r.pairNumber x (some i) r.endReached) (raise (.lost why) (setFlag .frameLost p))) :=
    ((setFlag_onlyReports .frameLost p).trans (raise_onlyReports ..)).trans (queueRecord_onlyReports ..)
  have change := slot_onSlot_eq (f := SlotRecord.freeIfDrained) rfl (queueRecord r.startStamp (r.pairTake.getD p.take)
      (.frameLost why r.frameNumber r.pairNumber x (some i) r.endReached) (raise (.lost why) (setFlag .frameLost p))) x y i j
  refine (show (p.lost x i why r).slot y j = _ from change).trans ?_
  rw [only]
  rfl

theorem lost_counters (sized : p.report.counters.length = 20) (c : LostReason) :
    (p.lost x i why r).count (.lost c) = (if c = why then p.count (.lost c) + 1 else p.count (.lost c)) := by
  have flagged : (setFlag .frameLost p).report.counters.length = 20 := by rw [setFlag_counters, sized]
  have raised : (raise (.lost why) (setFlag .frameLost p)).report.counters.length = 20 := by
    rw [raise, raiseBy_length, flagged]
  refine (queueRecord_count _ _ _ _ (.lost c) raised (by intro same; cases same)).trans ?_
  rw [raise_count _ _ _ flagged, count_of_counters (setFlag_counters ..)]
  simp

theorem lost_length : (p.lost x i why r).report.counters.length = p.report.counters.length := by
  refine (queueRecord_length ..).trans ?_
  rw [raise, raiseBy_length, setFlag_counters]

theorem lost_flag : (p.lost x i why r).report.flags.getLsbD EventFlag.frameLost.bit = true := by
  refine (queueRecord_getLsbD _ _ _ _ (by decide)).trans ?_
  change (setFlag .frameLost p).report.flags.getLsbD EventFlag.frameLost.bit = true
  rw [setFlag_getLsbD, decide_eq_true rfl, Bool.or_true]

theorem lost_record (room : p.report.queue.length < 16) :
    (p.lost x i why r).report.queue = p.report.queue ++
      [{ seq := p.report.seq, stamp := r.startStamp, take := r.pairTake.getD p.take,
         body := .frameLost why r.frameNumber r.pairNumber x (some i) r.endReached }] ∧
    (p.lost x i why r).report.seq = p.report.seq + 1 := by
  have raised : (raise (.lost why) (setFlag .frameLost p)).report.queue = p.report.queue := setFlag_queue ..
  have seq : (raise (.lost why) (setFlag .frameLost p)).report.seq = p.report.seq := setFlag_seq ..
  have told := queueRecord_room r.startStamp (r.pairTake.getD p.take)
    (.frameLost why r.frameNumber r.pairNumber x (some i) r.endReached) _ (show
      (raise (.lost why) (setFlag .frameLost p)).report.queue.length < 16 by rw [raised]; exact room)
  rw [raised, seq] at told
  exact ⟨congrArg (fun u : Part => u.report.queue) told, congrArg (fun u : Part => u.report.seq) told⟩

end

end Sys2Proof.Machine

/-! SUPPORT. The slot timers, and the frames they abandon (R32, R53, R57). -/

namespace Sys2Proof.Machine

theorem freeIfDrained_not_paired {r : SlotRecord} (draining : r.state = .draining) : r.freeIfDrained.state ≠ .paired := by
  unfold SlotRecord.freeIfDrained
  split
  · decide
  · rw [draining]
    decide

theorem evaluateRetirement_matchTimer (p : Part) (x : Eye) (i : Nat) : (evaluateRetirement p).matchTimer x i = p.matchTimer x i := by
  obtain ⟨prdy, after⟩ := evaluateRetirement_cases p
  rw [after]
  rfl

/-- The frame of slot `i` of eye `x` given up, as far as slots, streams, timers and pairs go. -/
def Part.dropped (p : Part) (x : Eye) (i : Nat) (tell : Bool) (why : LostReason) : Part :=
  (evaluateRetirement (p.drained x i tell)).lost x i why (p.slot x i)

/-- What that leaves (R20, R34, R36, R42). -/
structure Part.Dropped (p t : Part) (x : Eye) (i : Nat) (tell : Bool) (why : LostReason) : Prop where
  slot : t.slot x i = SlotRecord.freeIfDrained { p.slot x i with state := .draining, frameTimer := .stopped }
  otherSlot : ∀ y j, x ≠ y → (p.slot y j).state ≠ .paired → t.slot y j = p.slot y j
  timer : t.matchTimer x i = .stopped
  otherTimer : ∀ y j, x ≠ y → t.matchTimer y j = p.matchTimer y j
  stream : t.stream x = (p.drained x i tell).stream x
  otherStream : ∀ y, x ≠ y → t.stream y = p.stream y
  queue : ∃ u, t.pairs.queue = staying u p.pairs.queue
  rig : t.rig = p.rig
  req : t.req = p.req
  readers : t.readers = p.readers
  txn : t.txn = p.txn
  skew : t.skew = p.skew
  sync : t.sync = p.sync
  count : p.report.counters.length = 20 → ∀ c, t.count (.lost c) = if c = why then p.count (.lost c) + 1 else p.count (.lost c)
  length : t.report.counters.length = p.report.counters.length
  flag : t.report.flags.getLsbD EventFlag.frameLost.bit = true
  record : p.report.queue.length < 16 → t.report.queue = p.report.queue ++
      [{ seq := p.report.seq, stamp := (p.slot x i).startStamp, take := (p.slot x i).pairTake.getD p.take,
         body := .frameLost why (p.slot x i).frameNumber (p.slot x i).pairNumber x (some i) (p.slot x i).endReached }] ∧
    t.report.seq = p.report.seq + 1

theorem dropped_spec {p : Part} {x : Eye} {i : Nat} (tell : Bool) (why : LostReason) (known : i < (p.slots.get x).length) :
    p.Dropped (p.dropped x i tell why) x i tell why := by
  have slot := drained_slot_same (p := p) (x := x) tell known
  have after : (evaluateRetirement (p.drained x i tell)).slot x i = (p.drained x i tell).slot x i :=
    evaluateRetirement_slot_of_not_paired (by rw [slot]; exact (by decide : SlotState.draining ≠ .paired))
  have others (y : Eye) (j : Nat) (other : x ≠ y) (notPaired : (p.slot y j).state ≠ .paired) :
      (evaluateRetirement (p.drained x i tell)).slot y j = p.slot y j := by
    rw [evaluateRetirement_slot_of_not_paired (by rw [drained_slot p x y i j tell other]; exact notPaired),
      drained_slot p x y i j tell other]
  have timer (y : Eye) (j : Nat) : (evaluateRetirement (p.drained x i tell)).matchTimer y j = (p.drained x i tell).matchTimer y j :=
    evaluateRetirement_matchTimer _ y j
  have streams : (evaluateRetirement (p.drained x i tell)).streams = (p.drained x i tell).streams := evaluateRetirement_streams _
  have queue : (evaluateRetirement (p.drained x i tell)).pairs.queue = staying (p.drained x i tell) p.pairs.queue :=
    evaluateRetirement_queue _
  have rig : (evaluateRetirement (p.drained x i tell)).rig = p.rig := evaluateRetirement_rig _
  have req : (evaluateRetirement (p.drained x i tell)).req = p.req := evaluateRetirement_req _
  have readers : (evaluateRetirement (p.drained x i tell)).readers = p.readers := evaluateRetirement_readers _
  have txn : (evaluateRetirement (p.drained x i tell)).txn = p.txn := evaluateRetirement_txn _
  have skew : (evaluateRetirement (p.drained x i tell)).skew = p.skew := evaluateRetirement_skew _
  have sync : (evaluateRetirement (p.drained x i tell)).sync = p.sync := evaluateRetirement_sync _
  have report : (evaluateRetirement (p.drained x i tell)).report = p.report := evaluateRetirement_report _
  unfold Part.dropped
  generalize evaluateRetirement (p.drained x i tell) = w at *
  have take : w.take = p.take := congrArg (·.global.take) rig
  obtain ⟨slots, frame⟩ := lost_frame w x i why (p.slot x i)
  refine ⟨?_, fun y j other notPaired => ?_, ?_, fun y j other => ?_, ?_, fun y other => ?_, ⟨p.drained x i tell, ?_⟩, ?_, ?_, ?_, ?_, ?_, ?_,
    fun sized c => ?_, ?_, lost_flag .., fun room => ?_⟩
  · rw [lost_slot, if_pos ⟨rfl, rfl⟩, after, slot]
  · rw [lost_slot, if_neg fun both => other both.1, others y j other notPaired]
  · rw [frame]
    exact (timer x i).trans (drained_matchTimer p x i tell)
  · rw [frame]
    exact (timer y j).trans (drained_matchTimer_of_other p other i j true)
  · rw [frame]
    exact congrArg (PerEye.get · x) streams
  · rw [frame]
    exact (congrArg (PerEye.get · y) streams).trans (drained_stream_of_other p other i tell)
  · rw [frame]
    exact queue
  · rw [frame]
    exact rig
  · rw [frame]
    exact req
  · rw [frame]
    exact readers
  · rw [frame]
    exact txn
  · rw [frame]
    exact skew
  · rw [frame]
    exact sync
  · rw [lost_counters _ _ _ _ _ (by rw [report, sized]), count_of_counters (congrArg ReportUnit.counters report)]
  · rw [lost_length, report]
  · have told := lost_record w x i why (p.slot x i) (by rw [report]; exact room)
    rwa [report, take] at told

/-- A frame that no record names is given up alone (R57). -/
theorem abandon_unlinked {p : Part} {x : Eye} {i : Nat} {why : LostReason} (accepted : acceptsAbandon why (p.slot x i) = true)
    (record : recordOf p x i = none) : abandon x i why p = p.dropped x i (tellsStream why) why := by
  have nobody : ∀ k ∈ p.pairs.queue, k.slotOf x = i → k.state = .ready := fun k listed names =>
    absurd names (by simpa using List.find?_eq_none.mp record k listed)
  rw [abandon_of_accepted accepted, noticed_of_not_forming (p := p.drained x i (tellsStream why)) nobody]
  rfl

/-- A frame of a FORMING pair takes its partner with it, which is given up first (R35, R57). -/
theorem abandon_linked {p : Part} {x : Eye} {i : Nat} {why : LostReason} {older newer : List PairRecord} {q : PairRecord}
    (accepted : acceptsAbandon why (p.slot x i) = true)
    (queue : p.pairs.queue = older ++ q :: newer) (before : ∀ k ∈ older, k.slotOf x ≠ i) (names : q.slotOf x = i)
    (forming : q.state = .forming) (live : (p.slot x.other (q.slotOf x.other)).state.live = true)
    (linked : (p.slot x.other (q.slotOf x.other)).partner ≠ none)
    (latest : ∀ k ∈ p.readers.parkList, (p.readerSettings k.reader).policy = .latest)
    (known : q.slotOf x.other < (p.slots.get x.other).length) :
    abandon x i why p = (evaluateRetirement
      (((p.drained x i (tellsStream why)).without q older newer).dropped x.other (q.slotOf x.other) true .partnerLost)).lost x i why (p.slot x i) := by
  let w := (p.drained x i (tellsStream why)).without q older newer
  have partner : w.slot x.other (q.slotOf x.other) = p.slot x.other (q.slotOf x.other) :=
    drained_slot p x x.other i (q.slotOf x.other) (tellsStream why) (Eye.ne_other x)
  have length : q.slotOf x.other < (w.slots.get x.other).length := by
    change q.slotOf x.other < ((p.slots.set x _).get x.other).length
    rw [PerEye.get_set, if_neg (Eye.ne_other x)]
    exact known
  have spec := dropped_spec (p := w) (x := x.other) (i := q.slotOf x.other) true .partnerLost length
  have dropped : w.partnerAbandoned x.other (q.slotOf x.other) = w.dropped x.other (q.slotOf x.other) true .partnerLost := by
    unfold Part.partnerAbandoned
    rw [partner, if_pos ⟨live, linked⟩, ← partner]
    rfl
  have quiet : announceRemoval (w.dropped x.other (q.slotOf x.other) true .partnerLost) = w.dropped x.other (q.slotOf x.other) true .partnerLost := by
    refine announceRemoval_of_none fun k listed => .inl ?_
    rw [spec.readers] at listed
    unfold Part.readerSettings
    rw [spec.rig]
    exact latest k listed
  have removed := removeRecord_of_split (p := p.drained x i (tellsStream why)) queue before names
  dsimp only at removed
  rw [abandon_of_accepted accepted, noticed_of_forming (p := p.drained x i (tellsStream why)) queue before names forming, removed,
    show (p.drained x i (tellsStream why)).without q older newer = w from rfl, dropped, quiet, ite_self]

/-- What the loss of both frames of a FORMING pair leaves (R20, R34 to R36, R42, R57). -/
structure Part.BothDropped (p t : Part) (x : Eye) (i j : Nat) (tell : Bool) (why : LostReason) (q : PairRecord) : Prop where
  stream : t.stream x = (p.drained x i tell).stream x
  otherStream : t.stream x.other =
    if (p.slot x.other j).state = .filling ∧ (p.stream x.other).state = .open ∧ (p.stream x.other).currentSlot = some j then
      { p.stream x.other with state := .spill, currentSlot := none }
    else p.stream x.other
  slot : t.slot x i = SlotRecord.freeIfDrained { p.slot x i with state := .draining, frameTimer := .stopped }
  otherSlot : t.slot x.other j = SlotRecord.freeIfDrained { p.slot x.other j with state := .draining, frameTimer := .stopped }
  timer : t.matchTimer x i = .stopped
  otherTimer : t.matchTimer x.other j = .stopped
  queue : ∀ k ∈ t.pairs.queue, k ∈ p.pairs.queue ∧ k ≠ q
  forming : ∀ k ∈ p.pairs.queue, k.state = .forming → k ≠ q → k ∈ t.pairs.queue
  count : p.report.counters.length = 20 → t.count (.lost why) = p.count (.lost why) + 1
  partnerCount : p.report.counters.length = 20 → t.count (.lost .partnerLost) = p.count (.lost .partnerLost) + 1
  flag : t.report.flags.getLsbD EventFlag.frameLost.bit = true
  record : p.report.queue.length + 2 ≤ 16 → t.report.queue = p.report.queue ++
    [{ seq := p.report.seq, stamp := (p.slot x.other j).startStamp, take := (p.slot x.other j).pairTake.getD p.take,
       body := .frameLost .partnerLost (p.slot x.other j).frameNumber (p.slot x.other j).pairNumber x.other (some j)
         (p.slot x.other j).endReached },
     { seq := p.report.seq + 1, stamp := (p.slot x i).startStamp, take := (p.slot x i).pairTake.getD p.take,
       body := .frameLost why (p.slot x i).frameNumber (p.slot x i).pairNumber x (some i) (p.slot x i).endReached }]
  rig : t.rig = p.rig
  req : t.req = p.req
  readers : t.readers = p.readers
  txn : t.txn = p.txn
  skew : t.skew = p.skew
  sync : t.sync = p.sync

theorem mem_staying_of_forming {u : Part} {k : PairRecord} {l : List PairRecord} (listed : k ∈ l) (forming : k.state = .forming) :
    k ∈ staying u l := by
  obtain ⟨older, newer, rfl⟩ := List.append_of_mem listed
  exact mem_staying_of_kept (retires_of_kept (.inr (.inr forming)))

theorem bothDropped_spec {p : Part} {x : Eye} {i j : Nat} (tell : Bool) {why : LostReason} {older newer : List PairRecord} {q : PairRecord}
    (other_reason : why ≠ .partnerLost)
    (known : i < (p.slots.get x).length) (partnerKnown : j < (p.slots.get x.other).length)
    (queue : p.pairs.queue = older ++ q :: newer) (before : ∀ k ∈ older, k ≠ q) :
    p.BothDropped ((evaluateRetirement (((p.drained x i tell).without q older newer).dropped x.other j true .partnerLost)).lost
      x i why (p.slot x i)) x i j tell why q := by
  let w := (p.drained x i tell).without q older newer
  have length : j < (w.slots.get x.other).length := by
    change j < ((p.slots.set x _).get x.other).length
    rw [PerEye.get_set, if_neg (Eye.ne_other x)]
    exact partnerKnown
  have partner : w.slot x.other j = p.slot x.other j := drained_slot p x x.other i j tell (Eye.ne_other x)
  have own : w.slot x i = { p.slot x i with state := .draining, frameTimer := .stopped } := drained_slot_same tell known
  have spec := dropped_spec (p := w) (x := x.other) (i := j) true .partnerLost length
  rw [show (p.drained x i tell).without q older newer = w from rfl]
  generalize w.dropped x.other j true .partnerLost = A at spec
  have ownKept : A.slot x i = w.slot x i := spec.otherSlot x i (Eye.other_ne x) (by
    rw [own]
    exact (by decide : SlotState.draining ≠ .paired))
  have ownAfter : (evaluateRetirement A).slot x i = A.slot x i := evaluateRetirement_slot_of_not_paired (by
    rw [ownKept, own]
    exact (by decide : SlotState.draining ≠ .paired))
  have partnerAfter : (evaluateRetirement A).slot x.other j = A.slot x.other j := evaluateRetirement_slot_of_not_paired (by
    rw [spec.slot]
    exact freeIfDrained_not_paired rfl)
  have report := evaluateRetirement_report A
  have streams := evaluateRetirement_streams A
  have timers := evaluateRetirement_matchTimer A
  have rig : (evaluateRetirement A).rig = p.rig := (evaluateRetirement_rig A).trans spec.rig
  have req : (evaluateRetirement A).req = p.req := (evaluateRetirement_req A).trans spec.req
  have readers : (evaluateRetirement A).readers = p.readers := (evaluateRetirement_readers A).trans spec.readers
  have txn : (evaluateRetirement A).txn = p.txn := (evaluateRetirement_txn A).trans spec.txn
  have skew : (evaluateRetirement A).skew = p.skew := (evaluateRetirement_skew A).trans spec.skew
  have sync : (evaluateRetirement A).sync = p.sync := (evaluateRetirement_sync A).trans spec.sync
  obtain ⟨judge, stays⟩ := spec.queue
  have isQueue : (evaluateRetirement A).pairs.queue = staying A (staying judge (older ++ newer.filter fun k => decide (k ≠ q))) := by
    rw [evaluateRetirement_queue, stays]
    rfl
  have take : (evaluateRetirement A).take = p.take := congrArg (·.global.take) rig
  have wReport : w.report = p.report := rfl
  have wTake : w.take = p.take := rfl
  generalize evaluateRetirement A = B at *
  obtain ⟨slots, frame⟩ := lost_frame B x i why (p.slot x i)
  have counts (sized : p.report.counters.length = 20) (c : LostReason) := lost_counters B x i why (p.slot x i)
    (by rw [report, spec.length, wReport, sized]) c
  have before_count (sized : p.report.counters.length = 20) (c : LostReason) : B.count (.lost c) =
      if c = .partnerLost then p.count (.lost c) + 1 else p.count (.lost c) :=
    (count_of_counters (congrArg ReportUnit.counters report) _).trans (spec.count sized c)
  refine ⟨?_, ?_, ?_, ?_, ?_, ?_, fun k listed => ?_, fun k listed forming other => ?_, fun sized => ?_, fun sized => ?_,
    lost_flag .., fun room => ?_, ?_, ?_, ?_, ?_, ?_, ?_⟩
  · rw [frame]
    exact ((congrArg (PerEye.get · x) streams).trans (spec.otherStream x (Eye.other_ne x)))
  · rw [frame]
    refine (((congrArg (PerEye.get · x.other) streams).trans spec.stream).trans (drained_stream w x.other j)).trans ?_
    rw [partner, show w.stream x.other = p.stream x.other from drained_stream_of_other p (Eye.ne_other x) i tell]
  · rw [lost_slot, if_pos ⟨rfl, rfl⟩, ownAfter, ownKept, own]
  · rw [lost_slot, if_neg fun both => Eye.ne_other x both.1, partnerAfter, spec.slot, partner]
  · rw [frame]
    exact ((timers x i).trans (spec.otherTimer x i (Eye.other_ne x))).trans (drained_matchTimer p x i tell)
  · rw [frame]
    exact (timers x.other j).trans spec.timer
  · rw [frame] at listed
    have inQueue := (staying_sublist _ _).mem ((staying_sublist _ _).mem (isQueue ▸ listed))
    rw [queue]
    rcases List.mem_append.mp inQueue with isOlder | isNewer
    · exact ⟨List.mem_append_left _ isOlder, before k isOlder⟩
    · obtain ⟨isNewer, other⟩ := List.mem_filter.mp isNewer
      exact ⟨List.mem_append_right _ (List.mem_cons_of_mem _ isNewer), of_decide_eq_true other⟩
  · rw [frame]
    refine isQueue ▸ mem_staying_of_forming (mem_staying_of_forming ?_ forming) forming
    rw [queue] at listed
    rcases List.mem_append.mp listed with isOlder | isNewer
    · exact List.mem_append_left _ isOlder
    · exact List.mem_append_right _ (List.mem_filter.mpr ⟨(List.mem_cons.mp isNewer).resolve_left other, decide_eq_true other⟩)
  · rw [counts sized, before_count sized, if_pos rfl, if_neg other_reason]
  · rw [counts sized, before_count sized, if_neg (Ne.symm other_reason), if_pos rfl]
  · obtain ⟨first, seq⟩ := spec.record (by rw [wReport]; omega)
    rw [wReport, wTake, partner] at first
    rw [wReport] at seq
    have inRoom : B.report.queue.length < 16 := by
      rw [report, first, List.length_append, List.length_singleton]
      omega
    rw [(lost_record B x i why (p.slot x i) inRoom).1, report, first, seq, take, List.append_assoc]
    rfl
  · rw [frame]
    exact rig
  · rw [frame]
    exact req
  · rw [frame]
    exact readers
  · rw [frame]
    exact txn
  · rw [frame]
    exact skew
  · rw [frame]
    exact sync

/-- The same, of the record that names the slot. -/
theorem abandon_linked_spec {p : Part} {x : Eye} {i : Nat} {why : LostReason} {q : PairRecord} (other_reason : why ≠ .partnerLost)
    (accepted : acceptsAbandon why (p.slot x i) = true) (record : recordOf p x i = some q) (forming : q.state = .forming)
    (known : i < (p.slots.get x).length) (partnerKnown : q.slotOf x.other < (p.slots.get x.other).length)
    (live : (p.slot x.other (q.slotOf x.other)).state.live = true) (linked : (p.slot x.other (q.slotOf x.other)).partner ≠ none)
    (latest : ∀ k ∈ p.readers.parkList, (p.readerSettings k.reader).policy = .latest) :
    p.BothDropped (abandon x i why p) x i (q.slotOf x.other) (tellsStream why) why q := by
  obtain ⟨named, older, newer, queue, before⟩ := List.find?_eq_some_iff_append.mp record
  have names : q.slotOf x = i := beq_iff_eq.mp named
  have before : ∀ k ∈ older, k.slotOf x ≠ i := fun k listed => by simpa using before k listed
  rw [abandon_linked accepted queue before names forming live linked latest partnerKnown]
  exact bothDropped_spec (tellsStream why) other_reason known partnerKnown queue fun k listed same => before k listed (same ▸ names)

end Sys2Proof.Machine

/-! SUPPORT. The commands of the slot timers (R32, R53). -/

namespace Sys2Proof.Machine

/-- A later part, but for its timers: what the passing of time, or a match timer stopped, leaves. -/
structure Part.Aged (p u : Part) : Prop where
  slot : ∀ x i, ∃ t, u.slot x i = { p.slot x i with frameTimer := t }
  length : ∀ x, (u.slots.get x).length = (p.slots.get x).length
  streams : u.streams = p.streams
  queue : u.pairs.queue = p.pairs.queue
  parked : ∀ k ∈ u.readers.parkList, ∃ j ∈ p.readers.parkList, j.reader = k.reader
  rig : u.rig = p.rig
  req : u.req = p.req
  report : ∃ interval, u.report = { p.report with interval := interval }

theorem passTime_aged (n : Nat) {p : Part} (running : p.resetAsserted = false) : p.Aged (passTime n p) := by
  have slot := fun x i => passTime_slot n p x i running
  rw [passTime_of_running n p running] at slot ⊢
  refine ⟨fun x i => ⟨_, slot x i⟩, fun x => ?_, rfl, rfl, fun k listed => ?_, rfl, rfl, ⟨_, rfl⟩⟩
  · exact (congrArg List.length (PerEye.get_map _ p.slots x)).trans (List.length_map _)
  · obtain ⟨j, isParked, rfl⟩ := List.mem_map.mp listed
    exact ⟨j, isParked, rfl⟩

theorem setMatchTimer_aged {p u : Part} (aged : p.Aged u) (x : Eye) (i : Nat) (t : Timer) : p.Aged (u.setMatchTimer x i t) :=
  ⟨aged.slot, aged.length, aged.streams, aged.queue, aged.parked, aged.rig, aged.req, aged.report⟩

theorem exec_frameTimer {x : Eye} {i : Nat} {s : State} {r : Nat} (running : s.hw.resetAsserted = false)
    (timer : (s.hw.slot x i).frameTimer = .running r) :
    exec (.frameTimerExpiry x i) s = .next { s with hw := markChanged s.hw (abandon x i .timedOut (passTime r s.hw)) } := by
  refine whenRunning_eq running ?_
  unfold frameTimerExpiry onExpiry
  rw [timer]

theorem exec_matchTimer {x : Eye} {i : Nat} {s : State} {r : Nat} (running : s.hw.resetAsserted = false)
    (timer : s.hw.matchTimer x i = .running r) :
    exec (.matchTimerExpiry x i) s = .next { s with
      hw := markChanged s.hw (abandon x i .orphaned ((passTime r s.hw).setMatchTimer x i .stopped)) } := by
  refine whenRunning_eq running ?_
  unfold matchTimerExpiry onExpiry
  rw [timer]
  rfl

/-- A frame that no record names, once time has passed, is given up alone (R32, R53). -/
theorem Part.Aged.unlinked {p u : Part} {x : Eye} {i : Nat} {why : LostReason} (aged : p.Aged u)
    (known : i < (p.slots.get x).length) (record : recordOf p x i = none) (tells : tellsStream why = true)
    (accepted : ∀ t, acceptsAbandon why { p.slot x i with frameTimer := t } = true) (sized : p.report.counters.length = 20) :
    let t := abandon x i why u
    t.slot x i = SlotRecord.freeIfDrained { p.slot x i with state := .draining, frameTimer := .stopped } ∧
      t.matchTimer x i = .stopped ∧
      t.stream x =
        (if (p.slot x i).state = .filling ∧ (p.stream x).state = .open ∧ (p.stream x).currentSlot = some i then
          { p.stream x with state := .spill, currentSlot := none } else p.stream x) ∧
      t.stream x.other = p.stream x.other ∧ t.count (.lost why) = p.count (.lost why) + 1 ∧
      t.report.flags.getLsbD EventFlag.frameLost.bit = true ∧ t.rig = p.rig ∧ t.req = p.req := by
  intro t
  obtain ⟨timer, slot⟩ := aged.slot x i
  obtain ⟨interval, report⟩ := aged.report
  have sameRecord : recordOf u x i = none := by
    unfold recordOf at record ⊢
    rw [aged.queue, record]
  have isDropped : t = u.dropped x i true why := tells ▸ abandon_unlinked (by rw [slot]; exact accepted timer) sameRecord
  have spec := dropped_spec (p := u) (x := x) (i := i) true why (by rw [aged.length]; exact known)
  rw [isDropped]
  have stream (y : Eye) : u.stream y = p.stream y := congrArg (PerEye.get · y) aged.streams
  refine ⟨by rw [spec.slot, slot], spec.timer, by rw [spec.stream, drained_stream, slot, stream], by rw [spec.otherStream _ (Eye.ne_other x), stream],
    ?_, spec.flag, spec.rig.trans aged.rig, spec.req.trans aged.req⟩
  have counted : u.count (.lost why) = p.count (.lost why) := count_of_counters (by rw [report]) _
  rw [spec.count (by rw [report, sized]), if_pos rfl, counted]

/-- Settles O41. -/
theorem slotTimersAbandonUnlinkedFrames : Obligations.SlotTimersAbandonUnlinkedFrames := by
  refine ⟨?_, ?_, ?_, ?_⟩
  · intro x i s r running known partner record sized c reason cases
    have aged := passTime_aged r running
    rcases cases with ⟨rfl, rfl, timer, state⟩ | ⟨rfl, rfl, timer, live⟩
    · exact ⟨_, exec_frameTimer running timer, rfl, aged.unlinked known record rfl (fun t => (acceptsAbandon_iff ..).mpr state) sized⟩
    · exact ⟨_, exec_matchTimer running timer, rfl, (setMatchTimer_aged aged x i .stopped).unlinked known record rfl
        (fun t => (acceptsAbandon_iff ..).mpr ⟨live, partner⟩) sized⟩
  · intro x i j q s r running sized known timer state record forming names partnerKnown live linked latest room own partner
    subst names
    have aged := passTime_aged r running
    obtain ⟨t, slot⟩ := aged.slot x i
    obtain ⟨t', otherSlot⟩ := aged.slot x.other (q.slotOf x.other)
    obtain ⟨interval, report⟩ := aged.report
    have spec := abandon_linked_spec (p := passTime r s.hw) (x := x) (i := i) (why := .timedOut) (q := q) (by decide)
      (by rw [slot]; exact (acceptsAbandon_iff ..).mpr state) (by unfold recordOf at record ⊢; rw [aged.queue, record]) forming
      (by rw [aged.length]; exact known) (by rw [aged.length]; exact partnerKnown) (by rw [otherSlot]; exact live)
      (by rw [otherSlot]; exact linked) fun k listed => by
        obtain ⟨m, isParked, same⟩ := aged.parked k listed
        unfold Part.readerSettings
        rw [aged.rig, ← same]
        exact latest m isParked
    have stream (y : Eye) : (passTime r s.hw).stream y = s.hw.stream y := congrArg (PerEye.get · y) aged.streams
    have counted (c : Counter) : (passTime r s.hw).count c = s.hw.count c := count_of_counters (by rw [report]) c
    have take := passTime_take r s.hw
    have sameQueue := aged.queue
    obtain ⟨streamAfter, otherStreamAfter, slotAfter, otherSlotAfter, timerAfter, otherTimerAfter, gone, kept, count, partnerCount,
      flag, reported, rig, req, _, _, _, _⟩ := spec
    replace streamAfter := streamAfter.trans (drained_stream (passTime r s.hw) x i)
    rw [slot, stream] at streamAfter
    rw [otherSlot, stream] at otherStreamAfter
    rw [slot] at slotAfter
    rw [otherSlot] at otherSlotAfter
    rw [sameQueue] at gone kept
    rw [report, counted] at count partnerCount
    rw [report, slot, otherSlot, take] at reported
    exact ⟨_, exec_frameTimer running timer, rfl, streamAfter, otherStreamAfter, slotAfter, otherSlotAfter, timerAfter,
      otherTimerAfter, gone, kept, count sized, partnerCount sized, flag, reported room, rig.trans aged.rig, req.trans aged.req⟩
  · intro x i s r running q
    exact ⟨exec_frameTimer running, exec_matchTimer running⟩
  · intro p x i reason own accepted tells drained lost
    have isAccepted : acceptsAbandon reason own = true ↔ accepted := acceptsAbandon_iff reason own
    have isTold : tellsStream reason = decide tells := tellsStream_eq reason
    refine ⟨fun refused => abandon_of_refused (Bool.eq_false_iff.mpr fun yes => refused (isAccepted.mp yes)),
      fun yes ready => ?_, fun older newer q yes queue before names forming => ?_⟩
    · rw [abandon_of_accepted (isAccepted.mpr yes), isTold, noticed_of_not_forming (p := p.drained x i (decide tells)) ready]
      rfl
    · intro j partner own0 removed alone
      have without := removeRecord_of_split (p := p.drained x i (decide tells)) queue before names
      have partnerSlot : ((p.drained x i (decide tells)).without q older newer).slot x.other (q.slotOf x.other) = partner :=
        drained_slot p x x.other i (q.slotOf x.other) (decide tells) (Eye.ne_other x)
      have isAlone : ((p.drained x i (decide tells)).without q older newer).partnerAbandoned x.other (q.slotOf x.other) = alone := by
        unfold Part.partnerAbandoned
        rw [partnerSlot]
        rfl
      dsimp only at without
      rw [isAlone] at without
      rw [abandon_of_accepted (isAccepted.mpr yes), isTold,
        noticed_of_forming (p := p.drained x i (decide tells)) queue before names forming, without]
      rfl

end Sys2Proof.Machine

/-! SUPPORT. Departures and frame starts over an open frame (R6, R8, R119). -/

namespace Sys2Proof.Machine

/-! ### What no abandonment changes -/

/-- The sync unit, the settings of the eyes and the frame number of stream `x` are those of `p` (R3, R119, R174). -/
structure Part.FrameFixed (p : Part) (x : Eye) (q : Part) : Prop where
  reset : q.resetAsserted = p.resetAsserted
  sync : q.sync = p.sync
  eye : q.rig.eye = p.rig.eye
  number : (q.stream x).frameNumber = (p.stream x).frameNumber

theorem frameFixedFree (p : Part) (x : Eye) : FreeMoves (p.FrameFixed x) where
  pairs _ _ _ _ h := ⟨h.reset, h.sync, h.eye, h.number⟩
  prdy q h := by
    obtain ⟨prdy, judged⟩ := evaluatePrdy_cases q
    rw [judged]
    exact ⟨h.reset, h.sync, h.eye, h.number⟩
  ready q h := by
    obtain ⟨prdy, pulse, driven⟩ := prdyOnReady_cases q
    rw [driven]
    exact ⟨h.reset, h.sync, h.eye, h.number⟩
  slots _ _ _ h := ⟨h.reset, h.sync, h.eye, h.number⟩
  ctx _ _ h := ⟨h.reset, h.sync, h.eye, h.number⟩
  park _ _ _ h := ⟨h.reset, h.sync, h.eye, h.number⟩
  table _ _ _ h := ⟨h.reset, h.sync, h.eye, h.number⟩
  returning _ _ h := ⟨h.reset, h.sync, h.eye, h.number⟩
  issue _ _ h := ⟨h.reset, h.sync, h.eye, h.number⟩
  count _ _ _ h := ⟨h.reset, h.sync, h.eye, h.number⟩
  record _ _ _ _ h := by
    rw [queueRecord_eq]
    exact ⟨h.reset, h.sync, h.eye, h.number⟩
  flag _ _ h := by
    rw [setFlag_eq]
    exact ⟨h.reset, h.sync, h.eye, h.number⟩
  post _ _ _ h := ⟨h.reset, h.sync, h.eye, h.number⟩
  readerSettings _ _ _ _ h := ⟨h.reset, h.sync, h.eye, h.number⟩
  window _ _ _ h := ⟨h.reset, h.sync, h.eye, h.number⟩

theorem abandon_frameFixed (p : Part) (x y : Eye) (i : Nat) (why : LostReason) : p.FrameFixed x (abandon y i why p) := by
  refine FrameMoves.abandon (J := p.FrameFixed x) (I := p.FrameFixed x)
    { (frameFixedFree p x).moves with abandoned := fun q z j h => ⟨h.reset, h.sync, h.eye, ?_⟩ } p y i why ⟨rfl, rfl, rfl, rfl⟩
  refine Eq.trans ?_ h.number
  have kept (c : StreamCtx) : (StreamCtx.abandoned j c).frameNumber = c.frameNumber := by
    unfold StreamCtx.abandoned
    split <;> rfl
  unfold Part.stream
  rw [Part.onStream_streams, PerEye.get_set]
  split
  · rename_i same
    rw [kept, same]
  · rfl

/-! ### The open frame -/

theorem openSlot_of_open {p : Part} {x : Eye} (isOpen : (p.stream x).state = .open) : openSlot p x = (p.stream x).currentSlot := by
  unfold openSlot
  rw [isOpen]

theorem openSlot_of_closed {p : Part} {x : Eye} (closed : (p.stream x).state ≠ .open) : openSlot p x = none := by
  unfold openSlot
  match state : (p.stream x).state with
  | .open => exact absurd state closed
  | .between => rfl
  | .off => rfl
  | .waitingSync => rfl
  | .spill => rfl

theorem dropOpenFrame_of_open {p : Part} {x : Eye} {i : Nat} (why : LostReason) (isOpen : (p.stream x).state = .open)
    (current : (p.stream x).currentSlot = some i) :
    dropOpenFrame x why p = (abandon x i why p).onStream x fun c => { c with currentSlot := none } := by
  unfold dropOpenFrame
  rw [openSlot_of_open isOpen, current]

theorem dropOpenFrame_of_closed {p : Part} {x : Eye} (why : LostReason) (closed : (p.stream x).state ≠ .open) :
    dropOpenFrame x why p = p := by
  unfold dropOpenFrame
  rw [openSlot_of_closed closed]

/-- The notice at the head taken off the way (R119). -/
def Part.told (p : Part) (x : Eye) (rest : List StreamNotice) : Part :=
  { p with sync := { p.sync with streamNotices := p.sync.streamNotices.set x rest } }

/-! ### The departure (R6) -/

theorem streamDeparture_of_open {p : Part} {x : Eye} {i : Nat} (isOpen : (p.stream x).state = .open)
    (current : (p.stream x).currentSlot = some i) :
    streamDeparture x p = enterWaitingSync x ((abandon x i .syncLost p).onStream x fun c => { c with currentSlot := none }) := by
  unfold streamDeparture
  rw [if_neg (by rw [isOpen]; decide), dropOpenFrame_of_open .syncLost isOpen current]

theorem enterWaitingSync_of_not_posted {p : Part} {x : Eye} (quiet : p.post (.eye x) ≠ .posted) :
    enterWaitingSync x p = p.onStream x fun c => { c with state := .waitingSync, completed := false } := if_neg quiet

theorem exec_lockLost {x : Eye} {rest : List StreamNotice} {s : State} {u : Part} (running : s.hw.resetAsserted = false)
    (head : s.hw.sync.streamNotices.get x = .lockLost :: rest) (work : streamDeparture x (s.hw.told x rest) = u) :
    exec (.lockLost x) s = .next { s with hw := markChanged s.hw u } := by
  refine whenRunning_eq running ?_
  rw [lockLost_of_head head, dropStreamNotice_eq head]
  exact work

theorem freeIfDrained_cases (r : SlotRecord) :
    (r.state = .draining ∧ r.writes = 0 ∧ r.reads = 0 ∧ r.quarantined = 0 → r.freeIfDrained = SlotRecord.free) ∧
    (¬(r.state = .draining ∧ r.writes = 0 ∧ r.reads = 0 ∧ r.quarantined = 0) → r.freeIfDrained = r) := ⟨fun drained => if_pos drained, fun kept => if_neg kept⟩

end Sys2Proof.Machine

/-! SUPPORT. The departure of an eye from LOCKED over an open frame (R6). -/

namespace Sys2Proof.Machine

theorem onStream_onStream (p : Part) (x : Eye) (f g : StreamCtx → StreamCtx) : (p.onStream x f).onStream x g = p.onStream x (g ∘ f) := by
  simp only [Part.onStream, PerEye.get_set, if_true, PerEye.set_set, Function.comp]

/-- The stream of a departure (R6). -/
def StreamCtx.departed (c : StreamCtx) : StreamCtx := { c with state := .waitingSync, completed := false }

theorem enterWaitingSync_eq (p : Part) (x : Eye) : enterWaitingSync x p =
    if (p.onStream x StreamCtx.departed).post (.eye x) = .posted then latchEyeIdle x (p.onStream x StreamCtx.departed)
    else p.onStream x StreamCtx.departed := rfl

/-- What the stream held open does not matter to a stream that waits (R6). -/
theorem enterWaitingSync_congr (p : Part) (x : Eye) {f g : StreamCtx → StreamCtx} (same : ∀ c, (f c).departed = (g c).departed) :
    enterWaitingSync x (p.onStream x f) = enterWaitingSync x (p.onStream x g) := by
  rw [enterWaitingSync_eq, enterWaitingSync_eq, onStream_onStream, onStream_onStream,
    show StreamCtx.departed ∘ f = StreamCtx.departed ∘ g from funext same]

/-- Stream `x` waits for LOCKED and holds no frame (R6). -/
def Part.departed (p : Part) (x : Eye) : Part :=
  p.onStream x fun c => { c with state := .waitingSync, currentSlot := none, completed := false }

theorem departed_stream_same (p : Part) (x : Eye) :
    (p.departed x).stream x = { p.stream x with state := .waitingSync, currentSlot := none, completed := false } :=
  (PerEye.get_set ..).trans (if_pos rfl)

theorem departed_stream_other (p : Part) (x : Eye) : (p.departed x).stream x.other = p.stream x.other :=
  (PerEye.get_set ..).trans (if_neg (Eye.ne_other x))

/-- What a loss of SYNC_LOST leaves of the stream that held the frame, once it waits: its reason tells no stream (R6, R36). -/
theorem departed_stream_of_kept {p t : Part} {x : Eye} (kept : t.stream x = p.stream x) :
    (t.departed x).stream x = { p.stream x with state := .waitingSync, currentSlot := none, completed := false } := by
  rw [departed_stream_same, kept]

theorem streamDeparture_of_open_of_not_posted {p : Part} {x : Eye} {i : Nat} (isOpen : (p.stream x).state = .open)
    (current : (p.stream x).currentSlot = some i) (quiet : (abandon x i .syncLost p).post (.eye x) ≠ .posted) :
    streamDeparture x p = (abandon x i .syncLost p).departed x := by
  rw [streamDeparture_of_open isOpen current]
  refine (enterWaitingSync_of_not_posted (p := (abandon x i .syncLost p).onStream x fun c => { c with currentSlot := none }) quiet).trans ?_
  rw [onStream_onStream]
  rfl

theorem streamDeparture_of_between {p : Part} {x : Eye} (between : (p.stream x).state = .between) :
    streamDeparture x p = enterWaitingSync x p := by
  unfold streamDeparture
  rw [if_neg (by rw [between]; decide), dropOpenFrame_of_closed .syncLost (by rw [between]; decide)]

/-- Stream `x` of a part in BETWEEN with no frame, its sync unit being `u`: the frame closed first (R6, R8). -/
def Part.closedFirst (gone : Part) (x : Eye) (u : SyncUnit) : Part :=
  { gone with sync := u, streams := gone.streams.set x { gone.stream x with state := .between, currentSlot := none } }

/-- The notice taken off the way of a part whose frame was closed first. -/
theorem closedFirst_told {p gone : Part} {x : Eye} {rest : List StreamNotice} (sync : gone.sync = (p.told x rest).sync) :
    (gone.closedFirst x p.sync).told x rest = gone.onStream x fun c => { c with state := .between, currentSlot := none } := by
  have sync : gone.sync = { p.sync with streamNotices := p.sync.streamNotices.set x rest } := sync
  unfold Part.told Part.closedFirst
  dsimp only
  rw [← sync]
  rfl

theorem closedFirst_state (gone : Part) (x : Eye) (u : SyncUnit) : ((gone.closedFirst x u).stream x).state = .between :=
  congrArg StreamCtx.state ((PerEye.get_set ..).trans (if_pos rfl))

/-- The loss of the open frame and the departure, in either order of closing the frame (R6). -/
theorem departure_of_closed {p : Part} {x : Eye} {i : Nat} {rest : List StreamNotice} (isOpen : (p.stream x).state = .open)
    (current : (p.stream x).currentSlot = some i) :
    streamDeparture x (((abandon x i .syncLost (p.told x rest)).closedFirst x p.sync).told x rest) =
      streamDeparture x (p.told x rest) := by
  have fixed := abandon_frameFixed (p.told x rest) x x i .syncLost
  have between : ((((abandon x i .syncLost (p.told x rest)).closedFirst x p.sync).told x rest).stream x).state = .between :=
    closedFirst_state _ x p.sync
  rw [streamDeparture_of_between between, closedFirst_told fixed.sync,
    streamDeparture_of_open (p := p.told x rest) isOpen current]
  exact enterWaitingSync_congr _ x fun _ => rfl

/-- Settles O12. -/
theorem lockLostAbandonsTheOpenFrame : Obligations.LockLostAbandonsTheOpenFrame := by
  refine ⟨?_, ?_, ?_, fun r => ⟨(freeIfDrained_cases r).1, (freeIfDrained_cases r).2⟩⟩
  · intro x i rest s running head sized isOpen current known filling record quiet
    have isDropped : abandon x i .syncLost (s.hw.told x rest) = (s.hw.told x rest).dropped x i false .syncLost :=
      abandon_unlinked ((acceptsAbandon_iff ..).mpr (by rw [show (s.hw.told x rest).slot x i = s.hw.slot x i from rfl, filling])) record
    have spec := dropped_spec (p := s.hw.told x rest) (x := x) (i := i) false .syncLost known
    rw [← isDropped] at spec
    refine ⟨_, exec_lockLost running head (streamDeparture_of_open_of_not_posted (p := s.hw.told x rest) isOpen current
      (by unfold Part.post; rw [spec.rig]; exact quiet)), rfl, ?_⟩
    exact ⟨departed_stream_of_kept spec.stream, (departed_stream_other ..).trans (spec.otherStream _ (Eye.ne_other x)), spec.slot, spec.timer,
      (spec.count sized .syncLost).trans (if_pos rfl), spec.flag, spec.rig, spec.readers, spec.req, spec.txn, spec.skew⟩
  · intro x i j q rest s running head sized isOpen current known filling quiet record forming names partnerKnown live linked latest room
    subst names
    have spec := abandon_linked_spec (p := s.hw.told x rest) (x := x) (i := i) (why := .syncLost) (by decide)
      ((acceptsAbandon_iff ..).mpr (by rw [show (s.hw.told x rest).slot x i = s.hw.slot x i from rfl, filling])) record forming known
      partnerKnown live linked latest
    refine ⟨_, exec_lockLost running head (streamDeparture_of_open_of_not_posted (p := s.hw.told x rest) isOpen current
      (by unfold Part.post; rw [spec.rig]; exact quiet)), rfl, ?_⟩
    exact ⟨departed_stream_of_kept spec.stream, (departed_stream_other ..).trans spec.otherStream, spec.slot, spec.otherSlot, spec.timer,
      spec.otherTimer, spec.queue, spec.forming, spec.count sized, spec.partnerCount sized, spec.flag, spec.record room, spec.rig, spec.readers,
      spec.req, spec.txn, spec.skew⟩
  · intro x i rest s running head isOpen current gone closed
    have fixed : (s.hw.told x rest).FrameFixed x gone := abandon_frameFixed (s.hw.told x rest) x x i .syncLost
    refine ⟨_, _, exec_lockLost running head rfl, exec_lockLost (s := { s with hw := closed }) (fixed.reset.trans running) head
      (departure_of_closed isOpen current), rfl, rfl⟩

end Sys2Proof.Machine

/-! SUPPORT. The start of a frame in a FREE slot, and the partner it finds (R9, R26, R50 to R52). -/

namespace Sys2Proof.Machine

/-! ### A frame start with no section posted -/

theorem takeFrameStart_of_not_posted {x : Eye} {stamp : Stamp} {p : Part} (quiet : p.post (.eye x) ≠ .posted) :
    takeFrameStart x stamp p = openFrame x stamp (dropOpenFrame x .truncated p) := by
  unfold takeFrameStart frameStartLatch
  rw [if_neg quiet]
  rfl

theorem exec_frameStart {x : Eye} {stamp : Stamp} {rest : List StreamNotice} {s : State} {u : Part}
    (running : s.hw.resetAsserted = false) (head : s.hw.sync.streamNotices.get x = .frameStart stamp :: rest)
    (awake : ignoresFrames (s.hw.stream x).state = false) (work : takeFrameStart x stamp (s.hw.told x rest) = u) :
    exec (.frameStart x) s = .next { s with hw := markChanged s.hw u } := by
  refine whenRunning_eq running ?_
  rw [frameStart_of_head head, if_neg (by rw [awake]; decide), dropStreamNotice_eq head]
  exact work

/-! ### The slot that opens -/

theorem lowestFree_lt {l : List SlotRecord} {i : Nat} (free : lowestFree l = some i) : i < l.length := by
  obtain ⟨⟨r, found, _⟩, _⟩ := (firstIndex_eq_some_iff _ l i).mp free
  exact (List.getElem?_eq_some_iff.mp found).1

/-- Slot `i` opened for the next frame of stream `x` (R9, R26, R31). -/
def Part.opened (p : Part) (x : Eye) (i : Nat) (stamp : Stamp) : Part :=
  { p with
    streams := p.streams.set x
      { state := .open, frameNumber := (p.stream x).frameNumber + 1, currentSlot := some i, cursor := 0,
        geom := (p.eyeSettings x).geom, completed := false }
    slots := p.slots.set x ((p.slots.get x).set i
      { p.slot x i with
        state := .filling, frameNumber := (p.stream x).frameNumber + 1, startStamp := stamp, partner := none,
        pairNumber := none, pairTake := none, geom := (p.eyeSettings x).geom, damage := Damage.none, endReached := false,
        frameTimer := .running (p.rig.global.frameLimit * 250) }) }

theorem numberFrame_stream (p : Part) (x : Eye) : (numberFrame x p).stream x =
    { p.stream x with
      frameNumber := (p.stream x).frameNumber + 1, completed := false, geom := (p.eyeSettings x).geom } :=
  (PerEye.get_set ..).trans (if_pos rfl)

/-! ### The partner in reach -/

theorem bestCandidate_congr {p q : Part} {y : Eye} {t : Stamp} (slots : ∀ i, q.slot y i = p.slot y i) (l : List Nat) :
    bestCandidate q y t l = bestCandidate p y t l := by
  induction l with
  | nil => rfl
  | cons i is ih =>
    unfold bestCandidate
    rw [ih]
    cases bestCandidate p y t is with
    | none => rfl
    | some j =>
      have same : betterCandidate q y t j i = betterCandidate p y t j i := by
        unfold betterCandidate
        rw [slots, slots]
      exact congrArg (fun b : Bool => if b then some j else some i) same

/-- The partner depends on the slots and match timers of the other eye, and on the tolerance (R50, R51). -/
theorem pickCandidate_congr {p q : Part} {y : Eye} (slots : q.slots.get y = p.slots.get y)
    (timers : q.pairs.matchTimers.get y = p.pairs.matchTimers.get y)
    (tolerance : q.rig.global.matchTolerance = p.rig.global.matchTolerance) (t : Stamp) (g : Geometry) :
    pickCandidate q y t g = pickCandidate p y t g := by
  have slot (i : Nat) : q.slot y i = p.slot y i := congrArg (·.getD i SlotRecord.free) slots
  have candidate (i : Nat) : isCandidate q y i t g = isCandidate p y i t g := by
    unfold isCandidate Part.matchTimer
    rw [slot, timers, tolerance]
  unfold pickCandidate
  rw [bestCandidate_congr slot, slots, List.filter_congr fun i _ => candidate i]

theorem slotOpened_of_alone {p : Part} {x : Eye} {i : Nat}
    (alone : p.pairs.nextNumber = none ∨ pickCandidate p x.other (p.slot x i).startStamp (p.slot x i).geom = none) :
    slotOpened x i p = startMatchTimer x i p := by
  unfold slotOpened
  rcases alone with exhausted | nobody
  · rw [exhausted]
  · rw [nobody]
    cases p.pairs.nextNumber <;> rfl

theorem slotOpened_of_partner {p : Part} {x : Eye} {i n c : Nat} (number : p.pairs.nextNumber = some n)
    (partner : pickCandidate p x.other (p.slot x i).startStamp (p.slot x i).geom = some c) :
    slotOpened x i p = linkSlots x i c n p := by
  unfold slotOpened
  rw [number, partner]

/-- The pair manager's part in an opening reads and writes no stream (R50 to R52). -/
theorem slotOpened_onStream (p : Part) (x y : Eye) (i : Nat) (f : StreamCtx → StreamCtx) :
    (slotOpened x i p).onStream y f = slotOpened x i (p.onStream y f) := by
  have pick := pickCandidate_congr (p := p) (q := p.onStream y f) (y := x.other) rfl rfl rfl (p.slot x i).startStamp (p.slot x i).geom
  cases number : p.pairs.nextNumber with
  | none => rw [slotOpened_of_alone (.inl number), slotOpened_of_alone (p := p.onStream y f) (.inl number)]; rfl
  | some n =>
    cases partner : pickCandidate p x.other (p.slot x i).startStamp (p.slot x i).geom with
    | none => rw [slotOpened_of_alone (.inr partner), slotOpened_of_alone (p := p.onStream y f) (.inr (pick.trans partner))]; rfl
    | some c =>
      rw [slotOpened_of_partner number partner, slotOpened_of_partner (p := p.onStream y f) number (pick.trans partner)]
      rfl

theorem onSlot_eq_set (p : Part) (x : Eye) {i : Nat} (known : i < (p.slots.get x).length) (f : SlotRecord → SlotRecord) :
    p.onSlot x i f = { p with slots := p.slots.set x ((p.slots.get x).set i (f (p.slot x i))) } := by
  have record : p.slot x i = (p.slots.get x)[i] := List.getD_eq_getElem _ _ known
  unfold Part.onSlot Part.onSlots
  dsimp only
  rw [List.modify_eq_set_getElem?, List.getElem?_eq_getElem known, record]
  rfl

theorem placeFrame_grantSlot (p : Part) (x : Eye) (i : Nat) (stamp : Stamp) (known : i < (p.slots.get x).length) :
    placeFrame x (some i) (grantSlot x i ((p.stream x).frameNumber + 1) stamp (p.eyeSettings x).geom (numberFrame x p)) =
      slotOpened x i (p.opened x i stamp) := by
  unfold placeFrame grantSlot
  rw [onSlot_eq_set (numberFrame x p) x known]
  refine (slotOpened_onStream ..).trans (congrArg (slotOpened x i) ?_)
  simp only [Part.onStream, numberFrame, Part.opened, PerEye.get_set, if_true, PerEye.set_set]
  rfl

theorem openFrame_of_free {p : Part} {x : Eye} {i : Nat} (stamp : Stamp) (free : lowestFree (p.slots.get x) = some i) :
    openFrame x stamp p = slotOpened x i (p.opened x i stamp) := by
  have request : requestSlot x ((p.stream x).frameNumber + 1) stamp (p.eyeSettings x).geom (numberFrame x p) =
      (grantSlot x i ((p.stream x).frameNumber + 1) stamp (p.eyeSettings x).geom (numberFrame x p), some i) := by
    unfold requestSlot
    rw [show (numberFrame x p).slots = p.slots from rfl, free]
  unfold openFrame
  dsimp only
  rw [numberFrame_stream, request]
  exact placeFrame_grantSlot p x i stamp (lowestFree_lt free)

end Sys2Proof.Machine

/-! SUPPORT. The nearest candidate (R50, R51), and the frames that open (R9, R37, R48). -/

namespace Sys2Proof.Machine

/-! ### Nearness -/

/-- The distance from the opening stamp, signed: positive when the candidate's frame started before it (R51). -/
def Part.lag (p : Part) (y : Eye) (t : Stamp) (i : Nat) : Int := stampDiff t (p.slot y i).startStamp

/-- The order of preference: nearer first, of two equally near the earlier first (R51). -/
def Part.rank (p : Part) (y : Eye) (t : Stamp) (i : Nat) : Int := 2 * (p.lag y t i).natAbs + if p.lag y t i < 0 then 1 else 0

/-- Two stamps near a third lie as far apart as their distances from it differ (R109). -/
theorem stampDiff_of_near (t a b : Stamp) (near_a : (stampDiff t a).natAbs < 65536) (near_b : (stampDiff t b).natAbs < 65536) :
    stampDiff a b = stampDiff t b - stampDiff t a := by
  unfold stampDiff at *
  have same : a - b = (t - b) - (t - a) := by
    rw [sub_sub_sub_cancel_left]
  rw [same, BitVec.toInt_sub]
  exact Int.bmod_eq_of_le (by omega) (by omega)

theorem betterCandidate_iff {p : Part} {y : Eye} {t : Stamp} {i j : Nat} (near_i : (p.lag y t i).natAbs < 65536)
    (near_j : (p.lag y t j).natAbs < 65536) : betterCandidate p y t i j = true ↔ p.rank y t i < p.rank y t j := by
  have apart := stampDiff_of_near t (p.slot y i).startStamp (p.slot y j).startStamp near_i near_j
  unfold betterCandidate Part.rank
  change (decide ((p.lag y t i).natAbs < (p.lag y t j).natAbs) || ((p.lag y t i).natAbs == (p.lag y t j).natAbs &&
    decide (stampDiff (p.slot y i).startStamp (p.slot y j).startStamp < 0))) = true ↔ _
  rw [apart]
  change (decide ((p.lag y t i).natAbs < (p.lag y t j).natAbs) || ((p.lag y t i).natAbs == (p.lag y t j).natAbs &&
    decide (p.lag y t j - p.lag y t i < 0))) = true ↔ _
  simp only [Bool.or_eq_true, Bool.and_eq_true, decide_eq_true_iff, beq_iff_eq]
  omega

/-! ### The best of a list -/

theorem bestCandidate_eq_none_iff (p : Part) (y : Eye) (t : Stamp) (l : List Nat) : bestCandidate p y t l = none ↔ l = [] := by
  cases l with
  | nil => exact ⟨fun _ => rfl, fun _ => rfl⟩
  | cons i is =>
    refine ⟨fun none => ?_, fun empty => nomatch empty⟩
    unfold bestCandidate at none
    split at none
    · exact nomatch none
    · split at none <;> exact nomatch none

theorem bestCandidate_spec {p : Part} {y : Eye} {t : Stamp} {l : List Nat} {c : Nat} (near : ∀ i ∈ l, (p.lag y t i).natAbs < 65536)
    (best : bestCandidate p y t l = some c) : c ∈ l ∧ ∀ i ∈ l, p.rank y t c ≤ p.rank y t i := by
  induction l generalizing c with
  | nil => exact nomatch best
  | cons i is ih =>
    have tail := fun k listed => near k (List.mem_cons_of_mem i listed)
    unfold bestCandidate at best
    cases later : bestCandidate p y t is with
    | none =>
      rw [later] at best
      obtain rfl := Option.some.inj best
      have empty := (bestCandidate_eq_none_iff ..).mp later
      subst empty
      exact ⟨List.mem_singleton_self _, fun k listed => (List.mem_singleton.mp listed) ▸ le_rfl⟩
    | some j =>
      obtain ⟨listed, least⟩ := ih tail later
      have better := betterCandidate_iff (near j (List.mem_cons_of_mem i listed)) (near i List.mem_cons_self)
      rw [later] at best
      by_cases nearer : betterCandidate p y t j i = true
      · obtain rfl := Option.some.inj ((if_pos nearer).symm.trans best)
        refine ⟨List.mem_cons_of_mem i listed, fun k isListed => ?_⟩
        rcases List.mem_cons.mp isListed with rfl | inTail
        · exact le_of_lt (better.mp nearer)
        · exact least k inTail
      · obtain rfl := Option.some.inj ((if_neg nearer).symm.trans best)
        have notLater : p.rank y t i ≤ p.rank y t j := not_lt.mp fun before => nearer (better.mpr before)
        refine ⟨List.mem_cons_self, fun k isListed => ?_⟩
        rcases List.mem_cons.mp isListed with rfl | inTail
        · exact le_rfl
        · exact notLater.trans (least k inTail)

/-! ### The candidates -/

/-- A slot in reach of a frame that starts at stamp `t` with geometry `g` (R50). -/
def Part.InReach (p : Part) (y : Eye) (t : Stamp) (g : Geometry) (i : Nat) : Prop :=
  i < (p.slots.get y).length ∧
    ((p.slot y i).state = .filling ∨ (p.slot y i).state = .landing ∨ (p.slot y i).state = .complete) ∧
    (p.slot y i).partner = none ∧ (∃ r, p.matchTimer y i = .running r) ∧
    (p.slot y i).geom.width = g.width ∧ (p.slot y i).geom.pixelBytes = g.pixelBytes ∧ (p.slot y i).geom.lines = g.lines ∧
    (p.slot y i).geom.top = g.top ∧ (p.slot y i).geom.bottom = g.bottom ∧ (p.slot y i).geom.pitch = g.pitch ∧
    (p.lag y t i).natAbs ≤ p.rig.global.matchTolerance

theorem live_iff (state : SlotState) : state.live = true ↔ state = .filling ∨ state = .landing ∨ state = .complete := by
  cases state <;> decide

theorem isRunning_iff (t : Timer) : t.isRunning = true ↔ ∃ r, t = .running r := by
  cases t with
  | stopped => exact ⟨fun running => (nomatch running), fun ⟨_, running⟩ => (nomatch running)⟩
  | running r => exact ⟨fun _ => ⟨r, rfl⟩, fun _ => rfl⟩

theorem mem_candidates_iff (p : Part) (y : Eye) (t : Stamp) (g : Geometry) (i : Nat) :
    i ∈ (List.range (p.slots.get y).length).filter (fun i => isCandidate p y i t g) ↔ p.InReach y t g i := by
  have shared : (p.slot y i).geom.shared = g.shared ↔ (p.slot y i).geom.width = g.width ∧
      (p.slot y i).geom.pixelBytes = g.pixelBytes ∧ (p.slot y i).geom.lines = g.lines ∧ (p.slot y i).geom.top = g.top ∧
      (p.slot y i).geom.bottom = g.bottom ∧ (p.slot y i).geom.pitch = g.pitch := by
    unfold Geometry.shared
    rw [PairGeometry.mk.injEq]
  rw [List.mem_filter, List.mem_range]
  unfold isCandidate Part.InReach
  simp only [Bool.and_eq_true, live_iff, isRunning_iff, beq_iff_eq, decide_eq_true_iff, Option.isNone_iff_eq_none, shared, and_assoc]
  rfl

theorem pickCandidate_eq_none_iff (p : Part) (y : Eye) (t : Stamp) (g : Geometry) :
    pickCandidate p y t g = none ↔ ∀ i, ¬p.InReach y t g i := by
  unfold pickCandidate
  rw [bestCandidate_eq_none_iff, List.eq_nil_iff_forall_not_mem]
  exact forall_congr' fun i => not_congr (mem_candidates_iff p y t g i)

theorem pickCandidate_spec {p : Part} {y : Eye} {t : Stamp} {g : Geometry} {c : Nat} (tolerance : p.rig.global.matchTolerance < 65536)
    (picked : pickCandidate p y t g = some c) : p.InReach y t g c ∧ ∀ i, p.InReach y t g i → p.rank y t c ≤ p.rank y t i := by
  have near : ∀ i ∈ (List.range (p.slots.get y).length).filter (fun i => isCandidate p y i t g), (p.lag y t i).natAbs < 65536 := by
    intro i listed
    obtain ⟨_, _, _, _, _, _, _, _, _, _, close⟩ := (mem_candidates_iff p y t g i).mp listed
    exact Nat.lt_of_le_of_lt close tolerance
  obtain ⟨listed, least⟩ := bestCandidate_spec near picked
  exact ⟨(mem_candidates_iff ..).mp listed, fun i inReach => least i ((mem_candidates_iff ..).mpr inReach)⟩

end Sys2Proof.Machine

/-! SUPPORT. The frames that open in a FREE slot, alone or with a partner (R9, R26, R37, R48, R50 to R52). -/

namespace Sys2Proof.Machine

theorem opened_slot_same {p : Part} {x : Eye} {i : Nat} (stamp : Stamp) (known : i < (p.slots.get x).length) :
    (p.opened x i stamp).slot x i = { p.slot x i with
      state := .filling, frameNumber := (p.stream x).frameNumber + 1, startStamp := stamp, partner := none,
      pairNumber := none, pairTake := none, geom := (p.eyeSettings x).geom, damage := Damage.none, endReached := false,
      frameTimer := .running (p.rig.global.frameLimit * 250) } := by
  unfold Part.opened Part.slot
  rw [PerEye.get_set, if_pos rfl, List.getD_eq_getElem _ _ (by rw [List.length_set]; exact known), List.getElem_set_self]

theorem opened_slots_other (p : Part) (x : Eye) (i : Nat) (stamp : Stamp) :
    (p.opened x i stamp).slots.get x.other = p.slots.get x.other := (PerEye.get_set ..).trans (if_neg (Eye.ne_other x))

/-- The partner in reach of the slot that opens is that of the part before (R50, R51). -/
theorem opened_pick {p : Part} {x : Eye} {i : Nat} (stamp : Stamp) (known : i < (p.slots.get x).length) :
    pickCandidate (p.opened x i stamp) x.other ((p.opened x i stamp).slot x i).startStamp ((p.opened x i stamp).slot x i).geom =
      pickCandidate p x.other stamp (p.eyeSettings x).geom := by
  rw [opened_slot_same stamp known]
  exact pickCandidate_congr (p := p) (q := p.opened x i stamp) (opened_slots_other p x i stamp) rfl rfl _ _

/-- A frame start over no open frame, in a FREE slot (R9). -/
theorem exec_frameStart_of_free {x : Eye} {stamp : Stamp} {i : Nat} {rest : List StreamNotice} {s : State}
    (running : s.hw.resetAsserted = false) (head : s.hw.sync.streamNotices.get x = .frameStart stamp :: rest)
    (closed : (s.hw.stream x).state = .between ∨ (s.hw.stream x).state = .spill) (quiet : s.hw.post (.eye x) ≠ .posted)
    (free : lowestFree (s.hw.slots.get x) = some i) :
    exec (.frameStart x) s = .next { s with
      hw := markChanged s.hw (slotOpened x i ((s.hw.told x rest).opened x i stamp)) } := by
  have awake : ignoresFrames (s.hw.stream x).state = false := by
    rcases closed with state | state <;> rw [state] <;> rfl
  have notOpen : (s.hw.stream x).state ≠ .open := by
    rcases closed with state | state <;> rw [state] <;> decide
  refine exec_frameStart running head awake ?_
  rw [takeFrameStart_of_not_posted (p := s.hw.told x rest) quiet,
    dropOpenFrame_of_closed (p := s.hw.told x rest) .truncated notOpen]
  exact openFrame_of_free (p := s.hw.told x rest) stamp free

theorem told_pick (p : Part) (x : Eye) (rest : List StreamNotice) (t : Stamp) (g : Geometry) :
    pickCandidate (p.told x rest) x.other t g = pickCandidate p x.other t g :=
  pickCandidate_congr (p := p) (q := p.told x rest) rfl rfl rfl t g

/-- Settles O13. -/
theorem frameStartOpensASlot : Obligations.FrameStartOpensASlot := by
  refine ⟨?_, ?_⟩
  · intro x stamp i rest s running head closed quiet free alone number geom slot
    have pick := opened_pick (p := s.hw.told x rest) stamp (lowestFree_lt free)
    rw [exec_frameStart_of_free running head closed quiet free, slotOpened_of_alone (p := (s.hw.told x rest).opened x i stamp)
      (alone.imp_right fun nobody => (pick.trans (told_pick s.hw x rest _ _)).trans nobody)]
    rfl
  · intro p y stamp g tolerance distance candidate
    refine ⟨pickCandidate_eq_none_iff p y stamp g, fun c picked => ?_⟩
    obtain ⟨inReach, least⟩ := pickCandidate_spec tolerance picked
    refine ⟨inReach, fun i isCandidate => ?_⟩
    have before := least i isCandidate
    have close (k : Nat) (isNear : candidate k) : (stampDiff stamp (p.slot y k).startStamp).natAbs < 65536 := by
      obtain ⟨_, _, _, _, _, _, _, _, _, _, within⟩ := isNear
      exact Nat.lt_of_le_of_lt within tolerance
    rw [stampDiff_of_near stamp (p.slot y c).startStamp (p.slot y i).startStamp (close c inReach) (close i isCandidate)]
    change p.rank y stamp c ≤ p.rank y stamp i at before
    unfold Part.rank Part.lag at before
    dsimp only [distance]
    omega

/-! ### The link -/

theorem bestCandidate_mem {p : Part} {y : Eye} {t : Stamp} {l : List Nat} {c : Nat} (best : bestCandidate p y t l = some c) : c ∈ l := by
  induction l generalizing c with
  | nil => exact nomatch best
  | cons i is ih =>
    unfold bestCandidate at best
    split at best
    · exact Option.some.inj best ▸ List.mem_cons_self
    · rename_i j later
      split at best
      · exact List.mem_cons_of_mem i (ih (later.trans best))
      · exact Option.some.inj best ▸ List.mem_cons_self

theorem pickCandidate_inReach {p : Part} {y : Eye} {t : Stamp} {g : Geometry} {c : Nat} (picked : pickCandidate p y t g = some c) :
    p.InReach y t g c := (mem_candidates_iff ..).mp (bestCandidate_mem picked)

theorem link_of_live_alone {r : SlotRecord} (live : r.state.live = true) (alone : r.partner = none) (c n : Nat) (take : Word) :
    SlotRecord.link c n take r = { r with partner := some c, pairNumber := some n, pairTake := some take } := by
  unfold SlotRecord.link
  rw [live, alone]
  rfl

theorem link_free (c n : Nat) (take : Word) : SlotRecord.link c n take SlotRecord.free = SlotRecord.free := rfl

theorem linkSlots_slot (p : Part) (x : Eye) (i c n : Nat) : (linkSlots x i c n p).slot x i = SlotRecord.link c n p.take (p.slot x i) := by
  change ((p.onSlot x i (SlotRecord.link c n p.take)).onSlot x.other c (SlotRecord.link i n p.take)).slot x i = _
  rw [slot_onSlot_eq (link_free i n p.take), if_neg fun both => Eye.other_ne x both.1, slot_onSlot_eq (link_free c n p.take), if_pos ⟨rfl, rfl⟩]

theorem linkSlots_slot_other (p : Part) (x : Eye) (i c n : Nat) :
    (linkSlots x i c n p).slot x.other c = SlotRecord.link i n p.take (p.slot x.other c) := by
  change ((p.onSlot x i (SlotRecord.link c n p.take)).onSlot x.other c (SlotRecord.link i n p.take)).slot x.other c = _
  rw [slot_onSlot_eq (link_free i n p.take), if_pos ⟨rfl, rfl⟩, slot_onSlot_eq (link_free c n p.take), if_neg fun both => Eye.ne_other x both.1]

/-- Settles O14. -/
theorem frameStartLinksAPair : Obligations.FrameStartLinksAPair := by
  intro x stamp i c n rest s running head closed quiet free unused picked number other
  have known := lowestFree_lt free
  let w := (s.hw.told x rest).opened x i stamp
  have pick := (opened_pick (p := s.hw.told x rest) stamp known).trans ((told_pick s.hw x rest _ _).trans picked)
  obtain ⟨_, live, alone, _⟩ := pickCandidate_inReach picked
  have own : w.slot x i = _ := opened_slot_same (p := s.hw.told x rest) stamp known
  have partner : w.slot x.other c = s.hw.slot x.other c :=
    congrArg (·.getD c SlotRecord.free) (opened_slots_other (s.hw.told x rest) x i stamp)
  have ownLinked := linkSlots_slot w x i c n
  have partnerLinked := linkSlots_slot_other w x i c n
  rw [own, link_of_live_alone rfl rfl] at ownLinked
  rw [partner, link_of_live_alone ((live_iff _).mpr live) alone] at partnerLinked
  refine ⟨_, exec_frameStart_of_free running head closed quiet free, rfl, ?_⟩
  rw [slotOpened_of_partner (p := w) unused pick]
  let linked := linkSlots x i c n w
  have stream : linked.stream x = { state := .open, frameNumber := number, currentSlot := some i, cursor := 0,
                                    geom := (s.hw.eyeSettings x).geom, completed := false } :=
    (PerEye.get_set ..).trans (if_pos rfl)
  have timer : linked.matchTimer x.other c = .stopped := drained_matchTimer w x.other c false
  have queue : linked.pairs.queue = s.hw.pairs.queue ++ [linkRecord w n (linkSides x i c).1 (linkSides x i c).2] := rfl
  refine ⟨stream, congrArg SlotRecord.state ownLinked, congrArg SlotRecord.partner ownLinked, congrArg SlotRecord.pairNumber ownLinked,
    congrArg SlotRecord.pairTake ownLinked, congrArg SlotRecord.frameNumber ownLinked, partnerLinked, timer, rfl, queue.trans ?_,
    rfl, rfl, rfl, rfl, rfl⟩
  cases x with
  | left =>
    unfold linkRecord linkSides
    dsimp only
    rw [own, show w.slot .right c = s.hw.slot .right c from partner]
    rfl
  | right =>
    unfold linkRecord linkSides
    dsimp only
    rw [own, show w.slot .left c = s.hw.slot .left c from partner]
    rfl

end Sys2Proof.Machine

/-! SUPPORT. The latches of an EYE section at its stream (R4, R6, R7, R44, R174, R175). -/

namespace Sys2Proof.Machine

/-! ### The checks of a section whose pool cannot change -/

/-- Of the streams the checks see only whether this one is OFF (R44). -/
theorem validateEye_congr {p q : Part} {x : Eye} (rig : q.rig = p.rig) (slots : q.slots = p.slots)
    (off : (q.stream x).state = .off ↔ (p.stream x).state = .off) (ws : List Word) : validateEye q x ws = validateEye p x ws := by
  have settings (y : Eye) : q.eyeSettings y = p.eyeSettings y := congrArg (·.eye.get y) rig
  have pool (e : EyeSettings) : poolFits q x e = poolFits p x e := by
    rw [Bool.eq_iff_iff, poolFits_iff, poolFits_iff, settings, slots, off]
  have overlap (e : EyeSettings) : eyeOverlaps q x e = eyeOverlaps p x e := by
    unfold eyeOverlaps windowRegions rigRegion
    rw [settings, rig]
  cases read : parseEye ws with
  | none => rw [validateEye_of_unread read, validateEye_of_unread read]
  | some e => rw [validateEye_of_read read, validateEye_of_read read, pool, overlap]

/-- Outside OFF a section that passes keeps the pool layout (R44). -/
theorem keepsPool_of_ok {p : Part} {x : Eye} {ws : List Word} {e : EyeSettings} (passes : validateEye p x ws = .ok e)
    (notOff : (p.stream x).state ≠ .off) :
    e.poolBase = (p.eyeSettings x).poolBase ∧ e.slotCount = (p.eyeSettings x).slotCount ∧
      e.slotStride = (p.eyeSettings x).slotStride := by
  cases read : parseEye ws with
  | none => exact nomatch (validateEye_of_unread (p := p) (x := x) read).symm.trans passes
  | some v =>
    rw [validateEye_of_read read] at passes
    simp only [Bool.not_eq_true'] at passes
    split_ifs at passes with geometry band pool overlap
    obtain rfl := Except.ok.inj passes
    obtain ⟨_, same | ⟨off, _⟩⟩ := (poolFits_iff p x v).mp (by simpa using pool)
    · exact same
    · exact absurd off notOff

/-! ### The latch at a frame start (R7) -/

/-- The settings `e` in force, the section UNPOSTED, the pool as it was (R174). -/
def Part.latchedEye (p : Part) (x : Eye) (e : EyeSettings) : Part :=
  { p with rig := { p.rig with
      eye := p.rig.eye.set x e
      shadow := p.rig.shadow.set (.eye x) { p.rig.shadow.get (.eye x) with post := .unposted } } }

theorem putEye_of_kept {p : Part} {x : Eye} {e : EyeSettings} (kept : e.poolBase = (p.eyeSettings x).poolBase ∧
    e.slotCount = (p.eyeSettings x).slotCount ∧ e.slotStride = (p.eyeSettings x).slotStride) :
    putEye x e p = p.latchedEye x e := by
  rw [putEye_eq, if_pos kept]
  rfl

theorem frameStartLatch_of_ok {p : Part} {x : Eye} {e : EyeSettings} (posted : p.post (.eye x) = .posted)
    (passes : validateEye p x (p.staged (.eye x)) = .ok e) (notOff : (p.stream x).state ≠ .off) :
    frameStartLatch x p = (p.latchedEye x e, !e.enable) := by
  have latched : latchEye x p = (p.latchedEye x e, true) := by
    unfold latchEye
    rw [passes]
    exact congrArg (·, true) (putEye_of_kept (keepsPool_of_ok passes notOff))
  have settings : (p.latchedEye x e).eyeSettings x = e := (PerEye.get_set ..).trans (if_pos rfl)
  unfold frameStartLatch
  rw [if_pos posted, latched]
  dsimp only
  rw [settings, Bool.true_and]

theorem frameStartLatch_of_error {p : Part} {x : Eye} {reason : RejectReason} (posted : p.post (.eye x) = .posted)
    (fails : validateEye p x (p.staged (.eye x)) = .error reason) :
    frameStartLatch x p = (p.withRejected (.eye x) reason false, false) := by
  have latched : latchEye x p = (p.withRejected (.eye x) reason false, false) := by
    unfold latchEye
    rw [fails]
    exact congrArg (·, false) (rejectSection_eq ..)
  unfold frameStartLatch
  rw [if_pos posted, latched]
  rfl

theorem takeFrameStart_of_latch {p q : Part} {x : Eye} {disabled : Bool} (stamp : Stamp)
    (latch : frameStartLatch x p = (q, disabled)) :
    takeFrameStart x stamp p =
      if disabled then endInOff x (dropOpenFrame x .truncated q) else openFrame x stamp (dropOpenFrame x .truncated q) := by
  unfold takeFrameStart
  rw [latch]

/-! ### A rejected section -/

theorem withRejected_eq (p : Part) (k : Section) (reason : RejectReason) (loadFault : Bool) :
    p.withRejected k reason loadFault = { p with
      rig := { p.rig with shadow := p.rig.shadow.set k { p.rig.shadow.get k with post := .rejected } }
      report := (p.report.flagged .configRejected p.rig.global.alertEnables).queued p.now p.take
        (.configRejected reason k loadFault) p.rig.global.alertEnables } := by
  unfold Part.withRejected
  rw [queueRecord_eq, setFlag_eq]
  rfl

theorem told_withRejected (p : Part) (x : Eye) (rest : List StreamNotice) (k : Section) (reason : RejectReason) (loadFault : Bool) :
    (p.told x rest).withRejected k reason loadFault = (p.withRejected k reason loadFault).told x rest := by
  rw [withRejected_eq, withRejected_eq]
  rfl

end Sys2Proof.Machine

/-! SUPPORT. EYE sections at check words, departures and frame starts (R4, R6, R7, R8, R44, R174, R175). -/

namespace Sys2Proof.Machine

theorem awake_of_ne {state : StreamState} (notOff : state ≠ .off) (notWaiting : state ≠ .waitingSync) :
    ignoresFrames state = false :=
  Bool.eq_false_iff.mpr fun ignores => ((ignoresFrames_iff state).mp ignores).elim notOff notWaiting

/-- BETWEEN and SPILL: the stream takes frames and none is open. -/
def StreamState.closed (state : StreamState) : Prop := state = .between ∨ state = .spill

theorem StreamState.closed.notOff {state : StreamState} (closed : state.closed) : state ≠ .off := by
  rcases closed with rfl | rfl <;> decide

theorem StreamState.closed.notWaiting {state : StreamState} (closed : state.closed) : state ≠ .waitingSync := by
  rcases closed with rfl | rfl <;> decide

theorem StreamState.closed.notOpen {state : StreamState} (closed : state.closed) : state ≠ .open := by
  rcases closed with rfl | rfl <;> decide

theorem streamDeparture_of_closed {p : Part} {x : Eye} (closed : (p.stream x).state.closed) : streamDeparture x p = enterWaitingSync x p := by
  unfold streamDeparture
  rw [if_neg (by rw [awake_of_ne closed.notOff closed.notWaiting]; decide), dropOpenFrame_of_closed .syncLost closed.notOpen]

theorem endInOff_dropOpenFrame {p : Part} {x : Eye} {i : Nat} (isOpen : (p.stream x).state = .open)
    (current : (p.stream x).currentSlot = some i) :
    endInOff x (dropOpenFrame x .truncated p) = (abandon x i .truncated p).onStream x fun c =>
      { c with state := .off, currentSlot := none, completed := false } := by
  unfold endInOff
  rw [dropOpenFrame_of_open .truncated isOpen current, onStream_onStream]
  rfl

/-! ### A departure with a section posted (R6) -/

/-- The stream of `x` waits for lock (R6). -/
theorem departed_waits (p : Part) (x : Eye) : ((p.onStream x StreamCtx.departed).stream x).state = .waitingSync :=
  congrArg StreamCtx.state ((PerEye.get_set ..).trans (if_pos rfl))

theorem validateEye_departed {p : Part} {x : Eye} (notOff : (p.stream x).state ≠ .off) (ws : List Word) :
    validateEye (p.onStream x StreamCtx.departed) x ws = validateEye p x ws := by
  refine validateEye_congr (p := p) (q := p.onStream x StreamCtx.departed) rfl rfl ?_ ws
  rw [departed_waits]
  exact iff_of_false (by decide) notOff

theorem enterWaitingSync_of_error {p : Part} {x : Eye} {reason : RejectReason} (posted : p.post (.eye x) = .posted)
    (notOff : (p.stream x).state ≠ .off) (fails : validateEye p x (p.staged (.eye x)) = .error reason) :
    enterWaitingSync x p = (p.onStream x StreamCtx.departed).withRejected (.eye x) reason false := by
  rw [enterWaitingSync_eq]
  refine (if_pos posted).trans ?_
  rw [latchEyeIdle_of_error (p := p.onStream x StreamCtx.departed) ((validateEye_departed notOff _).trans fails), rejectSection_eq]

theorem enterWaitingSync_of_ok {p : Part} {x : Eye} {e : EyeSettings} (posted : p.post (.eye x) = .posted)
    (notOff : (p.stream x).state ≠ .off) (passes : validateEye p x (p.staged (.eye x)) = .ok e) :
    enterWaitingSync x p = (p.latchedEye x e).onStream x fun c =>
      { c with state := if e.enable = true then .waitingSync else .off, completed := false } := by
  have waits := departed_waits p x
  have next : (if e.enable = false then StreamState.off
      else if ((p.onStream x StreamCtx.departed).stream x).state = .off ∧ ((p.onStream x StreamCtx.departed).acq x).state = .locked then .between
      else .waitingSync) = if e.enable = true then .waitingSync else .off := by
    rw [waits]
    cases e.enable <;> rfl
  rw [enterWaitingSync_eq]
  refine (if_pos posted).trans ?_
  rw [latchEyeIdle_of_ok (p := p.onStream x StreamCtx.departed) ((validateEye_departed notOff _).trans passes) (.inr waits), next]
  have kept := keepsPool_of_ok passes notOff
  rw [if_pos (show e.poolBase = ((p.onStream x StreamCtx.departed).eyeSettings x).poolBase ∧
    e.slotCount = ((p.onStream x StreamCtx.departed).eyeSettings x).slotCount ∧
    e.slotStride = ((p.onStream x StreamCtx.departed).eyeSettings x).slotStride from kept)]
  simp only [Part.onStream, Part.latchedEye, Part.stream, PerEye.get_set, if_true, PerEye.set_set]
  rfl

/-- Settles O16: the frame start that disables, the check word, the posted section at a frame start and at a departure. -/
theorem frameStartDisablesTheEye : Obligations.FrameStartDisablesTheEye := by
  refine ⟨?_, ?_, ?_, ?_, ?_⟩
  · intro x stamp e rest s running head closed posted passes disabled
    have closed : (s.hw.stream x).state.closed := closed
    have latch := frameStartLatch_of_ok (p := s.hw.told x rest) posted passes closed.notOff
    rw [disabled] at latch
    refine exec_frameStart running head (awake_of_ne closed.notOff closed.notWaiting) ((takeFrameStart_of_latch stamp latch).trans ?_)
    exact congrArg (endInOff x) (dropOpenFrame_of_closed (p := (s.hw.told x rest).latchedEye x e) .truncated closed.notOpen)
  · intro x q k o s running accepts write whole state only idle words right
    obtain ⟨a, t, staged, last, step⟩ := exec_matchingCheckWord running accepts write whole state only right
    have due : latchIfDue (.eye x) (s.hw.handed q k a) = latchEyeIdle x (s.hw.handed q k a) := if_pos idle
    rw [due] at last step
    cases judged : validateEye s.hw x words with
    | error reason =>
      have rejected := latchEyeIdle_of_error (p := s.hw.handed q k a) ((congrArg (validateEye s.hw x) staged).trans judged)
      have queue := fun room => (rejectSection_report (k := .eye x) (reason := reason) (p := s.hw.handed q k a) room).2
      obtain ⟨report, flag, frame⟩ := rejectSection_frame (.eye x) reason false (s.hw.handed q k a)
      rw [frame] at queue
      rw [rejected.trans frame] at last step
      have post := (congrArg (·.post) last.kept).trans (post_of_set a (.eye x) .rejected)
      refine ⟨_, step, rfl, fun e impossible => (nomatch impossible), fun other same => ?_, rfl, rfl, rfl, rfl, rfl⟩
      obtain rfl := Except.error.inj same
      exact ⟨rfl, post, rfl, rfl, flag, queue⟩
    | ok e =>
      have passed := latchEyeIdle_of_ok (p := s.hw.handed q k a) ((congrArg (validateEye s.hw x) staged).trans judged) idle
      rw [passed] at last step
      have post := (congrArg (·.post) last.kept).trans (post_of_set a (.eye x) .unposted)
      refine ⟨_, step, rfl, fun f same => ?_, fun reason impossible => (nomatch impossible),
        (PerEye.get_set ..).trans (if_neg (Eye.ne_other x)), rfl, rfl, rfl, rfl⟩
      obtain rfl := Except.ok.inj same
      exact ⟨rfl, post, (PerEye.get_set ..).trans (if_pos rfl), rfl, rfl⟩
  · intro x stamp rest s running head notOff notWaiting posted latched
    have awake := awake_of_ne notOff notWaiting
    refine ⟨fun reason fails => ?_, fun e passes enabled => ?_, fun e i passes disabled isOpen current => ?_⟩
    · have latch := frameStartLatch_of_error (p := s.hw.told x rest) posted fails
      have isFrame := withRejected_eq s.hw (.eye x) reason false
      have quiet : (s.hw.withRejected (.eye x) reason false).post (.eye x) ≠ .posted := by
        rw [isFrame]
        exact ne_of_eq_of_ne (post_of_set s.hw.rig.shadow (.eye x) .rejected) (by decide)
      rw [told_withRejected] at latch
      refine ⟨_, _, exec_frameStart running head awake (takeFrameStart_of_latch stamp latch),
        exec_frameStart (s := { s with hw := s.hw.withRejected (.eye x) reason false }) (rest := rest) ?_ ?_ ?_
          (takeFrameStart_of_not_posted (p := (s.hw.withRejected (.eye x) reason false).told x rest) quiet), rfl, rfl⟩
      · rw [isFrame]
        exact running
      · rw [isFrame]
        exact head
      · rw [isFrame]
        exact awake
    · have latch := frameStartLatch_of_ok (p := s.hw.told x rest) posted passes notOff
      rw [enabled] at latch
      have quiet : (s.hw.latchedEye x e).post (.eye x) ≠ .posted :=
        ne_of_eq_of_ne (post_of_set s.hw.rig.shadow (.eye x) .unposted) (by decide)
      exact ⟨_, _, exec_frameStart running head awake (takeFrameStart_of_latch stamp latch),
        exec_frameStart (s := { s with hw := s.hw.latchedEye x e }) running head awake
          (takeFrameStart_of_not_posted (p := (s.hw.latchedEye x e).told x rest) quiet), rfl, rfl⟩
    · intro gone
      have latch := frameStartLatch_of_ok (p := s.hw.told x rest) posted passes notOff
      rw [disabled] at latch
      refine exec_frameStart running head awake ((takeFrameStart_of_latch stamp latch).trans ?_)
      exact endInOff_dropOpenFrame (p := (s.hw.told x rest).latchedEye x e) isOpen current
  · intro x reason rest s running head closed posted fails waiting
    have closed : (s.hw.stream x).state.closed := closed
    refine exec_lockLost running head ((streamDeparture_of_closed (p := s.hw.told x rest) closed).trans ?_)
    exact enterWaitingSync_of_error (p := s.hw.told x rest) posted closed.notOff fails
  · intro x e rest s running head closed posted passes
    have closed : (s.hw.stream x).state.closed := closed
    refine exec_lockLost running head ((streamDeparture_of_closed (p := s.hw.told x rest) closed).trans ?_)
    exact enterWaitingSync_of_ok (p := s.hw.told x rest) posted closed.notOff passes

end Sys2Proof.Machine

/-! SUPPORT. The slot request reads and writes no stream (R26, R27). -/

namespace Sys2Proof.Machine

theorem staying_congr {p q : Part} (same : ∀ r newer, retires p r newer = retires q r newer) (l : List PairRecord) :
    staying p l = staying q l := by
  induction l with
  | nil => rfl
  | cons r rs ih => rw [staying, staying, same, ih]

section
variable (p : Part) (y : Eye) (f : StreamCtx → StreamCtx)

theorem foldl_retireSlots_onStream (l : List PairRecord) :
    l.foldl retireSlots (p.onStream y f) = (l.foldl retireSlots p).onStream y f := by
  induction l generalizing p with
  | nil => rfl
  | cons r rs ih => exact ih (retireSlots p r)

theorem evaluatePrdy_onStream : evaluatePrdy (p.onStream y f) = (evaluatePrdy p).onStream y f := by
  unfold evaluatePrdy
  by_cases level : p.rig.global.prdyMode = .level
  · rw [if_pos level]
    exact if_pos level
  · rw [if_neg level]
    exact if_neg level

theorem evaluateRetirement_onStream : evaluateRetirement (p.onStream y f) = (evaluateRetirement p).onStream y f := by
  have retired : retiring (p.onStream y f) p.pairs.queue = retiring p p.pairs.queue :=
    retiring_congr (retires_congr (p := p.onStream y f) (q := p) rfl rfl) _
  have stays : staying (p.onStream y f) p.pairs.queue = staying p p.pairs.queue :=
    staying_congr (retires_congr (p := p.onStream y f) (q := p) rfl rfl) _
  have given := foldl_retireSlots_onStream (p.onPairs fun m => { m with queue := staying p m.queue }) y f (retiring p p.pairs.queue)
  have begun : (p.onStream y f).onPairs (fun m => { m with queue := staying (p.onStream y f) m.queue }) =
      (p.onPairs fun m => { m with queue := staying p m.queue }).onStream y f := by
    unfold Part.onPairs
    dsimp only
    rw [Part.onStream_pairs, stays]
    rfl
  unfold evaluateRetirement
  dsimp only
  rw [begun, Part.onStream_pairs, retired, given]
  split
  · rfl
  · exact evaluatePrdy_onStream ..

theorem frameLost_onStream (x : Eye) (why : LostReason) (frame : Word) (stamp : Stamp) (pair : Option Nat) (take : Option Word)
    (slot : Option Nat) (ended : Bool) :
    frameLost x why frame stamp pair take slot ended (p.onStream y f) =
      (frameLost x why frame stamp pair take slot ended p).onStream y f := by
  unfold frameLost
  rw [queueRecord_eq, queueRecord_eq, setFlag_eq, setFlag_eq]
  rfl

theorem grantSlot_onStream (x : Eye) (i : Nat) (frame : Word) (stamp : Stamp) (g : Geometry) :
    grantSlot x i frame stamp g (p.onStream y f) = (grantSlot x i frame stamp g p).onStream y f := by
  unfold grantSlot
  rw [slotOpened_onStream]
  rfl

theorem requestSlot_onStream (x : Eye) (frame : Word) (stamp : Stamp) (g : Geometry) :
    requestSlot x frame stamp g (p.onStream y f) =
      ((requestSlot x frame stamp g p).1.onStream y f, (requestSlot x frame stamp g p).2) := by
  unfold requestSlot
  dsimp only
  rw [evaluateRetirement_onStream, Part.onStream_slots, Part.onStream_slots]
  split
  · rw [grantSlot_onStream]
  · split
    · rw [grantSlot_onStream]
    · rw [frameLost_onStream]

end

end Sys2Proof.Machine

/-! SUPPORT. No abandonment posts, latches or rejects an EYE section (R57, R83, R90): the walk through what it can set off. -/

namespace Sys2Proof.Machine

/-- The EYE sections of `q` stand posted as those of `p`. -/
structure Part.KeepsEyes (p q : Part) : Prop where
  post : ∀ x, q.post (.eye x) = p.post (.eye x)

namespace Part.KeepsEyes

theorem refl (p : Part) : p.KeepsEyes p := ⟨fun _ => rfl⟩

theorem trans {p q u : Part} (first : p.KeepsEyes q) (next : q.KeepsEyes u) : p.KeepsEyes u :=
  ⟨fun x => (next.post x).trans (first.post x)⟩

theorem of_rig {p q : Part} (same : q.rig = p.rig) : p.KeepsEyes q :=
  ⟨fun x => congrArg (fun u => (u.shadow.get (.eye x)).post) same⟩

end Part.KeepsEyes

/-! ### The operations that leave the rig unit alone -/

theorem evaluateRetirement_keepsEyes (p : Part) : p.KeepsEyes (evaluateRetirement p) := .of_rig (evaluateRetirement_rig p)

theorem attemptTake_keepsEyes (r : ReaderId) (p : Part) : p.KeepsEyes (attemptTake r p).1 := by
  have chosen := (choosePair_keeps r p).rig
  unfold attemptTake
  split <;> rename_i choice <;> rw [choice] at chosen
  · split
    · rename_i k _
      obtain ⟨pairs, slots, accepted⟩ := acceptTake_frame r k (choosePair r p).1
      rw [choice] at accepted
      rw [accepted]
      exact .of_rig chosen
    · exact .of_rig chosen
  · exact .of_rig chosen

theorem answerAtOnce_keepsEyes (e : Nat) (c : Code) (p : Part) : p.KeepsEyes (answerAtOnce e c p) := by
  unfold answerAtOnce
  split
  · exact .refl p
  · exact .of_rig rfl

theorem refuseRead_keepsEyes (e : Nat) (p : Part) : p.KeepsEyes (refuseRead e p) :=
  (answerAtOnce_keepsEyes e .rejected p).trans (.of_rig rfl)

theorem frameLost_keepsEyes (p : Part) (x : Eye) (why : LostReason) (frame : Word) (stamp : Stamp) (pair : Option Nat)
    (take : Option Word) (slot : Option Nat) (ended : Bool) :
    p.KeepsEyes (frameLost x why frame stamp pair take slot ended p) := by
  unfold frameLost
  rw [queueRecord_eq, setFlag_eq]
  exact .of_rig rfl

/-! ### The latches on the way: READER sections alone, and a window change -/

theorem setPost_reader_keepsEyes (p : Part) (r : ReaderId) (v : PostState) : p.KeepsEyes (p.setPost (.reader r) v) := by
  refine ⟨fun x => ?_⟩
  have other : (p.setPost (.reader r) v).rig.shadow.get (.eye x) = p.rig.shadow.get (.eye x) := by
    have differs : Section.reader r ≠ .eye x := nofun
    exact (Shadow.get_set p.rig.shadow (.reader r) (.eye x) _).trans (if_neg differs)
  exact congrArg SectionShadow.post other

theorem latchReaderIfPosted_keepsEyes (r : ReaderId) (p : Part) : p.KeepsEyes (latchReaderIfPosted r p) := by
  unfold latchReaderIfPosted latchReader
  split
  · split
    · rename_i reason _
      obtain ⟨report, _, rejected⟩ := rejectSection_frame (.reader r) reason false p
      rw [rejected]
      exact ⟨(setPost_reader_keepsEyes p r .rejected).post⟩
    · rename_i v _
      obtain ⟨pairs, slots, latched⟩ := putReader_frame r v p
      rw [latched]
      exact ⟨(setPost_reader_keepsEyes p r .unposted).post⟩
  · exact .refl p

theorem checkWindow_keepsEyes (p : Part) : p.KeepsEyes (checkWindow p) := by
  unfold checkWindow
  split
  · exact .refl p
  · split <;> exact ⟨fun _ => rfl⟩

theorem release_keepsEyes (r : ReaderId) (latch : Bool) (p : Part) : p.KeepsEyes (release r latch p) := by
  unfold release
  split
  · exact .refl p
  · rename_i h _
    have freed : p.KeepsEyes (p.onReader r ReaderCtx.released) := .of_rig rfl
    have latched : p.KeepsEyes (if latch then latchReaderIfPosted r (p.onReader r ReaderCtx.released) else p.onReader r ReaderCtx.released) := by
      split
      · exact freed.trans (latchReaderIfPosted_keepsEyes r _)
      · exact freed
    have checked := latched.trans (checkWindow_keepsEyes _)
    have settled (u : Part) : u.KeepsEyes (evaluateRetirement (onHolders h (· - 1) u)) := .of_rig (evaluateRetirement_rig _)
    exact checked.trans (settled _)

/-! ### The reads that are served -/

theorem boundRead_keepsEyes (r : ReaderId) (e o n : Nat) (p : Part) : p.KeepsEyes (boundRead r e o n p) := by
  unfold boundRead
  split
  · exact refuseRead_keepsEyes e p
  · rename_i k _
    have translated : p.KeepsEyes (translateRead k e o n p) := by
      obtain ⟨slots, req, txn, frame⟩ := translateRead_frame k e o n p
      rw [frame]
      exact .of_rig rfl
    split
    · exact refuseRead_keepsEyes e p
    · dsimp only
      split
      · exact translated.trans (release_keepsEyes r true _)
      · exact translated

theorem takenRead_keepsEyes (r : ReaderId) (e o n : Nat) (p : Part) : p.KeepsEyes (takenRead r e o n p) := by
  have away (inside : Bool) : p.KeepsEyes (if inside then p.onReader r fun c => { c with away := o != 0 } else p) := by
    cases inside
    · exact .refl p
    · exact .of_rig rfl
  exact (away _).trans (boundRead_keepsEyes r e o n _)

theorem failedTake_keepsEyes (r : ReaderId) (e o n : Nat) (p : Part) : p.KeepsEyes (failedTake r e o n p) := by
  unfold failedTake
  split
  · exact .of_rig rfl
  · exact (answerAtOnce_keepsEyes e .noPair p).trans (latchReaderIfPosted_keepsEyes r _)

theorem takeRead_keepsEyes (r : ReaderId) (e o n : Nat) (p : Part) : p.KeepsEyes (takeRead r e o n p) := by
  have attempted := attemptTake_keepsEyes r p
  unfold takeRead
  split <;> rename_i attempt <;> rw [attempt] at attempted
  · exact attempted.trans (takenRead_keepsEyes r e o n _)
  · exact attempted.trans (failedTake_keepsEyes r e o n _)

theorem readerRead_keepsEyes (r : ReaderId) (e o n : Nat) (p : Part) : p.KeepsEyes (readerRead r e o n p) := by
  unfold readerRead
  split
  · exact takeRead_keepsEyes r e o n p
  · split
    · exact (release_keepsEyes r false p).trans (takeRead_keepsEyes r e o n _)
    · have restarted : p.KeepsEyes (p.onReader r fun c => { c with lease := .running (leaseTicks p r), away := c.away || o != 0 }) :=
        .of_rig rfl
      exact restarted.trans (boundRead_keepsEyes r e o n _)
  · split
    · exact .of_rig rfl
    · exact answerAtOnce_keepsEyes e .noPair p
  · exact refuseRead_keepsEyes e p

/-! ### The announcement of a removal -/

theorem removeParked_keepsEyes (e : Nat) (p : Part) : p.KeepsEyes (removeParked e p) := .of_rig rfl

theorem processParkedReads_keepsEyes (r : ReaderId) (l : List ParkedRead) (p : Part) : p.KeepsEyes (processParkedReads r l p) := by
  induction l generalizing p with
  | nil => exact .refl p
  | cons k ks ih =>
    unfold processParkedReads
    split
    · have attempted := attemptTake_keepsEyes r p
      split <;> rename_i attempt <;> rw [attempt] at attempted
      · exact ((attempted.trans (removeParked_keepsEyes ..)).trans (takenRead_keepsEyes ..)).trans (ih _)
      · exact attempted.trans (.of_rig rfl)
    · exact ((removeParked_keepsEyes ..).trans (readerRead_keepsEyes ..)).trans (ih _)

theorem attemptParked_keepsEyes (r : ReaderId) (p : Part) : p.KeepsEyes (attemptParked r p) := by
  unfold attemptParked
  split
  · have attempted := attemptTake_keepsEyes r p
    split <;> rename_i attempt <;> rw [attempt] at attempted
    · exact attempted.trans (processParkedReads_keepsEyes r _ _)
    · exact attempted
  · exact .refl p

theorem announceRemoval_keepsEyes (p : Part) : p.KeepsEyes (announceRemoval p) := by
  unfold announceRemoval
  generalize parkedReaders p = l
  induction l generalizing p with
  | nil => exact .refl p
  | cons r rs ih =>
    have step : p.KeepsEyes (if (p.readerSettings r).policy = .every then attemptParked r p else p) := by
      split
      · exact attemptParked_keepsEyes r p
      · exact .refl p
    exact step.trans (ih _)

/-! ### The abandonment -/

theorem abandonBy_keepsEyes {notice : Part → Part} (told : ∀ q : Part, q.KeepsEyes (notice q)) (x : Eye) (i : Nat) (why : LostReason)
    (p : Part) : p.KeepsEyes (abandonBy notice x i why p) := by
  unfold abandonBy
  dsimp only
  split
  · refine .trans (.trans (.trans ?_ (told _)) (frameLost_keepsEyes ..)) (.of_rig rfl)
    split <;> exact .of_rig rfl
  · exact .refl p

theorem noticeWithoutRecord_keepsEyes (x : Eye) (i : Nat) (p : Part) : p.KeepsEyes (noticeWithoutRecord x i p) := by
  have stopped : p.KeepsEyes (p.setMatchTimer x i .stopped) := .of_rig rfl
  exact stopped.trans (evaluateRetirement_keepsEyes _)

theorem abandonPartner_keepsEyes (x : Eye) (i : Nat) (p : Part) : p.KeepsEyes (abandonPartner x i p) :=
  abandonBy_keepsEyes (noticeWithoutRecord_keepsEyes x i) x i .partnerLost p

theorem removeRecord_keepsEyes (q : PairRecord) (x : Eye) (p : Part) : p.KeepsEyes (removeRecord q x p) := by
  have unlisted : p.KeepsEyes (p.onPairs fun m => { m with queue := m.queue.filter fun r => r != q }) := .of_rig rfl
  have removed := unlisted.trans (abandonPartner_keepsEyes x.other (q.slotOf x.other) _)
  unfold removeRecord
  dsimp only
  split
  · exact removed.trans (announceRemoval_keepsEyes _)
  · exact removed

theorem abandonNotice_keepsEyes (x : Eye) (i : Nat) (p : Part) : p.KeepsEyes (abandonNotice x i p) := by
  have stopped : p.KeepsEyes (p.setMatchTimer x i .stopped) := .of_rig rfl
  unfold abandonNotice
  dsimp only
  split
  · exact stopped.trans (evaluateRetirement_keepsEyes _)
  · split
    · exact stopped.trans (.trans (removeRecord_keepsEyes _ x _) (evaluateRetirement_keepsEyes _))
    · exact stopped.trans (evaluateRetirement_keepsEyes _)

theorem abandon_keepsEyes (x : Eye) (i : Nat) (why : LostReason) (p : Part) : p.KeepsEyes (abandon x i why p) :=
  abandonBy_keepsEyes (abandonNotice_keepsEyes x i) x i why p

end Sys2Proof.Machine

/-! SUPPORT. What the numbering and the slot request of a frame start do and keep (R9, R10, R26, R27, R50 to R52). -/

namespace Sys2Proof.Machine

/-! ### FRAME_LOST of a request with no slot (R27, R36) -/

section
variable (p : Part) (x : Eye) (why : LostReason) (frame : Word) (stamp : Stamp) (pair : Option Nat) (take : Option Word)
  (slot : Option Nat) (ended : Bool)

theorem frameLost_onlyReports : p.OnlyReports (frameLost x why frame stamp pair take slot ended p) :=
  ((setFlag_onlyReports .frameLost p).trans (raise_onlyReports ..)).trans (queueRecord_onlyReports ..)

theorem frameLost_count (sized : p.report.counters.length = 20) (c : LostReason) :
    (frameLost x why frame stamp pair take slot ended p).count (.lost c) =
      if c = why then p.count (.lost c) + 1 else p.count (.lost c) := by
  have flagged : (setFlag .frameLost p).report.counters.length = 20 := by rw [setFlag_counters, sized]
  have raised : (raise (.lost why) (setFlag .frameLost p)).report.counters.length = 20 := by
    rw [raise, raiseBy_length, flagged]
  refine (queueRecord_count _ _ _ _ (.lost c) raised (by intro same; cases same)).trans ?_
  rw [raise_count _ _ _ flagged, count_of_counters (setFlag_counters ..)]
  simp

theorem frameLost_length :
    (frameLost x why frame stamp pair take slot ended p).report.counters.length = p.report.counters.length := by
  refine (queueRecord_length ..).trans ?_
  rw [raise, raiseBy_length, setFlag_counters]

theorem frameLost_flag : (frameLost x why frame stamp pair take slot ended p).report.flags.getLsbD EventFlag.frameLost.bit = true :=
  queueRecord_keeps _ _ _ _ _ (setFlag_bit _ _)

theorem frameLost_flags_keep (b : Nat) (set : p.report.flags.getLsbD b = true) :
    (frameLost x why frame stamp pair take slot ended p).report.flags.getLsbD b = true :=
  queueRecord_keeps _ _ _ _ _ (setFlag_keeps _ _ _ set)

theorem frameLost_record (room : p.report.queue.length < 16) :
    (frameLost x why frame stamp pair take slot ended p).report.queue = p.report.queue ++
      [{ seq := p.report.seq, stamp := stamp, take := take.getD p.take, body := .frameLost why frame pair x slot ended }] := by
  have raised : (raise (.lost why) (setFlag .frameLost p)).report.queue = p.report.queue := setFlag_queue ..
  have seq : (raise (.lost why) (setFlag .frameLost p)).report.seq = p.report.seq := setFlag_seq ..
  have told := queueRecord_room stamp (take.getD p.take) (.frameLost why frame pair x slot ended) _ (show
      (raise (.lost why) (setFlag .frameLost p)).report.queue.length < 16 by rw [raised]; exact room)
  rw [raised, seq] at told
  exact congrArg (fun u : Part => u.report.queue) told

theorem frameLost_later : ∃ later, (frameLost x why frame stamp pair take slot ended p).report.queue = p.report.queue ++ later := by
  by_cases room : p.report.queue.length < 16
  · exact ⟨_, frameLost_record p x why frame stamp pair take slot ended room⟩
  · have raised : (raise (.lost why) (setFlag .frameLost p)).report.queue = p.report.queue := setFlag_queue ..
    refine ⟨[], ?_⟩
    unfold frameLost queueRecord
    rw [if_neg (show ¬(raise (.lost why) (setFlag .frameLost p)).report.queue.length < Config.reportDepth by rw [raised]; exact room),
      setFlag_queue, List.append_nil]
    exact raised

end

/-! ### What a frame start keeps once no frame is open -/

/-- The slots of `x` that drain and those of the other eye that no partner takes; stopped timers, FORMING records; what has been
counted of other losses, flagged and recorded (R26, R34, R36, R50 to R52). -/
structure Part.FrameStartKeeps (p t : Part) (x : Eye) : Prop where
  otherStream : t.stream x.other = p.stream x.other
  draining : ∀ i, (p.slot x i).state = .draining → t.slot x i = p.slot x i ∧ t.matchTimer x i = p.matchTimer x i
  idle : ∀ j, (p.slot x.other j).state.live = false → (p.slot x.other j).state ≠ .paired → t.slot x.other j = p.slot x.other j
  stopped : ∀ j, p.matchTimer x.other j = .stopped → t.matchTimer x.other j = .stopped
  forming : ∀ k ∈ p.pairs.queue, k.state = .forming → k ∈ t.pairs.queue
  length : t.report.counters.length = p.report.counters.length
  count : p.report.counters.length = 20 → ∀ c, c ≠ .starved → t.count (.lost c) = p.count (.lost c)
  flags : ∀ b, p.report.flags.getLsbD b = true → t.report.flags.getLsbD b = true
  later : ∃ later, t.report.queue = p.report.queue ++ later

namespace Part.FrameStartKeeps

theorem trans {p q t : Part} {x : Eye} (first : p.FrameStartKeeps q x) (next : q.FrameStartKeeps t x) : p.FrameStartKeeps t x where
  otherStream := next.otherStream.trans first.otherStream
  draining i drains := by
    obtain ⟨slot, timer⟩ := first.draining i drains
    obtain ⟨slot', timer'⟩ := next.draining i (slot ▸ drains)
    exact ⟨slot'.trans slot, timer'.trans timer⟩
  idle j notLive notPaired := by
    have slot := first.idle j notLive notPaired
    exact (next.idle j (slot ▸ notLive) (slot ▸ notPaired)).trans slot
  stopped j still := next.stopped j (first.stopped j still)
  forming k listed forming := next.forming k (first.forming k listed forming) forming
  length := next.length.trans first.length
  count sized c other := (next.count (first.length.trans sized) c other).trans (first.count sized c other)
  flags b set := next.flags b (first.flags b set)
  later := by
    obtain ⟨early, queue⟩ := first.later
    obtain ⟨late, queue'⟩ := next.later
    exact ⟨early ++ late, by rw [queue', queue, List.append_assoc]⟩

/-- An operation that leaves the report unit alone. -/
theorem of_report {p t : Part} {x : Eye} (report : t.report = p.report) (otherStream : t.stream x.other = p.stream x.other)
    (draining : ∀ i, (p.slot x i).state = .draining → t.slot x i = p.slot x i ∧ t.matchTimer x i = p.matchTimer x i)
    (idle : ∀ j, (p.slot x.other j).state.live = false → (p.slot x.other j).state ≠ .paired →
      t.slot x.other j = p.slot x.other j)
    (stopped : ∀ j, p.matchTimer x.other j = .stopped → t.matchTimer x.other j = .stopped)
    (forming : ∀ k ∈ p.pairs.queue, k.state = .forming → k ∈ t.pairs.queue) : p.FrameStartKeeps t x where
  otherStream := otherStream
  draining := draining
  idle := idle
  stopped := stopped
  forming := forming
  length := congrArg (·.counters.length) report
  count _ c _ := count_of_counters (congrArg ReportUnit.counters report) (.lost c)
  flags b set := by rw [report, set]
  later := ⟨[], by rw [report, List.append_nil]⟩

end Part.FrameStartKeeps

theorem onStream_frameStartKeeps (p : Part) (x : Eye) (f : StreamCtx → StreamCtx) : p.FrameStartKeeps (p.onStream x f) x :=
  .of_report rfl ((PerEye.get_set ..).trans (if_neg (Eye.ne_other x))) (fun _ _ => ⟨rfl, rfl⟩) (fun _ _ _ => rfl) (fun _ still => still)
    fun _ listed _ => listed

theorem evaluateRetirement_frameStartKeeps (p : Part) (x : Eye) : p.FrameStartKeeps (evaluateRetirement p) x :=
  .of_report (evaluateRetirement_report p) (congrArg (PerEye.get · x.other) (evaluateRetirement_streams p))
    (fun i drains => ⟨evaluateRetirement_slot_of_not_paired (by rw [drains]; decide), evaluateRetirement_matchTimer p x i⟩)
    (fun _ _ notPaired => evaluateRetirement_slot_of_not_paired notPaired)
    (fun j still => (evaluateRetirement_matchTimer p x.other j).trans still)
    fun k listed forming => by
      rw [evaluateRetirement_queue]
      exact mem_staying_of_forming listed forming

theorem frameLost_frameStartKeeps (p : Part) (x : Eye) (frame : Word) (stamp : Stamp) (pair : Option Nat) (take : Option Word)
    (slot : Option Nat) (ended : Bool) :
    p.FrameStartKeeps (frameLost x .starved frame stamp pair take slot ended p) x := by
  have only := frameLost_onlyReports p x .starved frame stamp pair take slot ended
  have length := frameLost_length p x .starved frame stamp pair take slot ended
  have count := frameLost_count p x .starved frame stamp pair take slot ended
  have flags := frameLost_flags_keep p x .starved frame stamp pair take slot ended
  have later := frameLost_later p x .starved frame stamp pair take slot ended
  generalize frameLost x .starved frame stamp pair take slot ended p = t at *
  have streams : t.streams = p.streams := by rw [only]
  have slots : t.slots = p.slots := by rw [only]
  have pairs : t.pairs = p.pairs := by rw [only]
  have sameSlot (y : Eye) (j : Nat) : t.slot y j = p.slot y j := congrArg (fun l => (l.get y).getD j SlotRecord.free) slots
  have sameTimer (y : Eye) (j : Nat) : t.matchTimer y j = p.matchTimer y j :=
    congrArg (fun m => (m.matchTimers.get y).getD j .stopped) pairs
  exact ⟨congrArg (PerEye.get · x.other) streams, fun i _ => ⟨sameSlot x i, sameTimer x i⟩, fun j _ _ => sameSlot x.other j,
    fun j still => (sameTimer x.other j).trans still, fun k listed _ => by rw [pairs]; exact listed, length,
    fun sized c other => (count sized c).trans (if_neg other), flags, later⟩

/-! ### The slot that opens -/

theorem opened_slot_other_index (p : Part) (x : Eye) {i j : Nat} (stamp : Stamp) (other : i ≠ j) :
    (p.opened x i stamp).slot x j = p.slot x j := by
  unfold Part.opened Part.slot
  rw [PerEye.get_set, if_pos rfl, List.getD_eq_getElem?_getD, List.getElem?_set_ne other, List.getD_eq_getElem?_getD]

theorem opened_frameStartKeeps {p : Part} {x : Eye} {i : Nat} (stamp : Stamp) (free : (p.slot x i).state = .free) :
    p.FrameStartKeeps (p.opened x i stamp) x :=
  .of_report rfl ((PerEye.get_set ..).trans (if_neg (Eye.ne_other x)))
    (fun j drains => ⟨opened_slot_other_index p x stamp fun same => by
      rw [← same, free] at drains
      exact (nomatch drains), rfl⟩)
    (fun j _ _ => congrArg (·.getD j SlotRecord.free) (opened_slots_other p x i stamp)) (fun _ still => still)
    fun _ listed _ => listed

theorem setMatchTimer_other_index (p : Part) (x : Eye) {i j : Nat} (t : Timer) (other : i ≠ j) :
    (p.setMatchTimer x i t).matchTimer x j = p.matchTimer x j := by
  unfold Part.matchTimer
  rw [Part.setMatchTimer_pairs]
  dsimp only
  rw [PerEye.get_set, if_pos rfl, List.getD_eq_getElem?_getD, List.getElem?_set_ne other, List.getD_eq_getElem?_getD]

theorem setMatchTimer_other_eye (p : Part) {x y : Eye} (i j : Nat) (t : Timer) (other : x ≠ y) :
    (p.setMatchTimer x i t).matchTimer y j = p.matchTimer y j := by
  unfold Part.matchTimer
  rw [Part.setMatchTimer_pairs]
  dsimp only
  rw [PerEye.get_set, if_neg other]

theorem startMatchTimer_frameStartKeeps {p : Part} {x : Eye} {i : Nat} (notDraining : (p.slot x i).state ≠ .draining) :
    p.FrameStartKeeps (startMatchTimer x i p) x :=
  .of_report rfl rfl
    (fun _ drains => ⟨rfl, setMatchTimer_other_index p x _ fun same => notDraining (same ▸ drains)⟩) (fun _ _ _ => rfl)
    (fun _ still => (setMatchTimer_other_eye p i _ _ (Eye.ne_other x)).trans still) fun _ listed _ => listed

theorem linkSlots_frameStartKeeps {p : Part} {x : Eye} {i c : Nat} (n : Nat) (notDraining : (p.slot x i).state ≠ .draining)
    (live : (p.slot x.other c).state.live = true) : p.FrameStartKeeps (linkSlots x i c n p) x := by
  have slot (y : Eye) (j : Nat) : (linkSlots x i c n p).slot y j =
      ((p.onSlot x i (SlotRecord.link c n p.take)).onSlot x.other c (SlotRecord.link i n p.take)).slot y j := rfl
  have timer (y : Eye) (j : Nat) : (linkSlots x i c n p).matchTimer y j = (p.setMatchTimer x.other c .stopped).matchTimer y j := rfl
  have isNot {j : Nat} (drains : (p.slot x j).state = .draining) : i ≠ j := fun same => notDraining (same ▸ drains)
  have notTaken {j : Nat} (notLive : (p.slot x.other j).state.live = false) : c ≠ j := fun same => by
    rw [same, notLive] at live
    exact nomatch live
  refine .of_report rfl rfl (fun j drains => ⟨?_, ?_⟩) (fun j notLive _ => ?_) (fun j still => ?_) fun k listed _ => ?_
  · rw [slot, slot_onSlot_eq (link_free i n p.take), if_neg fun both => Eye.other_ne x both.1, slot_onSlot_eq (link_free c n p.take),
      if_neg fun both => isNot drains both.2]
  · rw [timer, setMatchTimer_other_eye p c j _ (Eye.other_ne x)]
  · rw [slot, slot_onSlot_eq (link_free i n p.take), if_neg fun both => notTaken notLive both.2,
      slot_onSlot_eq (link_free c n p.take), if_neg fun both => Eye.ne_other x both.1]
  · rw [timer]
    by_cases same : c = j
    · subst same
      exact drained_matchTimer p x.other c false
    · rw [setMatchTimer_other_index p x.other _ same, still]
  · exact List.mem_append_left _ listed

theorem slotOpened_cases (p : Part) (x : Eye) (i : Nat) : slotOpened x i p = startMatchTimer x i p ∨
    ∃ n c, (p.slot x.other c).state.live = true ∧ slotOpened x i p = linkSlots x i c n p := by
  cases number : p.pairs.nextNumber with
  | none => exact .inl (slotOpened_of_alone (.inl number))
  | some n =>
    cases partner : pickCandidate p x.other (p.slot x i).startStamp (p.slot x i).geom with
    | none => exact .inl (slotOpened_of_alone (.inr partner))
    | some c =>
      obtain ⟨_, live, _⟩ := pickCandidate_inReach partner
      exact .inr ⟨n, c, (live_iff _).mpr live, slotOpened_of_partner number partner⟩

theorem slotOpened_frameStartKeeps {p : Part} {x : Eye} {i : Nat} (notDraining : (p.slot x i).state ≠ .draining) :
    p.FrameStartKeeps (slotOpened x i p) x := by
  rcases slotOpened_cases p x i with alone | ⟨n, c, live, linked⟩
  · rw [alone]
    exact startMatchTimer_frameStartKeeps notDraining
  · rw [linked]
    exact linkSlots_frameStartKeeps n notDraining live

end Sys2Proof.Machine

/-! SUPPORT. The numbering of a frame and the outcome of its slot request (R8 to R10, R26, R27). -/

namespace Sys2Proof.Machine

/-! ### The three outcomes of the slot request -/

theorem lowestFree_eq_none_iff (l : List SlotRecord) : lowestFree l = none ↔ ∀ r ∈ l, r.state ≠ .free := by
  refine (firstIndex_eq_none_iff _ l).trans (forall₂_congr fun r _ => ?_)
  rw [Bool.eq_false_iff, ne_eq, beq_iff_eq]

theorem lowestFree_eq_some {l : List SlotRecord} {i : Nat} (free : ∃ r, l[i]? = some r ∧ r.state = .free)
    (before : ∀ r ∈ l.take i, r.state ≠ .free) : lowestFree l = some i := by
  obtain ⟨r, found, isFree⟩ := free
  refine (firstIndex_eq_some_iff _ l i).mpr ⟨⟨r, found, beq_iff_eq.mpr isFree⟩, fun n small a at_n => ?_⟩
  rw [Bool.eq_false_iff, ne_eq, beq_iff_eq]
  exact before a (List.mem_of_getElem? (i := n) (by rw [List.getElem?_take_of_lt small, at_n]))

/-- The slot of an index found FREE is FREE. -/
theorem slot_of_lowestFree {p : Part} {x : Eye} {i : Nat} (free : lowestFree (p.slots.get x) = some i) : (p.slot x i).state = .free := by
  obtain ⟨⟨r, found, isFree⟩, _⟩ := (firstIndex_eq_some_iff _ _ i).mp free
  unfold Part.slot
  rw [List.getD_eq_getElem?_getD, found]
  exact beq_iff_eq.mp isFree

section
variable {p : Part} {x : Eye} (frame : Word) (stamp : Stamp) (g : Geometry)

theorem requestSlot_of_free {i : Nat} (free : lowestFree (p.slots.get x) = some i) :
    requestSlot x frame stamp g p = (grantSlot x i frame stamp g p, some i) := by
  unfold requestSlot
  rw [free]

theorem requestSlot_of_run {i : Nat} (full : lowestFree (p.slots.get x) = none)
    (freed : lowestFree ((evaluateRetirement p).slots.get x) = some i) :
    requestSlot x frame stamp g p = (grantSlot x i frame stamp g (evaluateRetirement p), some i) := by
  unfold requestSlot
  rw [full]
  dsimp only
  rw [freed]

theorem requestSlot_of_none (full : lowestFree (p.slots.get x) = none)
    (still : lowestFree ((evaluateRetirement p).slots.get x) = none) :
    requestSlot x frame stamp g p = (frameLost x .starved frame stamp none none none false (evaluateRetirement p), none) := by
  unfold requestSlot
  rw [full]
  dsimp only
  rw [still]

end

theorem slotOpened_streams (p : Part) (x : Eye) (i : Nat) : (slotOpened x i p).streams = p.streams := by
  rcases slotOpened_cases p x i with alone | ⟨n, c, _, linked⟩
  · rw [alone]
    rfl
  · rw [linked]
    rfl

theorem requestSlot_streams (p : Part) (x : Eye) (frame : Word) (stamp : Stamp) (g : Geometry) :
    (requestSlot x frame stamp g p).1.streams = p.streams := by
  have granted (q : Part) (i : Nat) : (grantSlot x i frame stamp g q).streams = q.streams := slotOpened_streams ..
  cases found : lowestFree (p.slots.get x) with
  | some i => rw [requestSlot_of_free frame stamp g found, granted]
  | none =>
    cases freed : lowestFree ((evaluateRetirement p).slots.get x) with
    | some i => rw [requestSlot_of_run frame stamp g found freed, granted, evaluateRetirement_streams]
    | none =>
      rw [requestSlot_of_none frame stamp g found freed,
        frameLost_onlyReports (evaluateRetirement p) x .starved frame stamp none none none false, evaluateRetirement_streams]

/-! ### The stream of a frame start -/

/-- The stream with its next frame numbered under the geometry `g` (R9). -/
def StreamCtx.numbered (g : Geometry) (c : StreamCtx) : StreamCtx :=
  { c with frameNumber := c.frameNumber + 1, completed := false, geom := g }

/-- The stream by the outcome of its slot request (R9, R10). -/
def StreamCtx.placed (slot : Option Nat) (c : StreamCtx) : StreamCtx :=
  match slot with
  | some i => { c with state := .open, currentSlot := some i, cursor := 0 }
  | none => { c with state := .spill, currentSlot := none }

theorem placeFrame_eq (x : Eye) (slot : Option Nat) (p : Part) : placeFrame x slot p = p.onStream x (StreamCtx.placed slot) := by
  cases slot <;> rfl

/-- The slot request of the next frame of stream `x` (R9, R26). -/
def nextRequest (x : Eye) (stamp : Stamp) (p : Part) : Part × Option Nat :=
  requestSlot x ((p.stream x).frameNumber + 1) stamp (p.eyeSettings x).geom p

theorem openFrame_eq (x : Eye) (stamp : Stamp) (p : Part) :
    openFrame x stamp p = (nextRequest x stamp p).1.onStream x
      (StreamCtx.placed (nextRequest x stamp p).2 ∘ StreamCtx.numbered (p.eyeSettings x).geom) := by
  have numbered : numberFrame x p = p.onStream x (StreamCtx.numbered (p.eyeSettings x).geom) := rfl
  have request := requestSlot_onStream p x (StreamCtx.numbered (p.eyeSettings x).geom) x ((p.stream x).frameNumber + 1) stamp
    (p.eyeSettings x).geom
  unfold openFrame
  dsimp only
  rw [numberFrame_stream, numbered, request, placeFrame_eq, onStream_onStream]
  rfl

theorem openFrame_stream (x : Eye) (stamp : Stamp) (p : Part) : (openFrame x stamp p).stream x =
    StreamCtx.placed (nextRequest x stamp p).2 (StreamCtx.numbered (p.eyeSettings x).geom (p.stream x)) := by
  rw [openFrame_eq]
  refine (PerEye.get_set ..).trans ((if_pos rfl).trans ?_)
  rw [nextRequest, requestSlot_streams]
  rfl

/-- What the stream was does not matter to the frame, but for its number and its cursor (R8, R9). -/
theorem openFrame_congr (p : Part) (x : Eye) (stamp : Stamp) {f g : StreamCtx → StreamCtx}
    (number : (f (p.stream x)).frameNumber = (g (p.stream x)).frameNumber)
    (cursor : (f (p.stream x)).cursor = (g (p.stream x)).cursor) :
    openFrame x stamp (p.onStream x f) = openFrame x stamp (p.onStream x g) := by
  have stream (h : StreamCtx → StreamCtx) : (p.onStream x h).stream x = h (p.stream x) := (PerEye.get_set ..).trans (if_pos rfl)
  have request (h : StreamCtx → StreamCtx) := requestSlot_onStream p x h x ((h (p.stream x)).frameNumber + 1) stamp (p.eyeSettings x).geom
  have asked (h : StreamCtx → StreamCtx) : nextRequest x stamp (p.onStream x h) =
      requestSlot x ((h (p.stream x)).frameNumber + 1) stamp (p.eyeSettings x).geom (p.onStream x h) := by
    unfold nextRequest
    rw [stream]
    rfl
  have streams (frame : Word) := congrArg (PerEye.get · x) (requestSlot_streams p x frame stamp (p.eyeSettings x).geom)
  have placed (slot : Option Nat) : StreamCtx.placed slot (StreamCtx.numbered (p.eyeSettings x).geom (f (p.stream x))) =
      StreamCtx.placed slot (StreamCtx.numbered (p.eyeSettings x).geom (g (p.stream x))) := by
    unfold StreamCtx.placed StreamCtx.numbered
    cases slot <;> simp [number, cursor]
  have opened (h : StreamCtx → StreamCtx) : openFrame x stamp (p.onStream x h) =
      (requestSlot x ((h (p.stream x)).frameNumber + 1) stamp (p.eyeSettings x).geom p).1.onStream x fun _ =>
        StreamCtx.placed (requestSlot x ((h (p.stream x)).frameNumber + 1) stamp (p.eyeSettings x).geom p).2
          (StreamCtx.numbered (p.eyeSettings x).geom (h (p.stream x))) := by
    rw [openFrame_eq, asked, request, onStream_onStream]
    unfold Part.onStream
    rw [streams]
    rfl
  rw [opened, opened, number, placed]

end Sys2Proof.Machine

/-! SUPPORT. Frame starts over an open frame and with no FREE slot (R8 to R10, R27, R34 to R36, R57). -/

namespace Sys2Proof.Machine

/-! ### The frame that opens after a retirement run, or not at all -/

theorem openFrame_of_run {p : Part} {x : Eye} {i : Nat} (stamp : Stamp) (full : lowestFree (p.slots.get x) = none)
    (freed : lowestFree ((evaluateRetirement p).slots.get x) = some i) :
    openFrame x stamp p = slotOpened x i ((evaluateRetirement p).opened x i stamp) := by
  have stream : (evaluateRetirement p).stream x = p.stream x := congrArg (PerEye.get · x) (evaluateRetirement_streams p)
  have settings : (evaluateRetirement p).eyeSettings x = p.eyeSettings x := congrArg (·.eye.get x) (evaluateRetirement_rig p)
  have request : nextRequest x stamp p = nextRequest x stamp (evaluateRetirement p) := by
    unfold nextRequest
    rw [stream, settings, requestSlot_of_run _ stamp _ full freed, requestSlot_of_free _ stamp _ freed]
  rw [← openFrame_of_free stamp freed, openFrame_eq, openFrame_eq, request, settings]

theorem openFrame_of_none {p : Part} {x : Eye} (stamp : Stamp) (full : lowestFree (p.slots.get x) = none)
    (still : lowestFree ((evaluateRetirement p).slots.get x) = none) :
    openFrame x stamp p =
      (frameLost x .starved ((p.stream x).frameNumber + 1) stamp none none none false (evaluateRetirement p)).onStream x
        (StreamCtx.placed none ∘ StreamCtx.numbered (p.eyeSettings x).geom) := by
  rw [openFrame_eq, nextRequest, requestSlot_of_none _ stamp _ full still]

/-- Retirement runs no match timer and stops none (R59). -/
theorem evaluateRetirement_matchTimers (p : Part) : (evaluateRetirement p).pairs.matchTimers = p.pairs.matchTimers := by
  obtain ⟨prdy, after⟩ := evaluateRetirement_cases p
  rw [after]

theorem openFrame_of_free_frameStartKeeps {p : Part} {x : Eye} {i : Nat} (stamp : Stamp)
    (free : lowestFree (p.slots.get x) = some i) : p.FrameStartKeeps (slotOpened x i (p.opened x i stamp)) x := by
  refine (opened_frameStartKeeps stamp (slot_of_lowestFree free)).trans (slotOpened_frameStartKeeps ?_)
  rw [opened_slot_same stamp (lowestFree_lt free)]
  exact (by decide : SlotState.filling ≠ .draining)

theorem openFrame_frameStartKeeps (p : Part) (x : Eye) (stamp : Stamp) : p.FrameStartKeeps (openFrame x stamp p) x := by
  cases found : lowestFree (p.slots.get x) with
  | some i =>
    rw [openFrame_of_free stamp found]
    exact openFrame_of_free_frameStartKeeps stamp found
  | none =>
    have run := evaluateRetirement_frameStartKeeps p x
    cases freed : lowestFree ((evaluateRetirement p).slots.get x) with
    | some i =>
      rw [openFrame_of_run stamp found freed]
      exact run.trans (openFrame_of_free_frameStartKeeps stamp freed)
    | none =>
      rw [openFrame_of_none stamp found freed]
      exact (run.trans (frameLost_frameStartKeeps ..)).trans (onStream_frameStartKeeps ..)

/-- Where a slot is FREE the frame opens (R9). -/
theorem openFrame_state_of_free {p : Part} {x : Eye} (stamp : Stamp) (free : lowestFree (p.slots.get x) ≠ none) :
    ((openFrame x stamp p).stream x).state = .open := by
  obtain ⟨i, found⟩ := Option.ne_none_iff_exists'.mp free
  rw [openFrame_stream, nextRequest, requestSlot_of_free _ stamp _ found]
  rfl

theorem linkSlots_state (p : Part) (x : Eye) (i c n : Nat) : ((linkSlots x i c n p).slot x i).state = (p.slot x i).state ∧
    ((linkSlots x i c n p).slot x i).frameNumber = (p.slot x i).frameNumber := by
  rw [linkSlots_slot]
  unfold SlotRecord.link
  split <;> exact ⟨rfl, rfl⟩

/-- The slot that opens is FILLING under the frame's number, alone or with a partner (R26, R37). -/
theorem slotOpened_slot (p : Part) (x : Eye) (i : Nat) : ((slotOpened x i p).slot x i).state = (p.slot x i).state ∧
    ((slotOpened x i p).slot x i).frameNumber = (p.slot x i).frameNumber := by
  rcases slotOpened_cases p x i with alone | ⟨n, c, _, linked⟩
  · rw [alone]
    exact ⟨rfl, rfl⟩
  · rw [linked]
    exact linkSlots_state p x i c n

theorem slotOpened_report (p : Part) (x : Eye) (i : Nat) : (slotOpened x i p).report = p.report := by
  rcases slotOpened_cases p x i with alone | ⟨n, c, _, linked⟩
  · rw [alone]
    rfl
  · rw [linked]
    rfl

/-! ### The frame still open -/

/-- The open frame given up, whatever else that brings about (R8): the stream goes on to number the next frame. -/
theorem dropOpenFrame_frameFixed (p : Part) (x : Eye) (why : LostReason) : p.FrameFixed x (dropOpenFrame x why p) := by
  unfold dropOpenFrame
  split
  · rename_i i _
    obtain ⟨reset, sync, eye, number⟩ := abandon_frameFixed p x x i why
    have own : ((abandon x i why p).onStream x fun c => { c with currentSlot := none }).stream x =
        { (abandon x i why p).stream x with currentSlot := none } := (PerEye.get_set ..).trans (if_pos rfl)
    exact ⟨reset, sync, eye, (congrArg StreamCtx.frameNumber own).trans number⟩
  · exact ⟨rfl, rfl, rfl, rfl⟩

theorem modify_slots_length (p : Part) (x y : Eye) (i : Nat) (f : SlotRecord → SlotRecord) :
    ((p.slots.set x ((p.slots.get x).modify i f)).get y).length = (p.slots.get y).length := by
  rw [PerEye.get_set]
  split
  · rename_i same
    rw [List.length_modify, same]
  · rfl

theorem evaluateRetirement_slots_length (p : Part) (y : Eye) :
    ((evaluateRetirement p).slots.get y).length = (p.slots.get y).length := by
  rw [evaluateRetirement_slots]
  generalize retiring p p.pairs.queue = l
  induction l generalizing p with
  | nil => rfl
  | cons r rs ih =>
    refine (ih (retireSlots p r)).trans ?_
    exact (modify_slots_length (p.onSlot .left r.leftSlot SlotRecord.retire) .right y r.rightSlot _).trans
      (modify_slots_length p .left y r.leftSlot _)

theorem lost_slots_length (p : Part) (x y : Eye) (i : Nat) (why : LostReason) (r : SlotRecord) :
    ((p.lost x i why r).slots.get y).length = (p.slots.get y).length := by
  refine (modify_slots_length (frameLost x why r.frameNumber r.startStamp r.pairNumber r.pairTake (some i) r.endReached p)
    x y i SlotRecord.freeIfDrained).trans ?_
  rw [frameLost_onlyReports p x why r.frameNumber r.startStamp r.pairNumber r.pairTake (some i) r.endReached]

theorem dropped_slots_length (p : Part) (x y : Eye) (i : Nat) (tell : Bool) (why : LostReason) :
    ((p.dropped x i tell why).slots.get y).length = (p.slots.get y).length := by
  unfold Part.dropped
  rw [lost_slots_length, evaluateRetirement_slots_length]
  exact modify_slots_length ..

/-- A slot known to be FREE is found (R26). -/
theorem lowestFree_ne_none {p : Part} {x : Eye} {i : Nat} (known : i < (p.slots.get x).length) (free : (p.slot x i).state = .free) :
    lowestFree (p.slots.get x) ≠ none := by
  intro full
  have record : p.slot x i = (p.slots.get x)[i] := List.getD_eq_getElem _ _ known
  exact (lowestFree_eq_none_iff _).mp full _ (List.getElem_mem known) (record ▸ free)

end Sys2Proof.Machine

/-! SUPPORT. The frame starts of R8 to R10 (R27, R34 to R36, R57). -/

namespace Sys2Proof.Machine

theorem exec_frameStart_of_not_posted {x : Eye} {stamp : Stamp} {rest : List StreamNotice} {s : State}
    (running : s.hw.resetAsserted = false) (head : s.hw.sync.streamNotices.get x = .frameStart stamp :: rest)
    (awake : ignoresFrames (s.hw.stream x).state = false) (quiet : s.hw.post (.eye x) ≠ .posted) :
    exec (.frameStart x) s = .next { s with
      hw := markChanged s.hw (openFrame x stamp (dropOpenFrame x .truncated (s.hw.told x rest))) } :=
  exec_frameStart running head awake (takeFrameStart_of_not_posted (p := s.hw.told x rest) quiet)

/-- The frame of slot `i` given up at a frame start, no slot being current (R8). -/
def Part.truncated (p : Part) (x : Eye) (i : Nat) : Part :=
  (abandon x i .truncated p).onStream x fun c => { c with currentSlot := none }

theorem exec_frameStart_of_open {x : Eye} {stamp : Stamp} {i : Nat} {rest : List StreamNotice} {s : State}
    (running : s.hw.resetAsserted = false) (head : s.hw.sync.streamNotices.get x = .frameStart stamp :: rest)
    (isOpen : (s.hw.stream x).state = .open) (current : (s.hw.stream x).currentSlot = some i)
    (quiet : s.hw.post (.eye x) ≠ .posted) :
    exec (.frameStart x) s = .next { s with
      hw := markChanged s.hw (openFrame x stamp ((s.hw.told x rest).truncated x i)) } := by
  rw [exec_frameStart_of_not_posted running head (by rw [isOpen]; rfl) quiet,
    dropOpenFrame_of_open (p := s.hw.told x rest) .truncated isOpen current]
  rfl

theorem truncated_frameStartKeeps (p : Part) (x : Eye) (i : Nat) (stamp : Stamp) :
    (abandon x i .truncated p).FrameStartKeeps (openFrame x stamp (p.truncated x i)) x :=
  (onStream_frameStartKeeps ..).trans (openFrame_frameStartKeeps ..)

theorem truncates_filling {p : Part} {x : Eye} {i : Nat} (filling : (p.slot x i).state = .filling) :
    acceptsAbandon .truncated (p.slot x i) = true := (acceptsAbandon_iff ..).mpr filling

/-- The number of the frame, whatever stood open before (R8, R9). -/
theorem openFrame_number (p : Part) (x : Eye) (stamp : Stamp) :
    ((openFrame x stamp p).stream x).frameNumber = (p.stream x).frameNumber + 1 := by
  rw [openFrame_stream]
  cases (nextRequest x stamp p).2 <;> rfl

/-- The stream is OPEN at cursor 0 or in SPILL with no slot (R9, R10). -/
theorem placed_shape (slot : Option Nat) (g : Geometry) (c : StreamCtx) :
    (StreamCtx.placed slot (c.numbered g)).geom = g ∧ (StreamCtx.placed slot (c.numbered g)).completed = false ∧
      ((∃ i, (StreamCtx.placed slot (c.numbered g)).state = .open ∧ (StreamCtx.placed slot (c.numbered g)).currentSlot = some i ∧
          (StreamCtx.placed slot (c.numbered g)).cursor = 0) ∨
        ((StreamCtx.placed slot (c.numbered g)).state = .spill ∧ (StreamCtx.placed slot (c.numbered g)).currentSlot = none)) := by
  cases slot with
  | some i => exact ⟨rfl, rfl, .inl ⟨i, rfl, rfl, rfl⟩⟩
  | none => exact ⟨rfl, rfl, .inr ⟨rfl, rfl⟩⟩

/-- A slot with pieces of its frame outstanding drains on (R34, R42). -/
theorem freeIfDrained_of_outstanding {r : SlotRecord} (outstanding : r.writes ≠ 0 ∨ r.reads ≠ 0 ∨ r.quarantined ≠ 0) :
    r.freeIfDrained = r := by
  refine (freeIfDrained_cases r).2 fun ⟨_, writes, reads, quarantined⟩ => ?_
  rcases outstanding with some | some | some
  · exact some writes
  · exact some reads
  · exact some quarantined

theorem freeIfDrained_not_live {r : SlotRecord} (draining : r.state = .draining) : r.freeIfDrained.state.live = false := by
  unfold SlotRecord.freeIfDrained
  split
  · rfl
  · rw [draining]
    rfl

/-- The number of counters stands (R182). -/
theorem countersFree (n : Nat) : FreeMoves fun q => q.report.counters.length = n where
  pairs _ _ _ _ h := h
  prdy q h := by
    obtain ⟨prdy, judged⟩ := evaluatePrdy_cases q
    rw [judged]
    exact h
  ready q h := by
    obtain ⟨prdy, pulse, driven⟩ := prdyOnReady_cases q
    rw [driven]
    exact h
  slots _ _ _ h := h
  ctx _ _ h := h
  park _ _ _ h := h
  table _ _ _ h := h
  returning _ _ h := h
  issue _ _ h := h
  count _ _ _ h := (raiseBy_length ..).trans h
  record _ _ _ _ h := (queueRecord_length ..).trans h
  flag _ _ h := (congrArg List.length (setFlag_counters ..)).trans h
  post _ _ _ h := h
  readerSettings _ _ _ _ h := h
  window _ _ _ h := h

theorem abandon_counters_length (p : Part) (x : Eye) (i : Nat) (why : LostReason) :
    (abandon x i why p).report.counters.length = p.report.counters.length :=
  FrameMoves.abandon (J := fun q => q.report.counters.length = p.report.counters.length)
    (I := fun q => q.report.counters.length = p.report.counters.length)
    { (countersFree _).moves with abandoned := fun _ _ _ h => h } p x i why rfl

/-- A retirement run frees a slot, and the frame opens there (R27). -/
theorem openFrame_after_run {p : Part} {x : Eye} {i : Nat} (stamp : Stamp) (full : lowestFree (p.slots.get x) = none)
    (freed : lowestFree ((evaluateRetirement p).slots.get x) = some i) :
    ((openFrame x stamp p).stream x).state = .open ∧ ((openFrame x stamp p).stream x).currentSlot = some i ∧
      ((openFrame x stamp p).slot x i).state = .filling ∧
      ((openFrame x stamp p).slot x i).frameNumber = (p.stream x).frameNumber + 1 ∧
      (openFrame x stamp p).report = p.report := by
  have stream := openFrame_stream x stamp p
  rw [nextRequest, requestSlot_of_run _ stamp _ full freed] at stream
  have slot := slotOpened_slot ((evaluateRetirement p).opened x i stamp) x i
  have report := slotOpened_report ((evaluateRetirement p).opened x i stamp) x i
  have sameStream : (evaluateRetirement p).stream x = p.stream x := congrArg (PerEye.get · x) (evaluateRetirement_streams p)
  rw [opened_slot_same stamp (lowestFree_lt freed), sameStream, ← openFrame_of_run stamp full freed] at slot
  rw [← openFrame_of_run stamp full freed] at report
  exact ⟨congrArg StreamCtx.state stream, congrArg StreamCtx.currentSlot stream, slot.1, slot.2,
    report.trans (evaluateRetirement_report p)⟩

/-- The run frees none, and the request is refused STARVED (R10, R27, R36). -/
theorem openFrame_starved {p : Part} {x : Eye} (stamp : Stamp) (sized : p.report.counters.length = 20)
    (full : lowestFree (p.slots.get x) = none) (still : lowestFree ((evaluateRetirement p).slots.get x) = none) :
    (openFrame x stamp p).stream x = { p.stream x with
        state := .spill, frameNumber := (p.stream x).frameNumber + 1, currentSlot := none, geom := (p.eyeSettings x).geom,
        completed := false } ∧
      (openFrame x stamp p).slots = (evaluateRetirement p).slots ∧ (openFrame x stamp p).pairs = (evaluateRetirement p).pairs ∧
      (openFrame x stamp p).count (.lost .starved) = p.count (.lost .starved) + 1 ∧
      (openFrame x stamp p).report.flags.getLsbD EventFlag.frameLost.bit = true ∧
      (p.report.queue.length < 16 → (openFrame x stamp p).report.queue = p.report.queue ++
        [{ seq := p.report.seq, stamp := stamp, take := p.take,
           body := .frameLost .starved ((p.stream x).frameNumber + 1) none x none false }]) := by
  have stream := openFrame_stream x stamp p
  rw [nextRequest, requestSlot_of_none _ stamp _ full still] at stream
  have report := evaluateRetirement_report p
  have take : (evaluateRetirement p).take = p.take := congrArg (·.global.take) (evaluateRetirement_rig p)
  rw [openFrame_of_none stamp full still] at stream ⊢
  generalize evaluateRetirement p = w at *
  have only := frameLost_onlyReports w x .starved ((p.stream x).frameNumber + 1) stamp none none none false
  have slots := congrArg Part.slots (show _ = _ from only)
  have pairs := congrArg Part.pairs (show _ = _ from only)
  have count := frameLost_count w x .starved ((p.stream x).frameNumber + 1) stamp none none none false
    (by rw [report, sized]) .starved
  have record := frameLost_record w x .starved ((p.stream x).frameNumber + 1) stamp none none none false
  rw [count_of_counters (congrArg ReportUnit.counters report), if_pos rfl] at count
  rw [report, take] at record
  exact ⟨stream, slots, pairs, count, frameLost_flag .., record⟩

/-- Settles O15: the number, the frame still open alone or with its partner, the order of closing it, and no FREE slot. -/
theorem frameStartNumbersTheFrame : Obligations.FrameStartNumbersTheFrame := by
  refine ⟨?_, ?_, ?_, ?_, ?_⟩
  · intro x stamp rest s running head notOff notWaiting quiet
    have fixed := dropOpenFrame_frameFixed (s.hw.told x rest) x .truncated
    refine ⟨_, exec_frameStart_of_not_posted running head (awake_of_ne notOff notWaiting) quiet, rfl,
      (openFrame_number _ x stamp).trans (congrArg (· + 1) fixed.number), ?_⟩
    have stream := openFrame_stream x stamp (dropOpenFrame x .truncated (s.hw.told x rest))
    rw [show (dropOpenFrame x .truncated (s.hw.told x rest)).eyeSettings x = s.hw.eyeSettings x from
      congrArg (PerEye.get · x) fixed.eye] at stream
    have shape := placed_shape (nextRequest x stamp (dropOpenFrame x .truncated (s.hw.told x rest))).2 (s.hw.eyeSettings x).geom
      ((dropOpenFrame x .truncated (s.hw.told x rest)).stream x)
    rw [← stream] at shape
    exact shape
  · intro x stamp i rest s running head sized isOpen current known filling record quiet room
    have isDropped : abandon x i .truncated (s.hw.told x rest) = (s.hw.told x rest).dropped x i false .truncated :=
      abandon_unlinked (truncates_filling filling) record
    have spec := dropped_spec (p := s.hw.told x rest) (x := x) (i := i) false .truncated known
    have kept := truncated_frameStartKeeps (s.hw.told x rest) x i stamp
    have length := dropped_slots_length (s.hw.told x rest) x x i false .truncated
    rw [← isDropped] at spec length
    obtain ⟨later, queue⟩ := kept.later
    rw [(spec.record room).1, List.append_assoc] at queue
    refine ⟨_, exec_frameStart_of_open running head isOpen current quiet, rfl,
      ((kept.count (spec.length.trans sized) .truncated (by decide)).trans (spec.count sized .truncated)).trans (if_pos rfl),
      kept.flags _ spec.flag, ⟨later, queue⟩, fun outstanding => ?_, fun ⟨writes, reads, quarantined⟩ => ?_⟩
    · have slot := spec.slot.trans (freeIfDrained_of_outstanding outstanding)
      obtain ⟨sameSlot, sameTimer⟩ := kept.draining i (by rw [slot])
      exact ⟨sameSlot.trans slot, sameTimer.trans spec.timer⟩
    · have slot := spec.slot.trans ((freeIfDrained_cases _).1 ⟨rfl, writes, reads, quarantined⟩)
      exact openFrame_state_of_free stamp (lowestFree_ne_none (p := (s.hw.told x rest).truncated x i)
        (Nat.lt_of_lt_of_eq known length.symm) (congrArg SlotRecord.state slot))
  · intro x stamp i j q rest s running head sized isOpen current known filling quiet record forming names partnerKnown live linked
      latest room own partner
    subst names
    have spec := abandon_linked_spec (p := s.hw.told x rest) (x := x) (i := i) (why := .truncated) (by decide)
      (truncates_filling filling) record forming known partnerKnown live linked latest
    have kept := truncated_frameStartKeeps (s.hw.told x rest) x i stamp
    have sizedAfter := (abandon_counters_length (s.hw.told x rest) x i .truncated).trans sized
    have fixed := dropOpenFrame_frameFixed (s.hw.told x rest) x .truncated
    rw [dropOpenFrame_of_open (p := s.hw.told x rest) .truncated isOpen current] at fixed
    have partnerKept := kept.idle (q.slotOf x.other) (by rw [spec.otherSlot]; exact freeIfDrained_not_live rfl)
      (by rw [spec.otherSlot]; exact freeIfDrained_not_paired rfl)
    obtain ⟨later, queue⟩ := kept.later
    rw [spec.record room, List.append_assoc] at queue
    refine ⟨_, exec_frameStart_of_open running head isOpen current quiet, rfl,
      (openFrame_number _ x stamp).trans (congrArg (· + 1) fixed.number), kept.otherStream.trans spec.otherStream,
      partnerKept.trans spec.otherSlot, kept.stopped _ spec.otherTimer,
      fun k listed isForming other => kept.forming k (spec.forming k listed isForming other) isForming,
      (kept.count sizedAfter .truncated (by decide)).trans (spec.count sized),
      (kept.count sizedAfter .partnerLost (by decide)).trans (spec.partnerCount sized), kept.flags _ spec.flag, ⟨later, queue⟩,
      fun outstanding => ?_⟩
    have slot := spec.slot.trans (freeIfDrained_of_outstanding outstanding)
    obtain ⟨sameSlot, sameTimer⟩ := kept.draining i (by rw [slot])
    exact ⟨sameSlot.trans slot, sameTimer.trans spec.timer⟩
  · intro x stamp i rest s running head isOpen current quiet gone closed
    have fixed : (s.hw.told x rest).FrameFixed x gone := abandon_frameFixed (s.hw.told x rest) x x i .truncated
    have eyes : (s.hw.told x rest).KeepsEyes gone := abandon_keepsEyes x i .truncated (s.hw.told x rest)
    have between : (closed.stream x).state = .between := closedFirst_state gone x s.hw.sync
    have still : closed.post (.eye x) ≠ .posted := fun posted => quiet ((eyes.post x).symm.trans posted)
    have opens : openFrame x stamp (dropOpenFrame x .truncated (closed.told x rest)) =
        openFrame x stamp ((s.hw.told x rest).truncated x i) := by
      rw [dropOpenFrame_of_closed (p := closed.told x rest) .truncated (ne_of_eq_of_ne between (by decide)),
        show closed.told x rest = _ from closedFirst_told fixed.sync]
      exact openFrame_congr gone x stamp rfl rfl
    have other := exec_frameStart_of_not_posted (s := { s with hw := closed }) (fixed.reset.trans running) head
      (by rw [between]; rfl) still
    rw [opens] at other
    exact ⟨_, _, exec_frameStart_of_open running head isOpen current quiet, other, rfl, rfl⟩
  · intro x stamp rest s running head sized closed quiet full run number
    have closed : (s.hw.stream x).state.closed := closed
    have noFree : lowestFree ((s.hw.told x rest).slots.get x) = none := (lowestFree_eq_none_iff _).mpr full
    have sameRun : (evaluateRetirement (s.hw.told x rest)).slots = run := evaluateRetirement_slots_congr rfl rfl rfl rfl
    have step := exec_frameStart_of_not_posted running head (awake_of_ne closed.notOff closed.notWaiting) quiet
    rw [dropOpenFrame_of_closed (p := s.hw.told x rest) .truncated closed.notOpen] at step
    refine ⟨fun i free before => ?_, fun allTaken => ?_⟩
    · have freed : lowestFree ((evaluateRetirement (s.hw.told x rest)).slots.get x) = some i := by
        rw [sameRun]
        exact lowestFree_eq_some free before
      obtain ⟨state, current, slot, frame, report⟩ := openFrame_after_run stamp noFree freed
      have flags := congrArg ReportUnit.flags report
      exact ⟨_, step, rfl, state, current, slot, frame, flags⟩
    · have still : lowestFree ((evaluateRetirement (s.hw.told x rest)).slots.get x) = none := by
        rw [sameRun]
        exact (lowestFree_eq_none_iff _).mpr allTaken
      obtain ⟨stream, slots, pairs, count, flag, record⟩ := openFrame_starved (p := s.hw.told x rest) stamp sized noFree still
      have queue : (evaluateRetirement (s.hw.told x rest)).pairs.queue = (evaluateRetirement s.hw).pairs.queue := by
        rw [evaluateRetirement_queue, evaluateRetirement_queue]
        exact staying_congr (retires_congr (p := s.hw.told x rest) (q := s.hw) rfl rfl) _
      have timers := evaluateRetirement_matchTimers (s.hw.told x rest)
      exact ⟨_, step, rfl, stream, slots.trans sameRun, (congrArg PairManager.queue pairs).trans queue,
        (congrArg PairManager.matchTimers pairs).trans timers, count, flag, record⟩

end Sys2Proof.Machine
